-- ==== Sys2Proof/Word.lean ====
section
/-! DEFINITION. The word and the byte of every register, record and memory (R8, spec/00_scope.md). -/

namespace Sys2Proof

/-- A register word: registers are 32 bits, little-endian (spec/00_scope.md, Notation). -/
abbrev Word := BitVec 32

/-- One byte of a record, a frame, an image or a memory. -/
abbrev Byte := BitVec 8

end Sys2Proof
end

