-- ==== Sys2Proof/Config.lean ====
section
/-! DEFINITION. What the spec fixes as a number of the hardware, what an implementation or integrator fixes, and the
free values: uninterpreted, so that a claim holds whatever they are. -/

namespace Sys2Proof.Config

/-- The free value drawn at a count (log entry 3): nothing constrains it. -/
opaque free : Nat → Nat

/-- SHA-384 of a byte string (FIPS 180-4, named by R175, R404, R416): the spec does not restate it. -/
opaque sha384 : List Byte → List Byte

/-- SHA-512 of a byte string (named by R382 for the Heartwood chain). -/
opaque sha512 : List Byte → List Byte

/-- Whether an Ed25519 signature verifies: key, message, signature (R175, R389). -/
opaque ed25519Verify : List Byte → List Byte → List Byte → Bool

/-- The Ed25519 signature of a message under a die's own key (R382). -/
opaque ed25519Sign : List Byte → List Byte → List Byte

/-- Whether an ECDSA P-384 signature verifies: key, message digest, signature (R405). -/
opaque ecdsaVerify : List Byte → List Byte → List Byte → Bool

/-- Heartwood's own public key, drawn from its own entropy at its first power-up (R389). -/
opaque heartKey : List Byte

/-- The authority key in a Heartwood's OTP, or none where none is programmed (R389): the integrator's, a free value. -/
opaque heartAuthority : Option (List Byte)

/-- The partition's ROM, metrology firmware 1.3 (R373). -/
opaque heartRom : List Byte

/-- The initial value of an echo canceller's tap, in 2^-32, from the correlation at its delay over a number of samples (R198; log entry 107). -/
opaque tapInit : Int → Nat → Int

/-- The page ranges that an HBM_MAP section gives a crown node word, by kind: 0 history store, 1 audit region, 2 engine queues, 3 broadcast
store, 4 firmware's own, 5 host region, 6 view region; first page and number of pages (Table 16.2; log entry 66): the spec names the
section's content and gives it no layout. -/
opaque hbmMap : List Byte → Nat → Nat → Nat × Nat

/-- What a byte of HBM or holding memory that nothing has written reads as (log entry 4). -/
def unwrittenByte : Byte := 0

end Sys2Proof.Config
end

