-- ==== Sys2Proof/Machine/Data.lean ====
section
/-! DEFINITION. Plain data every unit is built from: tables by number in one canonical form, bytes, bit fields,
saturating counts and signed fields. -/

namespace Sys2Proof.Machine

/-- A table of entries by number, sparse: an unlisted number holds the table's own unlisted value. -/
abbrev Tab (α : Type) := List (Nat × α)

/-- The entry at `n`, and `d n` where none is listed. -/
def Tab.get {α : Type} (d : Nat → α) (t : Tab α) (n : Nat) : α :=
  match t with
  | [] => d n
  | (k, v) :: r => if n = k then v else Tab.get d r n

/-- Places an entry before the first entry of a higher number. -/
def Tab.ins {α : Type} (n : Nat) (v : α) (t : Tab α) : Tab α :=
  match t with
  | [] => [(n, v)]
  | (k, w) :: r => if n < k then (n, v) :: (k, w) :: r else (k, w) :: Tab.ins n v r

/-- Every entry but the one at `n`. -/
def Tab.drop {α : Type} (t : Tab α) (n : Nat) : Tab α := t.filter (fun e => e.1 != n)

/-- The table with `v` at `n`; the unlisted value is not listed, so equal tables are equal data. -/
def Tab.set {α : Type} [DecidableEq α] (d : Nat → α) (t : Tab α) (n : Nat) (v : α) : Tab α :=
  if v = d n then t.drop n else (t.drop n).ins n v

/-- The canonical form: numbers strictly rising and no entry equal to the unlisted value. -/
def Tab.wf {α : Type} [DecidableEq α] (d : Nat → α) (t : Tab α) : Bool :=
  decide (t.Pairwise (fun a b => a.1 < b.1)) && t.all (fun e => decide (e.2 ≠ d e.1))

/-- Entries placed one after another. -/
def Tab.setAll {α : Type} [DecidableEq α] (d : Nat → α) (t : Tab α) (l : List (Nat × α)) : Tab α :=
  l.foldl (fun t e => t.set d e.1 e.2) t

/-- Bits `hi` down to `lo` of a number. -/
def bitsOf (x hi lo : Nat) : Nat := (x >>> lo) % 2 ^ (hi + 1 - lo)

/-- Bit `i` of a number. -/
def bitOf (x i : Nat) : Bool := x.testBit i

/-- `x` with bits `hi` down to `lo` replaced by `v`. -/
def putBits (x hi lo v : Nat) : Nat :=
  x - (bitsOf x hi lo) * 2 ^ lo + (v % 2 ^ (hi + 1 - lo)) * 2 ^ lo

/-- 1 for true, 0 for false: how a status bit reads. -/
def b2n (b : Bool) : Nat := if b then 1 else 0

/-- A count of `w` bits that stops at its highest value ("saturates"). -/
def satAdd (w x n : Nat) : Nat := min (x + n) (2 ^ w - 1)

/-- The value of a two's-complement field of `w` bits. -/
def sgn (w x : Nat) : Int := if x % 2 ^ w < 2 ^ (w - 1) then ((x % 2 ^ w : Nat) : Int) else ((x % 2 ^ w : Nat) : Int) - 2 ^ w

/-- The two's-complement field of `w` bits that holds an integer, wrapping. -/
def unsgn (w : Nat) (x : Int) : Nat := (x % (2 ^ w : Int)).toNat

/-- The integer held to the range of a signed field of `w` bits ("saturating"). -/
def satInt (w : Nat) (x : Int) : Int := max (-(2 ^ (w - 1) : Int)) (min x (2 ^ (w - 1) - 1 : Int))

/-- A number held within plus and minus `l` (R44). -/
def clampInt (x l : Int) : Int := max (-l) (min x l)

/-- The 32-bit difference of two sequence numbers as a signed value (R148). -/
def seqDiff (a b : Nat) : Int := sgn 32 (a + 2 ^ 32 - b % 2 ^ 32)

/-- The `n` bytes of a number, lowest first (multi-byte fields are little-endian). -/
def le (n v : Nat) : List Byte :=
  match n with
  | 0 => []
  | k + 1 => BitVec.ofNat 8 v :: le k (v / 256)

/-- The number that bytes spell, lowest first. -/
def ofLe (l : List Byte) : Nat :=
  match l with
  | [] => 0
  | b :: r => b.toNat + 256 * ofLe r

/-- `n` zero bytes: a reserved field of a record. -/
def zeros (n : Nat) : List Byte := List.replicate n 0

/-- The field of `n` bytes at offset `i` of a body. -/
def field (l : List Byte) (i n : Nat) : Nat := ofLe ((l.drop i).take n)

/-- One byte holding the given number. -/
def byte (v : Nat) : List Byte := [BitVec.ofNat 8 v]

/-- Round up to a whole multiple. -/
def ceilDiv (a b : Nat) : Nat := if b = 0 then 0 else (a + b - 1) / b

/-- The list with its entry at `i` replaced. -/
def setAt {α : Type} (l : List α) (i : Nat) (v : α) : List α := l.set i v

/-- The numbers below `n` that satisfy `p`, rising. -/
def numsWhere (n : Nat) (p : Nat → Bool) : List Nat := (List.range n).filter p

/-- The lowest number below `n` that satisfies `p`. -/
def lowest (n : Nat) (p : Nat → Bool) : Option Nat := (List.range n).find? p

/-- The division of integers that rounds toward zero (R44). -/
def divZero (a b : Int) : Int := if b = 0 then 0 else Int.tdiv a b

/-- The list sorted by a key, entries of equal key in their old order. -/
def insertBy {α : Type} (le : α → α → Bool) (x : α) (l : List α) : List α :=
  match l with
  | [] => [x]
  | y :: r => if le x y then x :: y :: r else y :: insertBy le x r

/-- Insertion sort: stable, structural. -/
def sortBy {α : Type} (le : α → α → Bool) (l : List α) : List α :=
  l.foldr (insertBy le) []

end Sys2Proof.Machine
end

