-- ==== Sys2Proof/Formats.lean ====
section
/-! DEFINITION. The shapes commands and records carry: stamps, records, frames, node words, and the byte layouts the
chapters state for them. -/

namespace Sys2Proof.Machine

/-- Units of 2^-32 ns in one nanosecond: the last place of FRAC (R32). -/
def fracPerNs : Nat := 2 ^ 32

/-- Nanoseconds in one second. -/
def nsPerSec : Nat := 1000000000

/-- A time word as its 16 bytes, FRAC first (R38): the number counts units of 2^-32 ns since the epoch. -/
def twBytes (t : Nat) : List Byte :=
  le 4 (t % fracPerNs) ++ le 4 (t / fracPerNs % nsPerSec) ++ le 8 (t / fracPerNs / nsPerSec)

/-- The time word that 16 bytes spell. -/
def twOf (l : List Byte) : Nat :=
  (ofLe (l.drop 8 |>.take 8) * nsPerSec + ofLe (l.drop 4 |>.take 4)) * fracPerNs + ofLe (l.take 4)

/-- QUAL of a stamp (R34). -/
inductive Qual where
  /-- 0b00: taken in LOCKED with FAULT = 0. -/
  | locked
  /-- 0b01: taken in ACQUIRE or HOLDOVER after the step with FAULT = 0, or a corrected pre-step stamp. -/
  | notLocked
  /-- 0b10: taken while FAULT = 1, after the step. -/
  | fault
  /-- 0b11: uncorrected local time, taken before the step. -/
  | preStep
  deriving DecidableEq, Repr

/-- The code of a QUAL (R34). -/
def Qual.code : Qual → Nat
  | .locked => 0
  | .notLocked => 1
  | .fault => 2
  | .preStep => 3

/-- A stamp of a time unit: the visible time word in units of 2^-32 ns, and its quality. -/
structure Stamp where
  t : Nat
  qual : Qual
  deriving DecidableEq, Repr

/-- A record on its way to a packer: KIND (Table 6.2), class, body, and where the body holds its stamp and QUAL, so
that a stamp taken before the step can be corrected (R47). -/
structure Rec where
  kind : Nat
  cls : Nat
  body : List Byte
  stamp : Stamp
  stampAt : Nat
  qualAt : Option (Nat × Nat)
  /-- The body ends in a CRC-32C over the bytes before it (Ring log records, R165). -/
  crcTail : Bool
  deriving DecidableEq, Repr

/-- A record with no stamp of its own to correct. -/
def plainRec (kind cls : Nat) (body : List Byte) : Rec :=
  { kind := kind, cls := cls, body := body, stamp := ⟨0, .locked⟩, stampAt := 0, qualAt := none, crcTail := false }

/-- The envelope of a record and its body: LEN (3 bytes) and KIND (1 byte), then the body (R137). -/
def envelope (kind : Nat) (body : List Byte) : List Byte := le 3 body.length ++ byte kind ++ body

/-- The bytes with the field at `i` overwritten. -/
def overwrite (l : List Byte) (i : Nat) (new : List Byte) : List Byte := l.take i ++ new ++ l.drop (i + new.length)

/-! ### Node words (R16 to R19) -/

/-- NONE, the node word that names no node (R19). -/
def nodeNone : Nat := 0xFFFFFFFF

/-- The level a node word names: 0 leaf, 1 tray crown, 2 pod crown, 3 root (R16). -/
def nodeLevel (n : Nat) : Nat := bitsOf n 31 30

/-- Whether a node word is malformed (R18). -/
def nodeMalformed (n : Nat) : Bool :=
  let self := bitOf n 29
  let phys := bitOf n 27
  (self && nodeLevel n == 0) || (phys && self) || (phys && nodeLevel n == 3) || bitsOf n 26 18 != 0

/-- The fields a receiver compares: it ignores the address fields below the named level (R17). -/
def nodeKey (n : Nat) : Nat :=
  if nodeLevel n = 0 then n else if nodeLevel n = 1 then putBits n 5 0 0
  else if nodeLevel n = 2 then putBits n 11 0 0 else putBits n 17 0 0

/-- Two words name one node: the address fields below the named level do not count (R17). -/
def sameNode (a b : Nat) : Bool := nodeKey a == nodeKey b

/-- The node words of a message pass R18 and R19: `ws` stand in fields that name a node, `os` in fields that may hold NONE. -/
def nodesGood (ws os : List Nat) : Bool := ws.all (fun w => !nodeMalformed w) && os.all (fun w => w == nodeNone || !nodeMalformed w)

/-- The canopy address pod.tray.leaf of 18 bits (R16). -/
def nodeAddr (pod tray leaf : Nat) : Nat := pod * 4096 + tray * 64 + leaf

/-- The node word that names the die on downlink port `p` of the crown `n` (R20, Table 1.3). -/
def physNode (crown p : Nat) : Nat :=
  if nodeLevel crown = 1 then putBits 0x08000000 17 0 (bitsOf crown 17 6 * 64 + p)
  else if nodeLevel crown = 2 then putBits 0x48000000 17 0 (bitsOf crown 17 12 * 4096 + p * 64)
  else putBits 0x88000000 17 0 (p * 4096)

/-! ### Check values (Table 6.10) -/

/-- One bit of a reflected CRC. -/
def crcBitR (poly c : Nat) : Nat := if c % 2 = 1 then (c / 2) ^^^ poly else c / 2

/-- One byte into a reflected CRC. -/
def crcByteR (poly c b : Nat) : Nat :=
  (List.range 8).foldl (fun c _ => crcBitR poly c) (c ^^^ b)

/-- One bit of a CRC of `w` bits, not reflected. -/
def crcBitN (w poly c : Nat) : Nat :=
  if bitOf c (w - 1) then (c * 2 % 2 ^ w) ^^^ poly else c * 2 % 2 ^ w

/-- One byte into a CRC of `w` bits, not reflected. -/
def crcByteN (w poly c b : Nat) : Nat :=
  (List.range 8).foldl (fun c _ => crcBitN w poly c) (c ^^^ (b * 2 ^ (w - 8)))

/-- The initial value of a CRC by POLY (Table 6.10). -/
def crcInit (poly : Nat) : Nat :=
  match poly with
  | 0 => 0xFFFF
  | 3 => 0
  | _ => 0xFFFFFFFF

/-- One byte into the CRC that POLY selects (Table 6.10; the reflected forms of 0x04C11DB7 and 0x1EDC6F41). -/
def crcFeed (poly c : Nat) (b : Byte) : Nat :=
  match poly with
  | 0 => crcByteN 16 0x1021 c b.toNat
  | 1 => crcByteR 0xEDB88320 c b.toNat
  | 2 => crcByteR 0x82F63B78 c b.toNat
  | _ => crcByteN 64 0x42F0E1EBA9EA3693 c b.toNat

/-- The CRC that reads out of a running state: the final XOR of Table 6.10. -/
def crcFinal (poly c : Nat) : Nat := if poly = 1 ∨ poly = 2 then c ^^^ 0xFFFFFFFF else c

/-- The CRC of a byte string. -/
def crcOf (poly : Nat) (l : List Byte) : Nat := crcFinal poly (l.foldl (crcFeed poly) (crcInit poly))

/-- CRC-32C (FCHK, RAW_CRC, R141). -/
def crc32c (l : List Byte) : Nat := crcOf 2 l

/-- A record whose stamp has been corrected by the step value, with QUAL set to 0b01 (R47). -/
def Rec.corrected (r : Rec) (delta : Int) : Rec :=
  let t := ((r.stamp.t : Int) + delta).toNat
  let body := overwrite r.body r.stampAt (twBytes t)
  let body := match r.qualAt with
    | none => body
    | some (i, b) => overwrite body i (byte (putBits (field body i 1) (b + 1) b 1))
  let body := if r.crcTail then overwrite body (body.length - 4) (le 4 (crc32c (body.take (body.length - 4)))) else body
  { r with body := body, stamp := ⟨t, .notLocked⟩ }

/-! ### Sap frames (R141, Table 6.4) -/

/-- A Sap frame. -/
structure Frame where
  format : Nat
  cls : Nat
  comp : Bool
  hb : Bool
  replay : Bool
  lossIn : Bool
  /-- The reserved flag bit, carried through a forwarded frame (R150). -/
  spare : Bool
  src : Nat
  seq : Nat
  alive : Nat
  boot : Nat
  roff : Nat
  rlen : Nat
  foff : Nat
  payload : List Byte
  deriving DecidableEq, Repr

/-- Header and payload of a frame, over which FCHK is taken. -/
def Frame.head (f : Frame) : List Byte :=
  byte f.format ++ byte (f.cls + 8 * b2n f.comp + 16 * b2n f.hb + 32 * b2n f.replay + 64 * b2n f.lossIn + 128 * b2n f.spare)
    ++ le 2 f.payload.length ++ le 4 f.src ++ le 4 f.seq ++ le 3 f.alive ++ byte f.boot ++ le 4 f.roff
    ++ le 2 f.rlen ++ le 2 f.foff ++ f.payload

/-- The bytes of a frame on a lane. -/
def Frame.bytes (f : Frame) : List Byte := f.head ++ le 4 (crc32c f.head)

/-- The length of a frame on a lane: header, payload and trailer. -/
def Frame.len (f : Frame) : Nat := 24 + f.payload.length + 4

/-- The frame that bytes spell; its FCHK is judged apart. -/
def Frame.parse (l : List Byte) : Frame :=
  let x := field l 1 1
  { format := field l 0 1, cls := x % 8, comp := bitOf x 3, hb := bitOf x 4, replay := bitOf x 5, lossIn := bitOf x 6, spare := bitOf x 7,
    src := field l 4 4, seq := field l 8 4, alive := field l 12 3, boot := field l 15 1, roff := field l 16 4,
    rlen := field l 20 2, foff := field l 22 2, payload := (l.drop 24).take (field l 2 2) }

/-- Whether received bytes carry the FCHK of the frame whose PLEN they hold (R148); a length that does not match PLEN
fails it (log entry 12, DEDUCED). -/
def fchkGood (l : List Byte) : Bool :=
  let n := field l 2 2
  decide (l.length = 28 + n) && decide (crc32c (l.take (24 + n)) = field l (24 + n) 4)

end Sys2Proof.Machine
end

