-- ==== Sys2Proof/Machine/RegNames.lean ====
section
/-! DEFINITION. The registers and fields the meanings name, at the offsets and bits of the spec's register tables;
a name is the spec's `REGISTER_FIELD`, its arguments the indices of the family. -/

namespace Sys2Proof.Machine

/-- A field of a register: its offset in the window and its bits. -/
structure Fld where
  off : Nat
  hi : Nat
  lo : Nat
  deriving DecidableEq, Repr

def BK_CAP_FAR_CAP (b : Nat) : Fld := ⟨b + 0x18, 31, 0⟩
def BK_CAP_LOCAL_CAP (b : Nat) : Fld := ⟨b + 0x14, 31, 0⟩
def BK_CTRL_CEIL (b : Nat) : Fld := ⟨b + 0x0, 28, 26⟩
def BK_CTRL_EN (b : Nat) : Fld := ⟨b + 0x0, 31, 31⟩
def BK_CTRL_KA_US (b : Nat) : Fld := ⟨b + 0x0, 15, 8⟩
def BK_CTRL_LEAD_FLEX (b : Nat) : Fld := ⟨b + 0x0, 29, 29⟩
def BK_CTRL_MARGIN (b : Nat) : Fld := ⟨b + 0x0, 25, 20⟩
def BK_CTRL_RETRAIN (b : Nat) : Fld := ⟨b + 0x0, 30, 30⟩
def BK_DEGRADE_CNT_COUNT (b : Nat) : Fld := ⟨b + 0x38, 31, 0⟩
def BK_DEG_DEG_HYST (b : Nat) : Fld := ⟨b + 0x4, 31, 24⟩
def BK_DEG_DEG_N (b : Nat) : Fld := ⟨b + 0x4, 23, 16⟩
def BK_DEG_LQ_MS (b : Nat) : Fld := ⟨b + 0x4, 7, 0⟩
def BK_DEG_UNC_DEG (b : Nat) : Fld := ⟨b + 0x4, 15, 8⟩
def BK_DOWN_CNT_COUNT (b : Nat) : Fld := ⟨b + 0x34, 31, 0⟩
def BK_EC_CLUSc_DELAY (b c : Nat) : Fld := ⟨b + 0x60 + 0x4 * c, 16, 0⟩
def BK_EC_CLUSc_EN (b c : Nat) : Fld := ⟨b + 0x60 + 0x4 * c, 31, 31⟩
def BK_EC_CTRL_FLOOR (b : Nat) : Fld := ⟨b + 0x44, 7, 0⟩
def BK_EC_CTRL_FREEZE (b : Nat) : Fld := ⟨b + 0x44, 31, 31⟩
def BK_EC_CTRL_MU (b : Nat) : Fld := ⟨b + 0x44, 27, 24⟩
def BK_ERLE_ERLE (b : Nat) : Fld := ⟨b + 0x24, 15, 0⟩
def BK_FEC_CORR_COUNT (b : Nat) : Fld := ⟨b + 0x2C, 31, 0⟩
def BK_FEC_CW_COUNT (b : Nat) : Fld := ⟨b + 0x28, 31, 0⟩
def BK_FEC_UNCORR_COUNT (b : Nat) : Fld := ⟨b + 0x30, 31, 0⟩
def BK_LQ_ESNR (b : Nat) : Fld := ⟨b + 0x20, 31, 16⟩
def BK_LQ_NLOG_SER (b : Nat) : Fld := ⟨b + 0x20, 15, 0⟩
def BK_NODE_FAR_NODE (b : Nat) : Fld := ⟨b + 0x1C, 31, 0⟩
def BK_RETRY_RETRY_MS (b : Nat) : Fld := ⟨b + 0xC, 31, 16⟩
def BK_STAT_IN_SERVICE (b : Nat) : Fld := ⟨b + 0x10, 22, 22⟩
def BK_STAT_LAST_FAIL (b : Nat) : Fld := ⟨b + 0x10, 21, 19⟩
def BK_STAT_LEAD (b : Nat) : Fld := ⟨b + 0x10, 24, 24⟩
def BK_STAT_MODE (b : Nat) : Fld := ⟨b + 0x10, 27, 25⟩
def BK_STAT_SIGNAL (b : Nat) : Fld := ⟨b + 0x10, 23, 23⟩
def BK_STAT_STATE (b : Nat) : Fld := ⟨b + 0x10, 31, 28⟩
def BK_TRAIN_CNT_COUNT (b : Nat) : Fld := ⟨b + 0x3C, 31, 0⟩
def BK_TRAIN_FAIL_COUNT (b : Nat) : Fld := ⟨b + 0x40, 31, 0⟩
def BK_TXFIR_MAIN (b : Nat) : Fld := ⟨b + 0x8, 23, 16⟩
def BK_TXFIR_POST (b : Nat) : Fld := ⟨b + 0x8, 15, 8⟩
def BK_TXFIR_PRE (b : Nat) : Fld := ⟨b + 0x8, 31, 24⟩
def BZ_ADM_ITEM : Nat := 0x150054
def BZ_ADM_ITEM_ITEM : Fld := ⟨0x150054, 31, 0⟩
def BZ_ADM_REFUSED : Nat := 0x150058
def BZ_ADM_REFUSED_COUNT : Fld := ⟨0x150058, 31, 0⟩
def BZ_ADM_RESULT : Nat := 0x150050
def BZ_ADM_RESULT_ACCEPT : Fld := ⟨0x150050, 30, 30⟩
def BZ_ADM_RESULT_CODE : Fld := ⟨0x150050, 23, 16⟩
def BZ_ADM_RESULT_DONE : Fld := ⟨0x150050, 31, 31⟩
def BZ_ADM_RESULT_SECT : Fld := ⟨0x150050, 15, 0⟩
def BZ_AGE_CTRL : Nat := 0xF8000
def BZ_AGE_CTRL_EN : Fld := ⟨0xF8000, 31, 31⟩
def BZ_AGE_CTRL_PERIOD : Fld := ⟨0xF8000, 15, 0⟩
def BZ_AGE_EXP : Nat := 0xF8008
def BZ_AGE_EXP_N : Fld := ⟨0xF8008, 7, 0⟩
def BZ_AGE_GB : Nat := 0xF800C
def BZ_AGE_GB_GB_MIN : Fld := ⟨0xF800C, 15, 0⟩
def BZ_AGE_GB_GB_RADIO : Fld := ⟨0xF800C, 31, 16⟩
def BZ_AGE_HORIZON : Nat := 0xF8004
def BZ_AGE_HORIZON_H : Fld := ⟨0xF8004, 31, 0⟩
def BZ_AGE_REBASE : Nat := 0xF8018
def BZ_AGE_REBASE_COUNT : Fld := ⟨0xF8018, 31, 0⟩
def BZ_AGE_RELIEF : Nat := 0xF8010
def BZ_AGE_RELIEF_HYST : Fld := ⟨0xF8010, 31, 16⟩
def BZ_AGE_RELIEF_MAX_STEPS : Fld := ⟨0xF8010, 7, 0⟩
def BZ_AGE_RETIRED : Nat := 0xF8014
def BZ_AGE_RETIRED_COUNT : Fld := ⟨0xF8014, 31, 0⟩
def BZ_AUDPp_ESC (p : Nat) : Nat := 0xE0100 + 0x4 * p
def BZ_AUDPp_ESC_E (p : Nat) : Fld := ⟨0xE0100 + 0x4 * p, 31, 0⟩
def BZ_AUD_ABANDON : Nat := 0xE0050
def BZ_AUD_ABANDON_COUNT : Fld := ⟨0xE0050, 31, 0⟩
def BZ_AUD_BTHRESH : Nat := 0xE0008
def BZ_AUD_BTHRESH_THRESH : Fld := ⟨0xE0008, 31, 0⟩
def BZ_AUD_CRFLT : Nat := 0xE004C
def BZ_AUD_CRFLT_COUNT : Fld := ⟨0xE004C, 31, 0⟩
def BZ_AUD_CTRL : Nat := 0xE0000
def BZ_AUD_CTRL_BND_MULT : Fld := ⟨0xE0000, 15, 8⟩
def BZ_AUD_CTRL_BOOST_LOG : Fld := ⟨0xE0000, 23, 16⟩
def BZ_AUD_CTRL_EN : Fld := ⟨0xE0000, 31, 31⟩
def BZ_AUD_CTRL_RESEED_H : Fld := ⟨0xE0000, 7, 0⟩
def BZ_AUD_CTRL_SHARE : Fld := ⟨0xE0000, 30, 24⟩
def BZ_AUD_ENG_BOOST : Nat := 0xE006C
def BZ_AUD_ENG_BOOST_BOOST_LEFT : Fld := ⟨0xE006C, 31, 0⟩
def BZ_AUD_ENG_LKG : Nat := 0xE0068
def BZ_AUD_ENG_LKG_TILE_SEQ : Fld := ⟨0xE0068, 31, 0⟩
def BZ_AUD_ENG_SEL : Nat := 0xE0060
def BZ_AUD_ENG_SEL_ENGINE : Fld := ⟨0xE0060, 7, 0⟩
def BZ_AUD_ENG_SEL_PORT : Fld := ⟨0xE0060, 13, 8⟩
def BZ_AUD_ENG_STAT : Nat := 0xE0064
def BZ_AUD_ENG_STAT_CLEAR : Fld := ⟨0xE0064, 27, 27⟩
def BZ_AUD_ENG_STAT_OPEN : Fld := ⟨0xE0064, 28, 28⟩
def BZ_AUD_ENG_STAT_STATE : Fld := ⟨0xE0064, 31, 29⟩
def BZ_AUD_ESC : Nat := 0xE0028
def BZ_AUD_ESC_FIT : Fld := ⟨0xE0028, 15, 0⟩
def BZ_AUD_ESC_TARGET : Fld := ⟨0xE0028, 31, 16⟩
def BZ_AUD_HBM_BASE : Nat := 0xE0020
def BZ_AUD_HBM_BASE_PAGE : Fld := ⟨0xE0020, 27, 0⟩
def BZ_AUD_HBM_PAGES : Nat := 0xE0024
def BZ_AUD_HBM_PAGES_COUNT : Fld := ⟨0xE0024, 26, 0⟩
def BZ_AUD_INDET : Nat := 0xE0048
def BZ_AUD_INDET_COUNT : Fld := ⟨0xE0048, 31, 0⟩
def BZ_AUD_MISMATCH : Nat := 0xE0044
def BZ_AUD_MISMATCH_COUNT : Fld := ⟨0xE0044, 31, 0⟩
def BZ_AUD_PASS : Nat := 0xE0040
def BZ_AUD_PASS_COUNT : Fld := ⟨0xE0040, 31, 0⟩
def BZ_AUD_RANGEi (i : Nat) : Nat := 0xE0010 + 0x4 * i
def BZ_AUD_RANGEi_CB (i : Nat) : Fld := ⟨0xE0010 + 0x4 * i, 8, 0⟩
def BZ_AUD_RANGEi_CN (i : Nat) : Fld := ⟨0xE0010 + 0x4 * i, 25, 16⟩
def BZ_AUD_REHEARSE : Nat := 0xE0030
def BZ_AUD_REHEARSE_ENGINE : Fld := ⟨0xE0030, 7, 0⟩
def BZ_AUD_REHEARSE_GO : Fld := ⟨0xE0030, 31, 31⟩
def BZ_AUD_REHEARSE_MISSED : Fld := ⟨0xE0030, 29, 29⟩
def BZ_AUD_REHEARSE_PEND : Fld := ⟨0xE0030, 30, 30⟩
def BZ_AUD_REHEARSE_PORT : Fld := ⟨0xE0030, 13, 8⟩
def BZ_AUD_TAINTS : Nat := 0xE0054
def BZ_AUD_TAINTS_COUNT : Fld := ⟨0xE0054, 31, 0⟩
def BZ_AUD_THRESH : Nat := 0xE0004
def BZ_AUD_THRESH_THRESH : Fld := ⟨0xE0004, 31, 0⟩
def BZ_AUD_WEIGHT : Nat := 0xE0058
def BZ_AUD_WEIGHT_COUNT : Fld := ⟨0xE0058, 31, 0⟩
def BZ_AUD_WROUND : Nat := 0xE002C
def BZ_AUD_WROUND_S : Fld := ⟨0xE002C, 15, 0⟩
def BZ_BCs_EXCL (s : Nat) : Nat := 0x150208 + 0x10 * s
def BZ_BCs_EXCL_COUNT (s : Nat) : Fld := ⟨0x150208 + 0x10 * s, 31, 0⟩
def BZ_BCs_ID (s : Nat) : Nat := 0x150200 + 0x10 * s
def BZ_BCs_ID_BC_ID (s : Nat) : Fld := ⟨0x150200 + 0x10 * s, 31, 0⟩
def BZ_BCs_REQS (s : Nat) : Nat := 0x15020C + 0x10 * s
def BZ_BCs_REQS_COUNT (s : Nat) : Fld := ⟨0x15020C + 0x10 * s, 31, 0⟩
def BZ_BCs_STAT (s : Nat) : Nat := 0x150204 + 0x10 * s
def BZ_BCs_STAT_HAVE (s : Nat) : Fld := ⟨0x150204 + 0x10 * s, 15, 0⟩
def BZ_BCs_STAT_STATE (s : Nat) : Fld := ⟨0x150204 + 0x10 * s, 31, 29⟩
def BZ_BK_ENG : Nat := 0x7F004
def BZ_BK_ENG_BUSY : Fld := ⟨0x7F004, 15, 0⟩
def BZ_BK_GATE : Nat := 0x7F000
def BZ_BK_GATE_GATE_MS : Fld := ⟨0x7F000, 15, 0⟩
def BZ_BKk_CAP_FAR (k : Nat) : Nat := 0x40018 + 0x400 * k
def BZ_BKk_CAP_FAR_CAP (k : Nat) : Fld := ⟨0x40018 + 0x400 * k, 31, 0⟩
def BZ_BKk_CAP_LOCAL (k : Nat) : Nat := 0x40014 + 0x400 * k
def BZ_BKk_CAP_LOCAL_CAP (k : Nat) : Fld := ⟨0x40014 + 0x400 * k, 31, 0⟩
def BZ_BKk_CTRL (k : Nat) : Nat := 0x40000 + 0x400 * k
def BZ_BKk_CTRL_CEIL (k : Nat) : Fld := ⟨0x40000 + 0x400 * k, 28, 26⟩
def BZ_BKk_CTRL_EN (k : Nat) : Fld := ⟨0x40000 + 0x400 * k, 31, 31⟩
def BZ_BKk_CTRL_KA_US (k : Nat) : Fld := ⟨0x40000 + 0x400 * k, 15, 8⟩
def BZ_BKk_CTRL_LEAD_FLEX (k : Nat) : Fld := ⟨0x40000 + 0x400 * k, 29, 29⟩
def BZ_BKk_CTRL_MARGIN (k : Nat) : Fld := ⟨0x40000 + 0x400 * k, 25, 20⟩
def BZ_BKk_CTRL_RETRAIN (k : Nat) : Fld := ⟨0x40000 + 0x400 * k, 30, 30⟩
def BZ_BKk_DEG (k : Nat) : Nat := 0x40004 + 0x400 * k
def BZ_BKk_DEGRADE_CNT (k : Nat) : Nat := 0x40038 + 0x400 * k
def BZ_BKk_DEGRADE_CNT_COUNT (k : Nat) : Fld := ⟨0x40038 + 0x400 * k, 31, 0⟩
def BZ_BKk_DEG_DEG_HYST (k : Nat) : Fld := ⟨0x40004 + 0x400 * k, 31, 24⟩
def BZ_BKk_DEG_DEG_N (k : Nat) : Fld := ⟨0x40004 + 0x400 * k, 23, 16⟩
def BZ_BKk_DEG_LQ_MS (k : Nat) : Fld := ⟨0x40004 + 0x400 * k, 7, 0⟩
def BZ_BKk_DEG_UNC_DEG (k : Nat) : Fld := ⟨0x40004 + 0x400 * k, 15, 8⟩
def BZ_BKk_DOWN_CNT (k : Nat) : Nat := 0x40034 + 0x400 * k
def BZ_BKk_DOWN_CNT_COUNT (k : Nat) : Fld := ⟨0x40034 + 0x400 * k, 31, 0⟩
def BZ_BKk_EC_CLUSc (k c : Nat) : Nat := 0x40060 + 0x400 * k + 0x4 * c
def BZ_BKk_EC_CLUSc_DELAY (k c : Nat) : Fld := ⟨0x40060 + 0x400 * k + 0x4 * c, 16, 0⟩
def BZ_BKk_EC_CLUSc_EN (k c : Nat) : Fld := ⟨0x40060 + 0x400 * k + 0x4 * c, 31, 31⟩
def BZ_BKk_EC_CTRL (k : Nat) : Nat := 0x40044 + 0x400 * k
def BZ_BKk_EC_CTRL_FLOOR (k : Nat) : Fld := ⟨0x40044 + 0x400 * k, 7, 0⟩
def BZ_BKk_EC_CTRL_FREEZE (k : Nat) : Fld := ⟨0x40044 + 0x400 * k, 31, 31⟩
def BZ_BKk_EC_CTRL_MU (k : Nat) : Fld := ⟨0x40044 + 0x400 * k, 27, 24⟩
def BZ_BKk_ERLE (k : Nat) : Nat := 0x40024 + 0x400 * k
def BZ_BKk_ERLE_ERLE (k : Nat) : Fld := ⟨0x40024 + 0x400 * k, 15, 0⟩
def BZ_BKk_FEC_CORR (k : Nat) : Nat := 0x4002C + 0x400 * k
def BZ_BKk_FEC_CORR_COUNT (k : Nat) : Fld := ⟨0x4002C + 0x400 * k, 31, 0⟩
def BZ_BKk_FEC_CW (k : Nat) : Nat := 0x40028 + 0x400 * k
def BZ_BKk_FEC_CW_COUNT (k : Nat) : Fld := ⟨0x40028 + 0x400 * k, 31, 0⟩
def BZ_BKk_FEC_UNCORR (k : Nat) : Nat := 0x40030 + 0x400 * k
def BZ_BKk_FEC_UNCORR_COUNT (k : Nat) : Fld := ⟨0x40030 + 0x400 * k, 31, 0⟩
def BZ_BKk_LQ (k : Nat) : Nat := 0x40020 + 0x400 * k
def BZ_BKk_LQ_ESNR (k : Nat) : Fld := ⟨0x40020 + 0x400 * k, 31, 16⟩
def BZ_BKk_LQ_NLOG_SER (k : Nat) : Fld := ⟨0x40020 + 0x400 * k, 15, 0⟩
def BZ_BKk_NODE_FAR (k : Nat) : Nat := 0x4001C + 0x400 * k
def BZ_BKk_NODE_FAR_NODE (k : Nat) : Fld := ⟨0x4001C + 0x400 * k, 31, 0⟩
def BZ_BKk_RETRY (k : Nat) : Nat := 0x4000C + 0x400 * k
def BZ_BKk_RETRY_RETRY_MS (k : Nat) : Fld := ⟨0x4000C + 0x400 * k, 31, 16⟩
def BZ_BKk_STAT (k : Nat) : Nat := 0x40010 + 0x400 * k
def BZ_BKk_STAT_IN_SERVICE (k : Nat) : Fld := ⟨0x40010 + 0x400 * k, 22, 22⟩
def BZ_BKk_STAT_LAST_FAIL (k : Nat) : Fld := ⟨0x40010 + 0x400 * k, 21, 19⟩
def BZ_BKk_STAT_LEAD (k : Nat) : Fld := ⟨0x40010 + 0x400 * k, 24, 24⟩
def BZ_BKk_STAT_MODE (k : Nat) : Fld := ⟨0x40010 + 0x400 * k, 27, 25⟩
def BZ_BKk_STAT_SIGNAL (k : Nat) : Fld := ⟨0x40010 + 0x400 * k, 23, 23⟩
def BZ_BKk_STAT_STATE (k : Nat) : Fld := ⟨0x40010 + 0x400 * k, 31, 28⟩
def BZ_BKk_TRAIN_CNT (k : Nat) : Nat := 0x4003C + 0x400 * k
def BZ_BKk_TRAIN_CNT_COUNT (k : Nat) : Fld := ⟨0x4003C + 0x400 * k, 31, 0⟩
def BZ_BKk_TRAIN_FAIL (k : Nat) : Nat := 0x40040 + 0x400 * k
def BZ_BKk_TRAIN_FAIL_COUNT (k : Nat) : Fld := ⟨0x40040 + 0x400 * k, 31, 0⟩
def BZ_BKk_TXFIR (k : Nat) : Nat := 0x40008 + 0x400 * k
def BZ_BKk_TXFIR_MAIN (k : Nat) : Fld := ⟨0x40008 + 0x400 * k, 23, 16⟩
def BZ_BKk_TXFIR_POST (k : Nat) : Fld := ⟨0x40008 + 0x400 * k, 15, 8⟩
def BZ_BKk_TXFIR_PRE (k : Nat) : Fld := ⟨0x40008 + 0x400 * k, 31, 24⟩
def BZ_BOOT_CMD : Nat := 0x150008
def BZ_BOOT_CMD_WARM : Fld := ⟨0x150008, 31, 31⟩
def BZ_BOOT_CMD_WARM_ON_WD : Fld := ⟨0x150008, 30, 30⟩
def BZ_BOOT_CTRL : Nat := 0x150004
def BZ_BOOT_CTRL_MIN_PCT : Fld := ⟨0x150004, 15, 8⟩
def BZ_BOOT_CTRL_READY_MS : Fld := ⟨0x150004, 31, 16⟩
def BZ_BOOT_STAT : Nat := 0x150000
def BZ_BOOT_STAT_BASIC : Fld := ⟨0x150000, 24, 24⟩
def BZ_BOOT_STAT_FAILCODE : Fld := ⟨0x150000, 23, 16⟩
def BZ_BOOT_STAT_PHASE : Fld := ⟨0x150000, 31, 28⟩
def BZ_BOOT_STAT_SHORT : Fld := ⟨0x150000, 26, 26⟩
def BZ_BOOT_STAT_SLOT_B : Fld := ⟨0x150000, 25, 25⟩
def BZ_BOOT_STAT_WARM : Fld := ⟨0x150000, 27, 27⟩
def BZ_BOOT_TIME : Nat := 0x15000C
def BZ_BOOT_TIME_US : Fld := ⟨0x15000C, 31, 0⟩
def BZ_BURL_OUT : Nat := 0xD0024
def BZ_BURL_OUT_COUNT : Fld := ⟨0xD0024, 31, 0⟩
def BZ_BURL_SEQ : Nat := 0xD0020
def BZ_BURL_SEQ_SEQ : Fld := ⟨0xD0020, 31, 0⟩
def BZ_BURL_SUPP : Nat := 0xD0028
def BZ_BURL_SUPP_COUNT : Fld := ⟨0xD0028, 31, 0⟩
def BZ_CBADq_w (q w : Nat) : Nat := 0x81000 + 0x20 * q + 0x4 * w
def BZ_CBADq_w_BAD (q w : Nat) : Fld := ⟨0x81000 + 0x20 * q + 0x4 * w, 31, 0⟩
def BZ_CLK_ALIVE : Nat := 0x130000
def BZ_CLK_ALIVE_ALIVE : Fld := ⟨0x130000, 19, 0⟩
def BZ_CLK_FAIL : Nat := 0x130004
def BZ_CLK_FAILS : Nat := 0x130008
def BZ_CLK_FAILS_COUNT : Fld := ⟨0x130008, 31, 0⟩
def BZ_CLK_FAIL_FAIL : Fld := ⟨0x130004, 19, 0⟩
def BZ_CLKd_CTRL (d : Nat) : Nat := 0x130100 + 0x10 * d
def BZ_CLKd_CTRL_DIV (d : Nat) : Fld := ⟨0x130100 + 0x10 * d, 3, 0⟩
def BZ_CLKd_CTRL_MULT (d : Nat) : Fld := ⟨0x130100 + 0x10 * d, 15, 8⟩
def BZ_CLKd_CTRL_PLL_EN (d : Nat) : Fld := ⟨0x130100 + 0x10 * d, 30, 30⟩
def BZ_CLKd_CTRL_SEL (d : Nat) : Fld := ⟨0x130100 + 0x10 * d, 31, 31⟩
def BZ_CLKd_STAT (d : Nat) : Nat := 0x130104 + 0x10 * d
def BZ_CLKd_STAT_ERR (d : Nat) : Fld := ⟨0x130104 + 0x10 * d, 29, 29⟩
def BZ_CLKd_STAT_LOCK (d : Nat) : Fld := ⟨0x130104 + 0x10 * d, 31, 31⟩
def BZ_CLKd_STAT_ON_PLL (d : Nat) : Fld := ⟨0x130104 + 0x10 * d, 28, 28⟩
def BZ_CLKd_STAT_SWITCHING (d : Nat) : Fld := ⟨0x130104 + 0x10 * d, 30, 30⟩
def BZ_CMAP_CMD : Nat := 0x80100
def BZ_CMAP_CMD_GO : Fld := ⟨0x80100, 31, 31⟩
def BZ_CMAP_CMD_LOGICAL : Fld := ⟨0x80100, 6, 0⟩
def BZ_CMAP_CMD_OP : Fld := ⟨0x80100, 30, 29⟩
def BZ_CMAP_CMD_PHYS : Fld := ⟨0x80100, 23, 16⟩
def BZ_CMAP_CMD_QUAD : Fld := ⟨0x80100, 25, 24⟩
def BZ_CMAP_DISAGREE : Nat := 0x80108
def BZ_CMAP_DISAGREE_COUNT : Fld := ⟨0x80108, 31, 0⟩
def BZ_CMAP_STAT : Nat := 0x80104
def BZ_CMAP_STAT_BUSY : Fld := ⟨0x80104, 31, 31⟩
def BZ_CMAP_STAT_ECODE : Fld := ⟨0x80104, 29, 27⟩
def BZ_CMAP_STAT_ERR : Fld := ⟨0x80104, 30, 30⟩
def BZ_CMAPq_l (q l : Nat) : Nat := 0x80200 + 0x200 * q + 0x4 * l
def BZ_CMAPq_l_PHYS (q l : Nat) : Fld := ⟨0x80200 + 0x200 * q + 0x4 * l, 7, 0⟩
def BZ_CMAPq_l_VALID (q l : Nat) : Fld := ⟨0x80200 + 0x200 * q + 0x4 * l, 31, 31⟩
def BZ_ENG_CE : Nat := 0x80010
def BZ_ENG_CE_COUNT : Fld := ⟨0x80010, 31, 0⟩
def BZ_ENG_CTRL : Nat := 0x80000
def BZ_ENG_CTRL_EN : Fld := ⟨0x80000, 31, 31⟩
def BZ_ENG_FAULTS : Nat := 0x80008
def BZ_ENG_FAULTS_COUNT : Fld := ⟨0x80008, 31, 0⟩
def BZ_ENG_FLT_LAST : Nat := 0x8000C
def BZ_ENG_FLT_LAST_CODE : Fld := ⟨0x8000C, 31, 24⟩
def BZ_ENG_FLT_LAST_PCELL : Fld := ⟨0x8000C, 9, 0⟩
def BZ_ENG_FLT_LAST_QUEUE : Fld := ⟨0x8000C, 23, 21⟩
def BZ_ENG_STAT : Nat := 0x80004
def BZ_ENG_STAT_BASIC : Fld := ⟨0x80004, 31, 31⟩
def BZ_ENG_STAT_NCELL : Fld := ⟨0x80004, 9, 0⟩
def BZ_ENG_STAT_NOHBM : Fld := ⟨0x80004, 30, 30⟩
def BZ_ENSe_CMD (e : Nat) : Nat := 0xC0100 + 0x20 * e
def BZ_ENSe_CMD_GO (e : Nat) : Fld := ⟨0xC0100 + 0x20 * e, 31, 31⟩
def BZ_ENSe_CMD_OP (e : Nat) : Fld := ⟨0xC0100 + 0x20 * e, 30, 29⟩
def BZ_ENSe_CMD_PBASE (e : Nat) : Fld := ⟨0xC0100 + 0x20 * e, 5, 0⟩
def BZ_ENSe_CMD_PCNT (e : Nat) : Fld := ⟨0xC0100 + 0x20 * e, 14, 8⟩
def BZ_ENSe_CMD_STREAM (e : Nat) : Fld := ⟨0xC0100 + 0x20 * e, 28, 28⟩
def BZ_ENSe_GEN (e : Nat) : Nat := 0xC0118 + 0x20 * e
def BZ_ENSe_GEN_COUNT (e : Nat) : Fld := ⟨0xC0118 + 0x20 * e, 31, 0⟩
def BZ_ENSe_IMG (e : Nat) : Nat := 0xC0104 + 0x20 * e
def BZ_ENSe_IMG_PAGE (e : Nat) : Fld := ⟨0xC0104 + 0x20 * e, 27, 0⟩
def BZ_ENSe_INFO (e : Nat) : Nat := 0xC010C + 0x20 * e
def BZ_ENSe_INFO_NFEAT (e : Nat) : Fld := ⟨0xC010C + 0x20 * e, 31, 19⟩
def BZ_ENSe_INFO_NTREE (e : Nat) : Fld := ⟨0xC010C + 0x20 * e, 16, 0⟩
def BZ_ENSe_STAT (e : Nat) : Nat := 0xC0108 + 0x20 * e
def BZ_ENSe_STAT_ECODE (e : Nat) : Fld := ⟨0xC0108 + 0x20 * e, 27, 24⟩
def BZ_ENSe_STAT_NOUT (e : Nat) : Fld := ⟨0xC0108 + 0x20 * e, 4, 0⟩
def BZ_ENSe_STAT_STATE (e : Nat) : Fld := ⟨0xC0108 + 0x20 * e, 31, 29⟩
def BZ_ENSe_STAT_STREAMED (e : Nat) : Fld := ⟨0xC0108 + 0x20 * e, 28, 28⟩
def BZ_ENSe_TAG_HI (e : Nat) : Nat := 0xC0114 + 0x20 * e
def BZ_ENSe_TAG_HI_TAG_HI (e : Nat) : Fld := ⟨0xC0114 + 0x20 * e, 31, 0⟩
def BZ_ENSe_TAG_LO (e : Nat) : Nat := 0xC0110 + 0x20 * e
def BZ_ENSe_TAG_LO_TAG_LO (e : Nat) : Fld := ⟨0xC0110 + 0x20 * e, 31, 0⟩
def BZ_EQk_BASE (k : Nat) : Nat := 0x82004 + 0x80 * k
def BZ_EQk_BASE_PAGE (k : Nat) : Fld := ⟨0x82004 + 0x80 * k, 27, 0⟩
def BZ_EQk_CPL_BASE (k : Nat) : Nat := 0x82010 + 0x80 * k
def BZ_EQk_CPL_BASE_PAGE (k : Nat) : Fld := ⟨0x82010 + 0x80 * k, 27, 0⟩
def BZ_EQk_CPL_HEAD (k : Nat) : Nat := 0x82014 + 0x80 * k
def BZ_EQk_CPL_HEAD_HEAD (k : Nat) : Fld := ⟨0x82014 + 0x80 * k, 15, 0⟩
def BZ_EQk_CPL_TAIL (k : Nat) : Nat := 0x82018 + 0x80 * k
def BZ_EQk_CPL_TAIL_TAIL (k : Nat) : Fld := ⟨0x82018 + 0x80 * k, 15, 0⟩
def BZ_EQk_CTRL (k : Nat) : Nat := 0x82000 + 0x80 * k
def BZ_EQk_CTRL_ABORT (k : Nat) : Fld := ⟨0x82000 + 0x80 * k, 30, 30⟩
def BZ_EQk_CTRL_EN (k : Nat) : Fld := ⟨0x82000 + 0x80 * k, 31, 31⟩
def BZ_EQk_CTRL_PRIO (k : Nat) : Fld := ⟨0x82000 + 0x80 * k, 29, 28⟩
def BZ_EQk_CTRL_SIZE_LOG (k : Nat) : Fld := ⟨0x82000 + 0x80 * k, 19, 16⟩
def BZ_EQk_DONE (k : Nat) : Nat := 0x82030 + 0x80 * k
def BZ_EQk_DONE_COUNT (k : Nat) : Fld := ⟨0x82030 + 0x80 * k, 31, 0⟩
def BZ_EQk_HEAD (k : Nat) : Nat := 0x82008 + 0x80 * k
def BZ_EQk_HEAD_HEAD (k : Nat) : Fld := ⟨0x82008 + 0x80 * k, 15, 0⟩
def BZ_EQk_RESTART (k : Nat) : Nat := 0x82034 + 0x80 * k
def BZ_EQk_RESTART_COUNT (k : Nat) : Fld := ⟨0x82034 + 0x80 * k, 31, 0⟩
def BZ_EQk_RHI (k : Nat) : Nat := 0x82020 + 0x80 * k
def BZ_EQk_RHI_PAGE (k : Nat) : Fld := ⟨0x82020 + 0x80 * k, 27, 0⟩
def BZ_EQk_RLO (k : Nat) : Nat := 0x8201C + 0x80 * k
def BZ_EQk_RLO_PAGE (k : Nat) : Fld := ⟨0x8201C + 0x80 * k, 27, 0⟩
def BZ_EQk_STAT (k : Nat) : Nat := 0x8202C + 0x80 * k
def BZ_EQk_STAT_CPL_FULL (k : Nat) : Fld := ⟨0x8202C + 0x80 * k, 29, 29⟩
def BZ_EQk_STAT_OVR (k : Nat) : Fld := ⟨0x8202C + 0x80 * k, 28, 28⟩
def BZ_EQk_STAT_RUNNING (k : Nat) : Fld := ⟨0x8202C + 0x80 * k, 31, 31⟩
def BZ_EQk_STAT_WAITING (k : Nat) : Fld := ⟨0x8202C + 0x80 * k, 30, 30⟩
def BZ_EQk_TAIL (k : Nat) : Nat := 0x8200C + 0x80 * k
def BZ_EQk_TAIL_TAIL (k : Nat) : Fld := ⟨0x8200C + 0x80 * k, 15, 0⟩
def BZ_EQk_WHI (k : Nat) : Nat := 0x82028 + 0x80 * k
def BZ_EQk_WHI_PAGE (k : Nat) : Fld := ⟨0x82028 + 0x80 * k, 27, 0⟩
def BZ_EQk_WLO (k : Nat) : Nat := 0x82024 + 0x80 * k
def BZ_EQk_WLO_PAGE (k : Nat) : Fld := ⟨0x82024 + 0x80 * k, 27, 0⟩
def BZ_FEAT_EFFw (w : Nat) : Nat := 0x40 + 0x4 * w
def BZ_FEAT_EFFw_FEAT (w : Nat) : Fld := ⟨0x40 + 0x4 * w, 31, 0⟩
def BZ_FEAT_FWw (w : Nat) : Nat := 0x20 + 0x4 * w
def BZ_FEAT_FWw_FEAT (w : Nat) : Fld := ⟨0x20 + 0x4 * w, 31, 0⟩
def BZ_FEAT_HOSTw (w : Nat) : Nat := 0x30 + 0x4 * w
def BZ_FEAT_HOSTw_FEAT (w : Nat) : Fld := ⟨0x30 + 0x4 * w, 31, 0⟩
def BZ_FEATw (w : Nat) : Nat := 0x10 + 0x4 * w
def BZ_FEATw_FEAT (w : Nat) : Fld := ⟨0x10 + 0x4 * w, 31, 0⟩
def BZ_FLEX_CIRCx (x : Nat) : Nat := 0x2240C + 0x4 * x
def BZ_FLEX_CIRCx_CIRCUIT (x : Nat) : Fld := ⟨0x2240C + 0x4 * x, 31, 0⟩
def BZ_FLEX_CTRL : Nat := 0x22400
def BZ_FLEX_CTRL_REL : Fld := ⟨0x22400, 30, 30⟩
def BZ_FLEX_CTRL_REQ : Fld := ⟨0x22400, 31, 31⟩
def BZ_FLEX_DENY : Nat := 0x22418
def BZ_FLEX_DENY_COUNT : Fld := ⟨0x22418, 31, 0⟩
def BZ_FLEX_REQS : Nat := 0x22414
def BZ_FLEX_REQS_COUNT : Fld := ⟨0x22414, 31, 0⟩
def BZ_FLEX_STAT : Nat := 0x22408
def BZ_FLEX_STAT_L70 : Fld := ⟨0x22408, 29, 29⟩
def BZ_FLEX_STAT_L71 : Fld := ⟨0x22408, 30, 30⟩
def BZ_FLEX_STAT_PEND : Fld := ⟨0x22408, 31, 31⟩
def BZ_FLEX_TARGET : Nat := 0x22404
def BZ_FLEX_TARGET_NODE : Fld := ⟨0x22404, 31, 0⟩
def BZ_FLEX_TMO : Nat := 0x2241C
def BZ_FLEX_TMO_COUNT : Fld := ⟨0x2241C, 31, 0⟩
def BZ_FS_CTRL : Nat := 0xC8000
def BZ_FS_CTRL_EN : Fld := ⟨0xC8000, 31, 31⟩
def BZ_FSs_LATE (s : Nat) : Nat := 0xC810C + 0x20 * s
def BZ_FSs_LATE_COUNT (s : Nat) : Fld := ⟨0xC810C + 0x20 * s, 31, 0⟩
def BZ_FSs_PART (s : Nat) : Nat := 0xC8108 + 0x20 * s
def BZ_FSs_PART_COUNT (s : Nat) : Fld := ⟨0xC8108 + 0x20 * s, 31, 0⟩
def BZ_FSs_RBASE (s : Nat) : Nat := 0xC8110 + 0x20 * s
def BZ_FSs_RBASE_DEPTH_LOG (s : Nat) : Fld := ⟨0xC8110 + 0x20 * s, 31, 28⟩
def BZ_FSs_RBASE_PAGE (s : Nat) : Fld := ⟨0xC8110 + 0x20 * s, 27, 0⟩
def BZ_FSs_STAT (s : Nat) : Nat := 0xC8100 + 0x20 * s
def BZ_FSs_STAT_ACTIVE (s : Nat) : Fld := ⟨0xC8100 + 0x20 * s, 31, 31⟩
def BZ_FSs_STAT_FSET_ID (s : Nat) : Fld := ⟨0xC8100 + 0x20 * s, 15, 0⟩
def BZ_FSs_VEC (s : Nat) : Nat := 0xC8104 + 0x20 * s
def BZ_FSs_VEC_COUNT (s : Nat) : Fld := ⟨0xC8104 + 0x20 * s, 31, 0⟩
def BZ_FSs_WIDX (s : Nat) : Nat := 0xC8114 + 0x20 * s
def BZ_FSs_WIDX_WIDX (s : Nat) : Fld := ⟨0xC8114 + 0x20 * s, 31, 0⟩
def BZ_FW_LOAD_CTRL : Nat := 0x110010
def BZ_FW_LOAD_CTRL_BUSY : Fld := ⟨0x110010, 30, 30⟩
def BZ_FW_LOAD_CTRL_GO : Fld := ⟨0x110010, 31, 31⟩
def BZ_FW_LOAD_CTRL_RESULT : Fld := ⟨0x110010, 29, 27⟩
def BZ_FW_LOAD_DATA : Nat := 0x110018
def BZ_FW_LOAD_DATA_DATA : Fld := ⟨0x110018, 31, 0⟩
def BZ_FW_LOAD_LEN : Nat := 0x11001C
def BZ_FW_LOAD_LEN_BYTES : Fld := ⟨0x11001C, 31, 0⟩
def BZ_FW_LOAD_PAGE : Nat := 0x110014
def BZ_FW_LOAD_PAGE_PAGE : Fld := ⟨0x110014, 27, 0⟩
def BZ_FW_RUN_PAGE : Nat := 0x110020
def BZ_FW_RUN_PAGE_PAGE : Fld := ⟨0x110020, 27, 0⟩
def BZ_GPIO_IN : Nat := 0x110048
def BZ_GPIO_IN_IN : Fld := ⟨0x110048, 15, 0⟩
def BZ_GPIO_OE : Nat := 0x110044
def BZ_GPIO_OE_OE : Fld := ⟨0x110044, 15, 0⟩
def BZ_GPIO_OUT : Nat := 0x110040
def BZ_GPIO_OUT_OUT : Fld := ⟨0x110040, 15, 0⟩
def BZ_GRVRr_BASE (r : Nat) : Nat := 0xF0104 + 0x20 * r
def BZ_GRVRr_BASE_PAGE (r : Nat) : Fld := ⟨0xF0104 + 0x20 * r, 27, 0⟩
def BZ_GRVRr_CPL_BASE (r : Nat) : Nat := 0xF0110 + 0x20 * r
def BZ_GRVRr_CPL_BASE_PAGE (r : Nat) : Fld := ⟨0xF0110 + 0x20 * r, 27, 0⟩
def BZ_GRVRr_CPL_HEAD (r : Nat) : Nat := 0xF0114 + 0x20 * r
def BZ_GRVRr_CPL_HEAD_HEAD (r : Nat) : Fld := ⟨0xF0114 + 0x20 * r, 15, 0⟩
def BZ_GRVRr_CPL_TAIL (r : Nat) : Nat := 0xF0118 + 0x20 * r
def BZ_GRVRr_CPL_TAIL_TAIL (r : Nat) : Fld := ⟨0xF0118 + 0x20 * r, 15, 0⟩
def BZ_GRVRr_CTRL (r : Nat) : Nat := 0xF0100 + 0x20 * r
def BZ_GRVRr_CTRL_EN (r : Nat) : Fld := ⟨0xF0100 + 0x20 * r, 31, 31⟩
def BZ_GRVRr_CTRL_OVR (r : Nat) : Fld := ⟨0xF0100 + 0x20 * r, 30, 30⟩
def BZ_GRVRr_CTRL_SIZE_LOG (r : Nat) : Fld := ⟨0xF0100 + 0x20 * r, 19, 16⟩
def BZ_GRVRr_HEAD (r : Nat) : Nat := 0xF010C + 0x20 * r
def BZ_GRVRr_HEAD_HEAD (r : Nat) : Fld := ⟨0xF010C + 0x20 * r, 15, 0⟩
def BZ_GRVRr_TAIL (r : Nat) : Nat := 0xF0108 + 0x20 * r
def BZ_GRVRr_TAIL_TAIL (r : Nat) : Fld := ⟨0xF0108 + 0x20 * r, 15, 0⟩
def BZ_GRV_CLAIMLOST : Nat := 0xF0024
def BZ_GRV_CLAIMLOST_COUNT : Fld := ⟨0xF0024, 31, 0⟩
def BZ_GRV_COUNTS : Nat := 0xF0010
def BZ_GRV_COUNTS_G0 : Fld := ⟨0xF0010, 7, 0⟩
def BZ_GRV_COUNTS_G1 : Fld := ⟨0xF0010, 15, 8⟩
def BZ_GRV_COUNTS_G2 : Fld := ⟨0xF0010, 23, 16⟩
def BZ_GRV_COUNTS_G3 : Fld := ⟨0xF0010, 31, 24⟩
def BZ_GRV_CTRL : Nat := 0xF0000
def BZ_GRV_CTRL_EN : Fld := ⟨0xF0000, 31, 31⟩
def BZ_GRV_CTRL_GRAFT_EN : Fld := ⟨0xF0000, 30, 30⟩
def BZ_GRV_CTRL_PREEMPT_EN : Fld := ⟨0xF0000, 29, 29⟩
def BZ_GRV_CTRL_UP_MS : Fld := ⟨0xF0000, 15, 0⟩
def BZ_GRV_DIE_JOB : Nat := 0xF0208
def BZ_GRV_DIE_JOB_JOB : Fld := ⟨0xF0208, 31, 0⟩
def BZ_GRV_DIE_SEL : Nat := 0xF0200
def BZ_GRV_DIE_SEL_PORT : Fld := ⟨0xF0200, 5, 0⟩
def BZ_GRV_DIE_STAT : Nat := 0xF0204
def BZ_GRV_DIE_STAT_CAUSE : Fld := ⟨0xF0204, 15, 0⟩
def BZ_GRV_DIE_STAT_GRADE : Fld := ⟨0xF0204, 31, 30⟩
def BZ_GRV_DIE_STAT_HELD : Fld := ⟨0xF0204, 25, 25⟩
def BZ_GRV_DIE_STAT_HOLD : Fld := ⟨0xF0204, 23, 23⟩
def BZ_GRV_DIE_STAT_LEAF : Fld := ⟨0xF0204, 21, 16⟩
def BZ_GRV_DIE_STAT_PSTATE : Fld := ⟨0xF0204, 27, 26⟩
def BZ_GRV_DIE_STAT_RADIO_JOB : Fld := ⟨0xF0204, 24, 24⟩
def BZ_GRV_DIE_STAT_RADIO_OK : Fld := ⟨0xF0204, 29, 29⟩
def BZ_GRV_DIE_STAT_TIME_OK : Fld := ⟨0xF0204, 28, 28⟩
def BZ_GRV_FAIL : Nat := 0xF0004
def BZ_GRV_FAIL_FAIL_MS : Fld := ⟨0xF0004, 31, 16⟩
def BZ_GRV_GRAFTS : Nat := 0xF0020
def BZ_GRV_GRAFTS_COUNT : Fld := ⟨0xF0020, 31, 0⟩
def BZ_GRV_GRPg (g : Nat) : Nat := 0xF0400 + 0x4 * g
def BZ_GRV_GRPg_PORTS (g : Nat) : Fld := ⟨0xF0400 + 0x4 * g, 31, 24⟩
def BZ_GRV_GRPg_READY (g : Nat) : Fld := ⟨0xF0400 + 0x4 * g, 23, 16⟩
def BZ_GRV_GRPg_VACANT (g : Nat) : Fld := ⟨0xF0400 + 0x4 * g, 15, 8⟩
def BZ_GRV_GUEST : Nat := 0xF0030
def BZ_GRV_GUEST_ACTIVE : Fld := ⟨0xF0030, 31, 31⟩
def BZ_GRV_GUEST_PAGES : Nat := 0xF0034
def BZ_GRV_GUEST_PAGES_COUNT : Fld := ⟨0xF0034, 26, 0⟩
def BZ_GRV_GUEST_POD : Fld := ⟨0xF0030, 5, 0⟩
def BZ_GRV_LATMAX : Nat := 0xF001C
def BZ_GRV_LATMAX_NS : Fld := ⟨0xF001C, 31, 0⟩
def BZ_GRV_MAPSEQ : Nat := 0xF000C
def BZ_GRV_MAPSEQ_SEQ : Fld := ⟨0xF000C, 31, 0⟩
def BZ_GRV_NONE : Nat := 0xF0018
def BZ_GRV_NONE_COUNT : Fld := ⟨0xF0018, 31, 0⟩
def BZ_GRV_PORT_CMD : Nat := 0xF0210
def BZ_GRV_PORT_CMD_GO : Fld := ⟨0xF0210, 31, 31⟩
def BZ_GRV_PORT_CMD_OP : Fld := ⟨0xF0210, 30, 28⟩
def BZ_GRV_PORT_CMD_PORT : Fld := ⟨0xF0210, 5, 0⟩
def BZ_GRV_REQS : Nat := 0xF0014
def BZ_GRV_REQS_COUNT : Fld := ⟨0xF0014, 31, 0⟩
def BZ_GRV_STAT : Nat := 0xF0008
def BZ_GRV_STAT_BASIC : Fld := ⟨0xF0008, 31, 31⟩
def BZ_GRV_STAT_ECODE : Fld := ⟨0xF0008, 28, 26⟩
def BZ_GRV_STAT_ERR : Fld := ⟨0xF0008, 29, 29⟩
def BZ_GRV_STAT_STALE : Fld := ⟨0xF0008, 30, 30⟩
def BZ_GRV_WITHDRAW : Nat := 0xF0028
def BZ_GRV_WITHDRAW_COUNT : Fld := ⟨0xF0028, 31, 0⟩
def BZ_HIF_CMD (i : Nat) : Nat := 0x140400 + 0x4 * i
def BZ_HIF_CMD_DATA (i : Nat) : Fld := ⟨0x140400 + 0x4 * i, 31, 0⟩
def BZ_HIF_CTRL : Nat := 0x140000
def BZ_HIF_CTRL_HOST_OK : Fld := ⟨0x140000, 31, 31⟩
def BZ_HIF_CTRL_LINK : Fld := ⟨0x140000, 30, 30⟩
def BZ_HIF_DISP_DROP : Nat := 0x140008
def BZ_HIF_DISP_DROP_COUNT : Fld := ⟨0x140008, 31, 0⟩
def BZ_HIF_MBX : Nat := 0x140004
def BZ_HIF_MBX_BUSY : Fld := ⟨0x140004, 30, 30⟩
def BZ_HIF_MBX_CODE : Fld := ⟨0x140004, 23, 16⟩
def BZ_HIF_MBX_GO : Fld := ⟨0x140004, 31, 31⟩
def BZ_HIF_MBX_RESULT : Fld := ⟨0x140004, 29, 26⟩
def BZ_HIF_MBX_RLEN : Fld := ⟨0x140004, 15, 0⟩
def BZ_HIF_RSP (i : Nat) : Nat := 0x140800 + 0x4 * i
def BZ_HIF_RSP_DATA (i : Nat) : Fld := ⟨0x140800 + 0x4 * i, 31, 0⟩
def BZ_HS_BASE : Nat := 0xD0010
def BZ_HS_BASE_PAGE : Fld := ⟨0xD0010, 27, 0⟩
def BZ_HS_DIR : Nat := 0xD001C
def BZ_HS_DIR_PAGE : Fld := ⟨0xD001C, 27, 0⟩
def BZ_HS_FREE : Nat := 0xD0018
def BZ_HS_FREE_COUNT : Fld := ⟨0xD0018, 26, 0⟩
def BZ_HS_PAGES : Nat := 0xD0014
def BZ_HS_PAGES_COUNT : Fld := ⟨0xD0014, 26, 0⟩
def BZ_ID : Nat := 0x0
def BZ_ID_VERSION : Fld := ⟨0x0, 31, 0⟩
def BZ_ING_DROPk (k : Nat) : Nat := 0x23000 + 0x4 * k
def BZ_ING_DROPk_COUNT (k : Nat) : Fld := ⟨0x23000 + 0x4 * k, 31, 0⟩
def BZ_JOB_MISSED : Nat := 0x150304
def BZ_JOB_MISSED_COUNT : Fld := ⟨0x150304, 31, 0⟩
def BZ_JOB_REPORTS : Nat := 0x150300
def BZ_JOB_REPORTS_COUNT : Fld := ⟨0x150300, 31, 0⟩
def BZ_MC_SCRUB : Nat := 0x121000
def BZ_MC_SCRUB_HOURS : Fld := ⟨0x121000, 15, 0⟩
def BZ_MCc_CE (c : Nat) : Nat := 0x120004 + 0x100 * c
def BZ_MCc_CE_COUNT (c : Nat) : Fld := ⟨0x120004 + 0x100 * c, 31, 0⟩
def BZ_MCc_RDB (c : Nat) : Nat := 0x12000C + 0x100 * c
def BZ_MCc_RDB_COUNT (c : Nat) : Fld := ⟨0x12000C + 0x100 * c, 31, 0⟩
def BZ_MCc_STAT (c : Nat) : Nat := 0x120000 + 0x100 * c
def BZ_MCc_STAT_STATE (c : Nat) : Fld := ⟨0x120000 + 0x100 * c, 31, 30⟩
def BZ_MCc_UE (c : Nat) : Nat := 0x120008 + 0x100 * c
def BZ_MCc_UE_COUNT (c : Nat) : Fld := ⟨0x120008 + 0x100 * c, 31, 0⟩
def BZ_MCc_WRB (c : Nat) : Nat := 0x120010 + 0x100 * c
def BZ_MCc_WRB_COUNT (c : Nat) : Fld := ⟨0x120010 + 0x100 * c, 31, 0⟩
def BZ_MODE_CMD : Nat := 0x150404
def BZ_MODE_CMD_BASIC_WD : Fld := ⟨0x150404, 7, 0⟩
def BZ_MODE_CMD_ENTER : Fld := ⟨0x150404, 31, 31⟩
def BZ_MODE_CMD_EXIT : Fld := ⟨0x150404, 30, 30⟩
def BZ_MODE_ENTRIES : Nat := 0x150408
def BZ_MODE_ENTRIES_COUNT : Fld := ⟨0x150408, 31, 0⟩
def BZ_MODE_LANEMIN : Nat := 0x15040C
def BZ_MODE_LANEMIN_COUNT : Fld := ⟨0x15040C, 31, 0⟩
def BZ_MODE_STAT : Nat := 0x150400
def BZ_MODE_STAT_CAUSE : Fld := ⟨0x150400, 29, 27⟩
def BZ_MODE_STAT_FW : Fld := ⟨0x150400, 24, 24⟩
def BZ_MODE_STAT_MODE : Fld := ⟨0x150400, 31, 30⟩
def BZ_MODE_STAT_OVL : Fld := ⟨0x150400, 26, 25⟩
def BZ_MTR_CTRL : Nat := 0x160000
def BZ_MTR_CTRL_RESTORE_EN : Fld := ⟨0x160000, 30, 30⟩
def BZ_MTR_CTRL_VERIFY : Fld := ⟨0x160000, 31, 31⟩
def BZ_MTR_Pp_BADSIG (p : Nat) : Nat := 0x16010C + 0x20 * p
def BZ_MTR_Pp_BADSIG_COUNT (p : Nat) : Fld := ⟨0x16010C + 0x20 * p, 31, 0⟩
def BZ_MTR_Pp_GAP (p : Nat) : Nat := 0x160110 + 0x20 * p
def BZ_MTR_Pp_GAP_COUNT (p : Nat) : Fld := ⟨0x160110 + 0x20 * p, 31, 0⟩
def BZ_MTR_Pp_HSEQ (p : Nat) : Nat := 0x160104 + 0x20 * p
def BZ_MTR_Pp_HSEQ_SEQ (p : Nat) : Fld := ⟨0x160104 + 0x20 * p, 31, 0⟩
def BZ_MTR_Pp_RECS (p : Nat) : Nat := 0x160108 + 0x20 * p
def BZ_MTR_Pp_RECS_COUNT (p : Nat) : Fld := ⟨0x160108 + 0x20 * p, 31, 0⟩
def BZ_MTR_Pp_RESTORE (p : Nat) : Nat := 0x160114 + 0x20 * p
def BZ_MTR_Pp_RESTORE_COUNT (p : Nat) : Fld := ⟨0x160114 + 0x20 * p, 31, 0⟩
def BZ_MTR_Pp_STAT (p : Nat) : Nat := 0x160100 + 0x20 * p
def BZ_MTR_Pp_STAT_CKPT (p : Nat) : Fld := ⟨0x160100 + 0x20 * p, 28, 28⟩
def BZ_MTR_Pp_STAT_PCC (p : Nat) : Fld := ⟨0x160100 + 0x20 * p, 23, 0⟩
def BZ_MTR_Pp_STAT_RESTORED (p : Nat) : Fld := ⟨0x160100 + 0x20 * p, 29, 29⟩
def BZ_MTR_Pp_STAT_SEAL (p : Nat) : Fld := ⟨0x160100 + 0x20 * p, 31, 30⟩
def BZ_NODE : Nat := 0x8
def BZ_NODE_BAD : Nat := 0xC
def BZ_NODE_BAD_COUNT : Fld := ⟨0xC, 31, 0⟩
def BZ_NODE_WORD : Fld := ⟨0x8, 31, 0⟩
def BZ_PLANp_COST (p : Nat) : Nat := 0x2100C + 0x10 * p
def BZ_PLANp_COST_SLOTS (p : Nat) : Fld := ⟨0x2100C + 0x10 * p, 31, 0⟩
def BZ_PLANp_OUT (p : Nat) : Nat := 0x21008 + 0x10 * p
def BZ_PLANp_OUT_COUNT (p : Nat) : Fld := ⟨0x21008 + 0x10 * p, 31, 0⟩
def BZ_PLANp_STAT (p : Nat) : Nat := 0x21000 + 0x10 * p
def BZ_PLANp_STAT_ACTIVE (p : Nat) : Fld := ⟨0x21000 + 0x10 * p, 31, 31⟩
def BZ_PLANp_STAT_MODE (p : Nat) : Fld := ⟨0x21000 + 0x10 * p, 30, 29⟩
def BZ_PLANp_STAT_PLAN_ID (p : Nat) : Fld := ⟨0x21000 + 0x10 * p, 15, 0⟩
def BZ_PLANp_STAT_PRE_LOG (p : Nat) : Fld := ⟨0x21000 + 0x10 * p, 28, 26⟩
def BZ_PLANp_WIDX (p : Nat) : Nat := 0x21004 + 0x10 * p
def BZ_PLANp_WIDX_WIDX (p : Nat) : Fld := ⟨0x21004 + 0x10 * p, 31, 0⟩
def BZ_REDCHc_LOAD (c : Nat) : Nat := 0x22000 + 0x10 * c
def BZ_REDCHc_LOAD_LEVEL (c : Nat) : Fld := ⟨0x22000 + 0x10 * c, 15, 8⟩
def BZ_REDCHc_LOAD_RL (c : Nat) : Fld := ⟨0x22000 + 0x10 * c, 31, 24⟩
def BZ_REDCHc_LOAD_UL (c : Nat) : Fld := ⟨0x22000 + 0x10 * c, 23, 16⟩
def BZ_REDCHc_MODE (c : Nat) : Nat := 0x22004 + 0x10 * c
def BZ_REDCHc_MODE_PRE (c : Nat) : Fld := ⟨0x22004 + 0x10 * c, 15, 0⟩
def BZ_REDCHc_MODE_RAWUP (c : Nat) : Fld := ⟨0x22004 + 0x10 * c, 31, 16⟩
def BZ_RED_CTRL : Nat := 0x20000
def BZ_RED_CTRL_DWELL_MS : Fld := ⟨0x20000, 7, 0⟩
def BZ_RED_CTRL_EN : Fld := ⟨0x20000, 31, 31⟩
def BZ_RED_CTRL_FLEX_EN : Fld := ⟨0x20000, 29, 29⟩
def BZ_RED_CTRL_IDLE_LO : Fld := ⟨0x20000, 15, 8⟩
def BZ_RED_CTRL_SAT_HI : Fld := ⟨0x20000, 23, 16⟩
def BZ_RED_CTRL_SHIFT_EN : Fld := ⟨0x20000, 30, 30⟩
def BZ_RED_LATE : Nat := 0x20010
def BZ_RED_LATE_COUNT : Fld := ⟨0x20010, 31, 0⟩
def BZ_RED_LOAD : Nat := 0x20008
def BZ_RED_LOAD_ING : Fld := ⟨0x20008, 15, 8⟩
def BZ_RED_LOAD_RL : Fld := ⟨0x20008, 31, 24⟩
def BZ_RED_LOAD_UL : Fld := ⟨0x20008, 23, 16⟩
def BZ_RED_MISS : Nat := 0x20014
def BZ_RED_MISS_COUNT : Fld := ⟨0x20014, 31, 0⟩
def BZ_RED_PLANS : Nat := 0x2000C
def BZ_RED_PLANS_NPLAN : Fld := ⟨0x2000C, 8, 0⟩
def BZ_RED_SHIFTS : Nat := 0x20018
def BZ_RED_SHIFTS_COUNT : Fld := ⟨0x20018, 31, 0⟩
def BZ_RED_TIMING : Nat := 0x20004
def BZ_RED_TIMING_HOP_US : Fld := ⟨0x20004, 15, 0⟩
def BZ_RED_TIMING_REVERT_MS : Fld := ⟨0x20004, 31, 16⟩
def BZ_RH_ABORT : Nat := 0x150434
def BZ_RH_ABORT_COUNT : Fld := ⟨0x150434, 31, 0⟩
def BZ_RH_CTRL : Nat := 0x150420
def BZ_RH_CTRL_AUDIT_H : Fld := ⟨0x150420, 7, 0⟩
def BZ_RH_CTRL_EN : Fld := ⟨0x150420, 31, 31⟩
def BZ_RH_CTRL_GUARD_H : Fld := ⟨0x150420, 23, 16⟩
def BZ_RH_CTRL_LANE_H : Fld := ⟨0x150420, 15, 8⟩
def BZ_RH_MISS : Nat := 0x150430
def BZ_RH_MISS_COUNT : Fld := ⟨0x150430, 31, 0⟩
def BZ_RH_PASS : Nat := 0x15042C
def BZ_RH_PASS_COUNT : Fld := ⟨0x15042C, 31, 0⟩
def BZ_RH_STAT : Nat := 0x150428
def BZ_RH_STAT_KIND : Fld := ⟨0x150428, 30, 29⟩
def BZ_RH_STAT_RUNNING : Fld := ⟨0x150428, 31, 31⟩
def BZ_RH_STAT_TARGET : Fld := ⟨0x150428, 6, 0⟩
def BZ_RH_STAT_UNIT : Fld := ⟨0x150428, 14, 7⟩
def BZ_RH_TMO : Nat := 0x150424
def BZ_RH_TMO_DETECT_MS : Fld := ⟨0x150424, 31, 16⟩
def BZ_RH_TMO_LANE_HOLD_MS : Fld := ⟨0x150424, 15, 0⟩
def BZ_RLOG_CTRL : Nat := 0x100008
def BZ_RLOG_CTRL_SAVE_S : Fld := ⟨0x100008, 31, 16⟩
def BZ_RLOG_HEAD : Nat := 0x100000
def BZ_RLOG_HEAD_SEQ : Fld := ⟨0x100000, 31, 0⟩
def BZ_RLOG_MIRk_ACK (k : Nat) : Nat := 0x100100 + 0x10 * k
def BZ_RLOG_MIRk_ACK_SEQ (k : Nat) : Fld := ⟨0x100100 + 0x10 * k, 31, 0⟩
def BZ_RLOG_MIRk_LOST (k : Nat) : Nat := 0x100108 + 0x10 * k
def BZ_RLOG_MIRk_LOST_COUNT (k : Nat) : Fld := ⟨0x100108 + 0x10 * k, 31, 0⟩
def BZ_RLOG_MIRk_STAT (k : Nat) : Nat := 0x100104 + 0x10 * k
def BZ_RLOG_MIRk_STAT_PROT (k : Nat) : Fld := ⟨0x100104 + 0x10 * k, 15, 8⟩
def BZ_RLOG_RD_SEQ : Nat := 0x100020
def BZ_RLOG_RD_SEQ_SEQ : Fld := ⟨0x100020, 31, 0⟩
def BZ_RLOG_RD_STAT : Nat := 0x100024
def BZ_RLOG_RST_PORT : Nat := 0x100010
def BZ_RLOG_RST_PORT_GO : Fld := ⟨0x100010, 31, 31⟩
def BZ_RLOG_RST_PORT_PORT : Fld := ⟨0x100010, 5, 0⟩
def BZ_RLOG_TAIL : Nat := 0x100004
def BZ_RLOG_TAIL_SEQ : Fld := ⟨0x100004, 31, 0⟩
def BZ_RLOG_TKT_REJ : Nat := 0x10000C
def BZ_RLOG_TKT_REJ_COUNT : Fld := ⟨0x10000C, 31, 0⟩
def BZ_RLOG_WIN (i : Nat) : Nat := 0x101000 + 0x4 * i
def BZ_RLOG_WIN_DATA (i : Nat) : Fld := ⟨0x101000 + 0x4 * i, 31, 0⟩
def BZ_RST_CAUSE : Nat := 0x130208
def BZ_RST_CAUSE_CLKRET : Fld := ⟨0x130208, 17, 0⟩
def BZ_RST_CMD : Nat := 0x130200
def BZ_RST_CMD_DOMAIN : Fld := ⟨0x130200, 17, 2⟩
def BZ_RST_STAT : Nat := 0x130204
def BZ_RST_STAT_IN_RESET : Fld := ⟨0x130204, 17, 0⟩
def BZ_SAPRXk_CRCBAD (k : Nat) : Nat := 0x30004 + 0x40 * k
def BZ_SAPRXk_CRCBAD_COUNT (k : Nat) : Fld := ⟨0x30004 + 0x40 * k, 31, 0⟩
def BZ_SAPRXk_FRAMES (k : Nat) : Nat := 0x3001C + 0x40 * k
def BZ_SAPRXk_FRAMES_COUNT (k : Nat) : Fld := ⟨0x3001C + 0x40 * k, 31, 0⟩
def BZ_SAPRXk_GAP (k : Nat) : Nat := 0x30010 + 0x40 * k
def BZ_SAPRXk_GAP_COUNT (k : Nat) : Fld := ⟨0x30010 + 0x40 * k, 31, 0⟩
def BZ_SAPRXk_OTHER (k : Nat) : Nat := 0x30008 + 0x40 * k
def BZ_SAPRXk_OTHER_COUNT (k : Nat) : Fld := ⟨0x30008 + 0x40 * k, 31, 0⟩
def BZ_SAPRXk_REPEAT (k : Nat) : Nat := 0x3000C + 0x40 * k
def BZ_SAPRXk_REPEAT_COUNT (k : Nat) : Fld := ⟨0x3000C + 0x40 * k, 31, 0⟩
def BZ_SAPRXk_RESTART (k : Nat) : Nat := 0x30014 + 0x40 * k
def BZ_SAPRXk_RESTART_COUNT (k : Nat) : Fld := ⟨0x30014 + 0x40 * k, 31, 0⟩
def BZ_SAPRXk_SRCBAD (k : Nat) : Nat := 0x30018 + 0x40 * k
def BZ_SAPRXk_SRCBAD_COUNT (k : Nat) : Fld := ⟨0x30018 + 0x40 * k, 31, 0⟩
def BZ_SAPRXk_STAT (k : Nat) : Nat := 0x30000 + 0x40 * k
def BZ_SAPRXk_STAT_DEAD (k : Nat) : Fld := ⟨0x30000 + 0x40 * k, 7, 0⟩
def BZ_SAP_DEAD_US : Nat := 0x32000
def BZ_SAP_DEAD_US_US : Fld := ⟨0x32000, 15, 0⟩
def BZ_SCHl_CTRL (l : Nat) : Nat := 0x24000 + 0x40 * l
def BZ_SCHl_CTRL_FREE_RUN_OK (l : Nat) : Fld := ⟨0x24000 + 0x40 * l, 30, 30⟩
def BZ_SCHl_CTRL_GATE_EN (l : Nat) : Fld := ⟨0x24000 + 0x40 * l, 31, 31⟩
def BZ_SCHl_CTRL_OVH (l : Nat) : Fld := ⟨0x24000 + 0x40 * l, 5, 0⟩
def BZ_SCHl_CYCLE (l : Nat) : Nat := 0x2401C + 0x40 * l
def BZ_SCHl_CYCLE_NS (l : Nat) : Fld := ⟨0x2401C + 0x40 * l, 31, 0⟩
def BZ_SCHl_GATE_ADDR (l : Nat) : Nat := 0x24014 + 0x40 * l
def BZ_SCHl_GATE_ADDR_AUTOINC (l : Nat) : Fld := ⟨0x24014 + 0x40 * l, 31, 31⟩
def BZ_SCHl_GATE_ADDR_ENTRY (l : Nat) : Fld := ⟨0x24014 + 0x40 * l, 7, 0⟩
def BZ_SCHl_GATE_CTRL (l : Nat) : Nat := 0x24004 + 0x40 * l
def BZ_SCHl_GATE_CTRL_ACTIVE (l : Nat) : Fld := ⟨0x24004 + 0x40 * l, 28, 28⟩
def BZ_SCHl_GATE_CTRL_ERR (l : Nat) : Fld := ⟨0x24004 + 0x40 * l, 30, 30⟩
def BZ_SCHl_GATE_CTRL_GO (l : Nat) : Fld := ⟨0x24004 + 0x40 * l, 31, 31⟩
def BZ_SCHl_GATE_CTRL_LEN (l : Nat) : Fld := ⟨0x24004 + 0x40 * l, 8, 0⟩
def BZ_SCHl_GATE_CTRL_PEND (l : Nat) : Fld := ⟨0x24004 + 0x40 * l, 29, 29⟩
def BZ_SCHl_GATE_DATA (l : Nat) : Nat := 0x24018 + 0x40 * l
def BZ_SCHl_GATE_DATA_WORD (l : Nat) : Fld := ⟨0x24018 + 0x40 * l, 31, 0⟩
def BZ_SCHl_Qq_BURST (l q : Nat) : Nat := 0x26004 + 0x200 * l + 0x40 * q
def BZ_SCHl_Qq_BURST_BURST (l q : Nat) : Fld := ⟨0x26004 + 0x200 * l + 0x40 * q, 23, 0⟩
def BZ_SCHl_Qq_BURST_WEIGHT (l q : Nat) : Fld := ⟨0x26004 + 0x200 * l + 0x40 * q, 31, 24⟩
def BZ_SCHl_Qq_DELAY (l q : Nat) : Nat := 0x26010 + 0x200 * l + 0x40 * q
def BZ_SCHl_Qq_DELAY_NS (l q : Nat) : Fld := ⟨0x26010 + 0x200 * l + 0x40 * q, 31, 0⟩
def BZ_SCHl_Qq_DEPTH (l q : Nat) : Nat := 0x2600C + 0x200 * l + 0x40 * q
def BZ_SCHl_Qq_DEPTH_BYTES (l q : Nat) : Fld := ⟨0x2600C + 0x200 * l + 0x40 * q, 31, 0⟩
def BZ_SCHl_Qq_DROP (l q : Nat) : Nat := 0x26030 + 0x200 * l + 0x40 * q
def BZ_SCHl_Qq_DROP_COUNT (l q : Nat) : Fld := ⟨0x26030 + 0x200 * l + 0x40 * q, 31, 0⟩
def BZ_SCHl_Qq_FRAMES (l q : Nat) : Nat := 0x26034 + 0x200 * l + 0x40 * q
def BZ_SCHl_Qq_FRAMES_COUNT (l q : Nat) : Fld := ⟨0x26034 + 0x200 * l + 0x40 * q, 31, 0⟩
def BZ_SCHl_Qq_LEVEL (l q : Nat) : Nat := 0x26038 + 0x200 * l + 0x40 * q
def BZ_SCHl_Qq_LEVEL_LEVEL (l q : Nat) : Fld := ⟨0x26038 + 0x200 * l + 0x40 * q, 2, 0⟩
def BZ_SCHl_Qq_MAXDEP (l q : Nat) : Nat := 0x26014 + 0x200 * l + 0x40 * q
def BZ_SCHl_Qq_MAXDEP_BYTES (l q : Nat) : Fld := ⟨0x26014 + 0x200 * l + 0x40 * q, 31, 0⟩
def BZ_SCHl_Qq_MAXDLY (l q : Nat) : Nat := 0x26018 + 0x200 * l + 0x40 * q
def BZ_SCHl_Qq_MAXDLY_NS (l q : Nat) : Fld := ⟨0x26018 + 0x200 * l + 0x40 * q, 31, 0⟩
def BZ_SCHl_Qq_NSAMP (l q : Nat) : Nat := 0x2601C + 0x200 * l + 0x40 * q
def BZ_SCHl_Qq_NSAMP_COUNT (l q : Nat) : Fld := ⟨0x2601C + 0x200 * l + 0x40 * q, 31, 0⟩
def BZ_SCHl_Qq_SHAPE (l q : Nat) : Nat := 0x26000 + 0x200 * l + 0x40 * q
def BZ_SCHl_Qq_SHAPE_RATE (l q : Nat) : Fld := ⟨0x26000 + 0x200 * l + 0x40 * q, 23, 0⟩
def BZ_SCHl_Qq_SHAPE_SH_EN (l q : Nat) : Fld := ⟨0x26000 + 0x200 * l + 0x40 * q, 31, 31⟩
def BZ_SCHl_Qq_SUMDEP_HI (l q : Nat) : Nat := 0x26024 + 0x200 * l + 0x40 * q
def BZ_SCHl_Qq_SUMDEP_HI_SUM_HI (l q : Nat) : Fld := ⟨0x26024 + 0x200 * l + 0x40 * q, 31, 0⟩
def BZ_SCHl_Qq_SUMDEP_LO (l q : Nat) : Nat := 0x26020 + 0x200 * l + 0x40 * q
def BZ_SCHl_Qq_SUMDEP_LO_SUM_LO (l q : Nat) : Fld := ⟨0x26020 + 0x200 * l + 0x40 * q, 31, 0⟩
def BZ_SCHl_Qq_SUMDLY_HI (l q : Nat) : Nat := 0x2602C + 0x200 * l + 0x40 * q
def BZ_SCHl_Qq_SUMDLY_HI_SUM_HI (l q : Nat) : Fld := ⟨0x2602C + 0x200 * l + 0x40 * q, 31, 0⟩
def BZ_SCHl_Qq_SUMDLY_LO (l q : Nat) : Nat := 0x26028 + 0x200 * l + 0x40 * q
def BZ_SCHl_Qq_SUMDLY_LO_SUM_LO (l q : Nat) : Fld := ⟨0x26028 + 0x200 * l + 0x40 * q, 31, 0⟩
def BZ_SCHl_Qq_TOKENS (l q : Nat) : Nat := 0x26008 + 0x200 * l + 0x40 * q
def BZ_SCHl_Qq_TOKENS_TOKENS (l q : Nat) : Fld := ⟨0x26008 + 0x200 * l + 0x40 * q, 31, 0⟩
def BZ_SCHl_TAKE_NS (l : Nat) : Nat := 0x24008 + 0x40 * l
def BZ_SCHl_TAKE_NS_NSEC (l : Nat) : Fld := ⟨0x24008 + 0x40 * l, 31, 0⟩
def BZ_SCHl_TAKE_SHI (l : Nat) : Nat := 0x24010 + 0x40 * l
def BZ_SCHl_TAKE_SHI_SEC_HI (l : Nat) : Fld := ⟨0x24010 + 0x40 * l, 31, 0⟩
def BZ_SCHl_TAKE_SLO (l : Nat) : Nat := 0x2400C + 0x40 * l
def BZ_SCHl_TAKE_SLO_SEC_LO (l : Nat) : Fld := ⟨0x2400C + 0x40 * l, 31, 0⟩
def BZ_SEED_DIGESTw (w : Nat) : Nat := 0x150020 + 0x4 * w
def BZ_SEED_DIGESTw_DIGEST (w : Nat) : Fld := ⟨0x150020 + 0x4 * w, 31, 0⟩
def BZ_SEED_GEN : Nat := 0x150010
def BZ_SEED_GEN_GEN : Fld := ⟨0x150010, 31, 0⟩
def BZ_STRAP : Nat := 0x4
def BZ_STRAP_ROLE : Fld := ⟨0x4, 1, 0⟩
def BZ_TIME_BOUND : Nat := 0x10034
def BZ_TIME_BOUND_BOUND : Fld := ⟨0x10034, 31, 0⟩
def BZ_TIME_CAP0_W0 : Nat := 0x100C0
def BZ_TIME_CAP0_W0_FLAGS : Fld := ⟨0x100C0, 3, 2⟩
def BZ_TIME_CAP0_W0_FRAC_HI : Fld := ⟨0x100C0, 31, 8⟩
def BZ_TIME_CAP0_W0_QUAL : Fld := ⟨0x100C0, 1, 0⟩
def BZ_TIME_CAP0_W1 : Nat := 0x100C4
def BZ_TIME_CAP0_W1_NSEC : Fld := ⟨0x100C4, 31, 0⟩
def BZ_TIME_CAP0_W2 : Nat := 0x100C8
def BZ_TIME_CAP0_W2_SEC_LO : Fld := ⟨0x100C8, 31, 0⟩
def BZ_TIME_CAP0_W3 : Nat := 0x100CC
def BZ_TIME_CAP0_W3_SEC_HI : Fld := ⟨0x100CC, 31, 0⟩
def BZ_TIME_CAP_CTRL : Nat := 0x10080
def BZ_TIME_CAP_CTRL_EN : Fld := ⟨0x10080, 7, 0⟩
def BZ_TIME_CAP_CTRL_FALL : Fld := ⟨0x10080, 15, 8⟩
def BZ_TIME_CAP_DROP : Nat := 0x100A0
def BZ_TIME_CAP_DROP_COUNT : Fld := ⟨0x100A0, 31, 0⟩
def BZ_TIME_CAP_LATm (m : Nat) : Nat := 0x10090 + 0x4 * m
def BZ_TIME_CAP_LATm_LAT_EVEN (m : Nat) : Fld := ⟨0x10090 + 0x4 * m, 15, 0⟩
def BZ_TIME_CAP_LATm_LAT_ODD (m : Nat) : Fld := ⟨0x10090 + 0x4 * m, 31, 16⟩
def BZ_TIME_CAP_STAT : Nat := 0x10084
def BZ_TIME_CAP_STAT_AVAIL : Fld := ⟨0x10084, 7, 0⟩
def BZ_TIME_CAP_STAT_OVF : Fld := ⟨0x10084, 15, 8⟩
def BZ_TIME_CTRL : Nat := 0x10014
def BZ_TIME_CTRL_FREE_RUN_OK : Fld := ⟨0x10014, 16, 16⟩
def BZ_TIME_CTRL_KI_SHIFT : Fld := ⟨0x10014, 3, 0⟩
def BZ_TIME_CTRL_KP_SHIFT : Fld := ⟨0x10014, 7, 4⟩
def BZ_TIME_CTRL_RATE_LIM : Fld := ⟨0x10014, 15, 8⟩
def BZ_TIME_DELAY : Nat := 0x10024
def BZ_TIME_DELAY_DELAY_AVG : Fld := ⟨0x10024, 31, 0⟩
def BZ_TIME_HOLDS : Nat := 0x10048
def BZ_TIME_HOLDS_COUNT : Fld := ⟨0x10048, 31, 0⟩
def BZ_TIME_LATk (k : Nat) : Nat := 0x10200 + 0x4 * k
def BZ_TIME_LATk_LAT_RX (k : Nat) : Fld := ⟨0x10200 + 0x4 * k, 31, 16⟩
def BZ_TIME_LATk_LAT_TX (k : Nat) : Fld := ⟨0x10200 + 0x4 * k, 15, 0⟩
def BZ_TIME_NOW0 : Nat := 0x10000
def BZ_TIME_NOW0_FRAC : Fld := ⟨0x10000, 31, 0⟩
def BZ_TIME_NOW1 : Nat := 0x10004
def BZ_TIME_NOW1_NSEC : Fld := ⟨0x10004, 31, 0⟩
def BZ_TIME_NOW2 : Nat := 0x10008
def BZ_TIME_NOW2_SEC_LO : Fld := ⟨0x10008, 31, 0⟩
def BZ_TIME_NOW3 : Nat := 0x1000C
def BZ_TIME_NOW3_SEC_HI : Fld := ⟨0x1000C, 31, 0⟩
def BZ_TIME_OFFSET : Nat := 0x10020
def BZ_TIME_OFFSET_OFFSET : Fld := ⟨0x10020, 31, 0⟩
def BZ_TIME_PPS_DIFF : Nat := 0x1010C
def BZ_TIME_PPS_DIFF_DIFF : Fld := ⟨0x1010C, 31, 0⟩
def BZ_TIME_PPS_TOL : Nat := 0x10108
def BZ_TIME_PPS_TOL_TOL : Fld := ⟨0x10108, 31, 0⟩
def BZ_TIME_RADIO_TOL : Nat := 0x10030
def BZ_TIME_RADIO_TOL_TOL : Fld := ⟨0x10030, 31, 0⟩
def BZ_TIME_RATE_HI : Nat := 0x1001C
def BZ_TIME_RATE_HI_RATE_HI : Fld := ⟨0x1001C, 7, 0⟩
def BZ_TIME_RATE_LO : Nat := 0x10018
def BZ_TIME_RATE_LO_RATE_LO : Fld := ⟨0x10018, 31, 0⟩
def BZ_TIME_SET_GO : Nat := 0x10130
def BZ_TIME_SET_GO_GO : Fld := ⟨0x10130, 0, 0⟩
def BZ_TIME_SETw (w : Nat) : Nat := 0x10120 + 0x4 * w
def BZ_TIME_SETw_WORD (w : Nat) : Fld := ⟨0x10120 + 0x4 * w, 31, 0⟩
def BZ_TIME_SRC : Nat := 0x10104
def BZ_TIME_SRC_LANE : Fld := ⟨0x10104, 6, 0⟩
def BZ_TIME_STAB : Nat := 0x1002C
def BZ_TIME_STAB_STAB : Fld := ⟨0x1002C, 15, 0⟩
def BZ_TIME_STATUS : Nat := 0x10010
def BZ_TIME_STATUS_FAULT : Fld := ⟨0x10010, 5, 5⟩
def BZ_TIME_STATUS_HOPS : Fld := ⟨0x10010, 31, 24⟩
def BZ_TIME_STATUS_RATE_SAT : Fld := ⟨0x10010, 7, 7⟩
def BZ_TIME_STATUS_STATE : Fld := ⟨0x10010, 2, 0⟩
def BZ_TIME_STATUS_STEPPED : Fld := ⟨0x10010, 4, 4⟩
def BZ_TIME_STATUS_UPHOLD : Fld := ⟨0x10010, 6, 6⟩
def BZ_TIME_STEP_FRAC : Nat := 0x10038
def BZ_TIME_STEP_FRAC_FRAC : Fld := ⟨0x10038, 31, 0⟩
def BZ_TIME_STEP_NS : Nat := 0x1003C
def BZ_TIME_STEP_NS_NSEC : Fld := ⟨0x1003C, 31, 0⟩
def BZ_TIME_STEP_SEC : Nat := 0x10040
def BZ_TIME_STEP_SEC_HI : Nat := 0x1004C
def BZ_TIME_STEP_SEC_HI_SEC_HI : Fld := ⟨0x1004C, 31, 0⟩
def BZ_TIME_STEP_SEC_SEC : Fld := ⟨0x10040, 31, 0⟩
def BZ_TIME_TODBAD : Nat := 0x10110
def BZ_TIME_TODBAD_COUNT : Fld := ⟨0x10110, 31, 0⟩
def BZ_TIME_XBAD : Nat := 0x10044
def BZ_TIME_XBAD_COUNT : Fld := ⟨0x10044, 31, 0⟩
def BZ_TIME_XPER : Nat := 0x10100
def BZ_TIME_XPER_PERIOD : Fld := ⟨0x10100, 2, 0⟩
def BZ_TOPOp (p : Nat) : Nat := 0x150100 + 0x4 * p
def BZ_TOPOp_KIND (p : Nat) : Fld := ⟨0x150100 + 0x4 * p, 27, 26⟩
def BZ_TOPOp_NUM (p : Nat) : Fld := ⟨0x150100 + 0x4 * p, 5, 0⟩
def BZ_TOPOp_RESULT (p : Nat) : Fld := ⟨0x150100 + 0x4 * p, 31, 28⟩
def BZ_TQk_BASE (k : Nat) : Nat := 0xC1004 + 0x40 * k
def BZ_TQk_BASE_PAGE (k : Nat) : Fld := ⟨0xC1004 + 0x40 * k, 27, 0⟩
def BZ_TQk_CPL_BASE (k : Nat) : Nat := 0xC1010 + 0x40 * k
def BZ_TQk_CPL_BASE_PAGE (k : Nat) : Fld := ⟨0xC1010 + 0x40 * k, 27, 0⟩
def BZ_TQk_CPL_HEAD (k : Nat) : Nat := 0xC1014 + 0x40 * k
def BZ_TQk_CPL_HEAD_HEAD (k : Nat) : Fld := ⟨0xC1014 + 0x40 * k, 15, 0⟩
def BZ_TQk_CPL_TAIL (k : Nat) : Nat := 0xC1018 + 0x40 * k
def BZ_TQk_CPL_TAIL_TAIL (k : Nat) : Fld := ⟨0xC1018 + 0x40 * k, 15, 0⟩
def BZ_TQk_CTRL (k : Nat) : Nat := 0xC1000 + 0x40 * k
def BZ_TQk_CTRL_ABORT (k : Nat) : Fld := ⟨0xC1000 + 0x40 * k, 30, 30⟩
def BZ_TQk_CTRL_EN (k : Nat) : Fld := ⟨0xC1000 + 0x40 * k, 31, 31⟩
def BZ_TQk_CTRL_PRIO (k : Nat) : Fld := ⟨0xC1000 + 0x40 * k, 29, 28⟩
def BZ_TQk_CTRL_SIZE_LOG (k : Nat) : Fld := ⟨0xC1000 + 0x40 * k, 19, 16⟩
def BZ_TQk_DONE (k : Nat) : Nat := 0xC1030 + 0x40 * k
def BZ_TQk_DONE_COUNT (k : Nat) : Fld := ⟨0xC1030 + 0x40 * k, 31, 0⟩
def BZ_TQk_HEAD (k : Nat) : Nat := 0xC1008 + 0x40 * k
def BZ_TQk_HEAD_HEAD (k : Nat) : Fld := ⟨0xC1008 + 0x40 * k, 15, 0⟩
def BZ_TQk_RESTART (k : Nat) : Nat := 0xC1034 + 0x40 * k
def BZ_TQk_RESTART_COUNT (k : Nat) : Fld := ⟨0xC1034 + 0x40 * k, 31, 0⟩
def BZ_TQk_RHI (k : Nat) : Nat := 0xC1020 + 0x40 * k
def BZ_TQk_RHI_PAGE (k : Nat) : Fld := ⟨0xC1020 + 0x40 * k, 27, 0⟩
def BZ_TQk_RLO (k : Nat) : Nat := 0xC101C + 0x40 * k
def BZ_TQk_RLO_PAGE (k : Nat) : Fld := ⟨0xC101C + 0x40 * k, 27, 0⟩
def BZ_TQk_STAT (k : Nat) : Nat := 0xC102C + 0x40 * k
def BZ_TQk_STAT_CPL_FULL (k : Nat) : Fld := ⟨0xC102C + 0x40 * k, 29, 29⟩
def BZ_TQk_STAT_OVR (k : Nat) : Fld := ⟨0xC102C + 0x40 * k, 28, 28⟩
def BZ_TQk_STAT_RUNNING (k : Nat) : Fld := ⟨0xC102C + 0x40 * k, 31, 31⟩
def BZ_TQk_STAT_WAITING (k : Nat) : Fld := ⟨0xC102C + 0x40 * k, 30, 30⟩
def BZ_TQk_TAIL (k : Nat) : Nat := 0xC100C + 0x40 * k
def BZ_TQk_TAIL_TAIL (k : Nat) : Fld := ⟨0xC100C + 0x40 * k, 15, 0⟩
def BZ_TQk_WHI (k : Nat) : Nat := 0xC1028 + 0x40 * k
def BZ_TQk_WHI_PAGE (k : Nat) : Fld := ⟨0xC1028 + 0x40 * k, 27, 0⟩
def BZ_TQk_WLO (k : Nat) : Nat := 0xC1024 + 0x40 * k
def BZ_TQk_WLO_PAGE (k : Nat) : Fld := ⟨0xC1024 + 0x40 * k, 27, 0⟩
def BZ_TRE_CE : Nat := 0xC0008
def BZ_TRE_CE_COUNT : Fld := ⟨0xC0008, 31, 0⟩
def BZ_TRE_CTRL : Nat := 0xC0000
def BZ_TRE_CTRL_EN : Fld := ⟨0xC0000, 31, 31⟩
def BZ_TRE_FAULTS : Nat := 0xC0010
def BZ_TRE_FAULTS_COUNT : Fld := ⟨0xC0010, 31, 0⟩
def BZ_TRE_STAT : Nat := 0xC0004
def BZ_TRE_STAT_BASIC : Fld := ⟨0xC0004, 31, 31⟩
def BZ_TRE_STAT_PFREE : Fld := ⟨0xC0004, 6, 0⟩
def BZ_TRE_UE : Nat := 0xC000C
def BZ_TRE_UE_COUNT : Fld := ⟨0xC000C, 31, 0⟩
def BZ_Vv_CELLS (v : Nat) : Nat := 0x144090 + 0x100 * v
def BZ_Vv_CELLS_CB (v : Nat) : Fld := ⟨0x144090 + 0x100 * v, 8, 0⟩
def BZ_Vv_CELLS_CN (v : Nat) : Fld := ⟨0x144090 + 0x100 * v, 25, 16⟩
def BZ_Vv_DMA_CTRL (v : Nat) : Nat := 0x144070 + 0x100 * v
def BZ_Vv_DMA_CTRL_BUSY (v : Nat) : Fld := ⟨0x144070 + 0x100 * v, 29, 29⟩
def BZ_Vv_DMA_CTRL_ERR (v : Nat) : Fld := ⟨0x144070 + 0x100 * v, 28, 28⟩
def BZ_Vv_DMA_CTRL_GO (v : Nat) : Fld := ⟨0x144070 + 0x100 * v, 31, 31⟩
def BZ_Vv_DMA_CTRL_TO_HBM (v : Nat) : Fld := ⟨0x144070 + 0x100 * v, 30, 30⟩
def BZ_Vv_DMA_HADDR_H (v : Nat) : Nat := 0x144064 + 0x100 * v
def BZ_Vv_DMA_HADDR_H_HADDR_HI (v : Nat) : Fld := ⟨0x144064 + 0x100 * v, 31, 0⟩
def BZ_Vv_DMA_HADDR_L (v : Nat) : Nat := 0x144060 + 0x100 * v
def BZ_Vv_DMA_HADDR_L_HADDR_LO (v : Nat) : Fld := ⟨0x144060 + 0x100 * v, 31, 0⟩
def BZ_Vv_DMA_LEN (v : Nat) : Nat := 0x14406C + 0x100 * v
def BZ_Vv_DMA_LEN_LEN (v : Nat) : Fld := ⟨0x14406C + 0x100 * v, 24, 0⟩
def BZ_Vv_DMA_OFF (v : Nat) : Nat := 0x144068 + 0x100 * v
def BZ_Vv_DMA_OFF_OFF (v : Nat) : Fld := ⟨0x144068 + 0x100 * v, 31, 0⟩
def BZ_Vv_ENS (v : Nat) : Nat := 0x144094 + 0x100 * v
def BZ_Vv_ENS_MASK (v : Nat) : Fld := ⟨0x144094 + 0x100 * v, 15, 0⟩
def BZ_Vv_RINGr_BASE (v r : Nat) : Nat := 0x144004 + 0x100 * v + 0x20 * r
def BZ_Vv_RINGr_BASE_PAGE (v r : Nat) : Fld := ⟨0x144004 + 0x100 * v + 0x20 * r, 27, 0⟩
def BZ_Vv_RINGr_CPL_BASE (v r : Nat) : Nat := 0x144010 + 0x100 * v + 0x20 * r
def BZ_Vv_RINGr_CPL_BASE_PAGE (v r : Nat) : Fld := ⟨0x144010 + 0x100 * v + 0x20 * r, 27, 0⟩
def BZ_Vv_RINGr_CPL_HEAD (v r : Nat) : Nat := 0x144014 + 0x100 * v + 0x20 * r
def BZ_Vv_RINGr_CPL_HEAD_HEAD (v r : Nat) : Fld := ⟨0x144014 + 0x100 * v + 0x20 * r, 15, 0⟩
def BZ_Vv_RINGr_CPL_TAIL (v r : Nat) : Nat := 0x144018 + 0x100 * v + 0x20 * r
def BZ_Vv_RINGr_CPL_TAIL_TAIL (v r : Nat) : Fld := ⟨0x144018 + 0x100 * v + 0x20 * r, 15, 0⟩
def BZ_Vv_RINGr_CTRL (v r : Nat) : Nat := 0x144000 + 0x100 * v + 0x20 * r
def BZ_Vv_RINGr_CTRL_EN (v r : Nat) : Fld := ⟨0x144000 + 0x100 * v + 0x20 * r, 31, 31⟩
def BZ_Vv_RINGr_CTRL_SIZE_LOG (v r : Nat) : Fld := ⟨0x144000 + 0x100 * v + 0x20 * r, 19, 16⟩
def BZ_Vv_RINGr_HEAD (v r : Nat) : Nat := 0x14400C + 0x100 * v + 0x20 * r
def BZ_Vv_RINGr_HEAD_HEAD (v r : Nat) : Fld := ⟨0x14400C + 0x100 * v + 0x20 * r, 15, 0⟩
def BZ_Vv_RINGr_STAT (v r : Nat) : Nat := 0x14401C + 0x100 * v + 0x20 * r
def BZ_Vv_RINGr_STAT_ERR (v r : Nat) : Fld := ⟨0x14401C + 0x100 * v + 0x20 * r, 0, 0⟩
def BZ_Vv_RINGr_STAT_INFLIGHT (v r : Nat) : Fld := ⟨0x14401C + 0x100 * v + 0x20 * r, 31, 24⟩
def BZ_Vv_RINGr_TAIL (v r : Nat) : Nat := 0x144008 + 0x100 * v + 0x20 * r
def BZ_Vv_RINGr_TAIL_TAIL (v r : Nat) : Fld := ⟨0x144008 + 0x100 * v + 0x20 * r, 15, 0⟩
def BZ_Vv_RLO (v : Nat) : Nat := 0x144084 + 0x100 * v
def BZ_Vv_RLO_PAGE (v : Nat) : Fld := ⟨0x144084 + 0x100 * v, 27, 0⟩
def BZ_Vv_RPAGES (v : Nat) : Nat := 0x144088 + 0x100 * v
def BZ_Vv_RPAGES_COUNT (v : Nat) : Fld := ⟨0x144088 + 0x100 * v, 27, 0⟩
def BZ_Vv_SCOPE (v : Nat) : Nat := 0x144098 + 0x100 * v
def BZ_Vv_SCOPE_NODE (v : Nat) : Fld := ⟨0x144098 + 0x100 * v, 31, 0⟩
def BZ_Vv_STAT (v : Nat) : Nat := 0x144080 + 0x100 * v
def BZ_Vv_STAT_RADIO_OK (v : Nat) : Fld := ⟨0x144080 + 0x100 * v, 29, 29⟩
def BZ_Vv_STAT_STATE (v : Nat) : Fld := ⟨0x144080 + 0x100 * v, 31, 30⟩
def BZ_Vv_STAT_TENANT (v : Nat) : Fld := ⟨0x144080 + 0x100 * v, 11, 0⟩
def BZ_Vv_WIN_W (v : Nat) : Nat := 0x14408C + 0x100 * v
def BZ_Vv_WIN_W_WOFF (v : Nat) : Fld := ⟨0x14408C + 0x100 * v, 31, 16⟩
def BZ_Vv_WIN_W_WPAGES (v : Nat) : Fld := ⟨0x14408C + 0x100 * v, 15, 0⟩
def BZ_WDOG_CTRL : Nat := 0x110000
def BZ_WDOG_CTRL_EN : Fld := ⟨0x110000, 31, 31⟩
def BZ_WDOG_CTRL_PERIOD_MS : Fld := ⟨0x110000, 15, 0⟩
def BZ_WDOG_FIRED : Nat := 0x110008
def BZ_WDOG_FIRED_COUNT : Fld := ⟨0x110008, 31, 0⟩
def BZ_WDOG_KICK : Nat := 0x110004
def BZ_WDOG_KICK_KEY : Fld := ⟨0x110004, 31, 0⟩
def BZ_WIN_CMD : Nat := 0xD000C
def BZ_WIN_CMD_GO : Fld := ⟨0xD000C, 31, 31⟩
def BZ_WIN_CMD_OP : Fld := ⟨0xD000C, 30, 29⟩
def BZ_WIN_CMD_SLOT : Fld := ⟨0xD000C, 7, 0⟩
def BZ_WIN_CTRL : Nat := 0xD0000
def BZ_WIN_CTRL_EN : Fld := ⟨0xD0000, 31, 31⟩
def BZ_WIN_CTRL_HBM_SHARE : Fld := ⟨0xD0000, 14, 8⟩
def BZ_WIN_LOAD : Nat := 0xD0008
def BZ_WIN_LOAD_SL : Fld := ⟨0xD0008, 31, 24⟩
def BZ_WIN_STAT : Nat := 0xD0004
def BZ_WIN_STAT_BASIC : Fld := ⟨0xD0004, 31, 31⟩
def BZ_WIN_STAT_NWP : Fld := ⟨0xD0004, 8, 0⟩
def BZ_WPp_ALARM (p : Nat) : Nat := 0xD1008 + 0x20 * p
def BZ_WPp_ALARM_COUNT (p : Nat) : Fld := ⟨0xD1008 + 0x20 * p, 31, 0⟩
def BZ_WPp_ONSET (p : Nat) : Nat := 0xD100C + 0x20 * p
def BZ_WPp_ONSET_COUNT (p : Nat) : Fld := ⟨0xD100C + 0x20 * p, 31, 0⟩
def BZ_WPp_REFIT (p : Nat) : Nat := 0xD101C + 0x20 * p
def BZ_WPp_REFIT_DONE (p : Nat) : Fld := ⟨0xD101C + 0x20 * p, 31, 16⟩
def BZ_WPp_REFIT_FAIL (p : Nat) : Fld := ⟨0xD101C + 0x20 * p, 15, 0⟩
def BZ_WPp_SHORT (p : Nat) : Nat := 0xD1018 + 0x20 * p
def BZ_WPp_SHORT_COUNT (p : Nat) : Fld := ⟨0xD1018 + 0x20 * p, 31, 0⟩
def BZ_WPp_SKIP (p : Nat) : Nat := 0xD1010 + 0x20 * p
def BZ_WPp_SKIP_COUNT (p : Nat) : Fld := ⟨0xD1010 + 0x20 * p, 31, 0⟩
def BZ_WPp_STAT (p : Nat) : Nat := 0xD1000 + 0x20 * p
def BZ_WPp_STAT_ACTIVE (p : Nat) : Fld := ⟨0xD1000 + 0x20 * p, 31, 31⟩
def BZ_WPp_STAT_BASED (p : Nat) : Fld := ⟨0xD1000 + 0x20 * p, 27, 27⟩
def BZ_WPp_STAT_DET (p : Nat) : Fld := ⟨0xD1000 + 0x20 * p, 30, 28⟩
def BZ_WPp_STAT_WP_ID (p : Nat) : Fld := ⟨0xD1000 + 0x20 * p, 15, 0⟩
def BZ_WPp_SUPP (p : Nat) : Nat := 0xD1014 + 0x20 * p
def BZ_WPp_SUPP_COUNT (p : Nat) : Fld := ⟨0xD1014 + 0x20 * p, 31, 0⟩
def BZ_WPp_WIDX (p : Nat) : Nat := 0xD1004 + 0x20 * p
def BZ_WPp_WIDX_WIDX (p : Nat) : Fld := ⟨0xD1004 + 0x20 * p, 31, 0⟩
def BZ_WR_DEFER : Nat := 0x150410
def BZ_WR_DEFER_COUNT : Fld := ⟨0x150410, 31, 0⟩
def BZ_WR_DEFER_LAST : Nat := 0x150414
def BZ_WR_DEFER_LAST_MASTER : Fld := ⟨0x150414, 31, 24⟩
def BZ_WR_DEFER_LAST_OFFSET : Fld := ⟨0x150414, 23, 0⟩
def HW_CAL_PE : Nat := 0xC060
def HW_CAL_PE_CAL_PE : Fld := ⟨0xC060, 31, 0⟩
def HW_CMD_CTR : Nat := 0xC018
def HW_CMD_CTR_CTR : Fld := ⟨0xC018, 31, 0⟩
def HW_ENG_Wn (n : Nat) : Nat := 0xC800 + 0x4 * n
def HW_ENG_Wn_W (n : Nat) : Fld := ⟨0xC800 + 0x4 * n, 31, 0⟩
def HW_GAP : Nat := 0xC06C
def HW_GAP_GAP_MAX : Fld := ⟨0xC06C, 15, 0⟩
def HW_HSEQ : Nat := 0xC014
def HW_HSEQ_SEQ : Fld := ⟨0xC014, 31, 0⟩
def HW_ID : Nat := 0xC000
def HW_ID_VERSION : Fld := ⟨0xC000, 31, 0⟩
def HW_INTERVAL : Nat := 0xC010
def HW_INTERVAL_N : Fld := ⟨0xC010, 31, 0⟩
def HW_IRANGE : Nat := 0xC068
def HW_IRANGE_IMAX : Fld := ⟨0xC068, 31, 16⟩
def HW_IRANGE_IMIN : Fld := ⟨0xC068, 15, 0⟩
def HW_MBX_CMD (i : Nat) : Nat := 0xC100 + 0x4 * i
def HW_MBX_CMD_DATA (i : Nat) : Fld := ⟨0xC100 + 0x4 * i, 31, 0⟩
def HW_MBX_CTRL : Nat := 0xC040
def HW_MBX_CTRL_BUSY : Fld := ⟨0xC040, 30, 30⟩
def HW_MBX_CTRL_GO : Fld := ⟨0xC040, 31, 31⟩
def HW_MBX_CTRL_RESULT : Fld := ⟨0xC040, 29, 27⟩
def HW_MBX_CTRL_RLEN : Fld := ⟨0xC040, 9, 0⟩
def HW_MBX_RSP (i : Nat) : Nat := 0xC400 + 0x4 * i
def HW_MBX_RSP_DATA (i : Nat) : Fld := ⟨0xC400 + 0x4 * i, 31, 0⟩
def HW_OPSEC_HI : Nat := 0xC00C
def HW_OPSEC_HI_OPSEC_HI : Fld := ⟨0xC00C, 7, 0⟩
def HW_OPSEC_HI_PCC : Fld := ⟨0xC00C, 31, 8⟩
def HW_OPSEC_LO : Nat := 0xC008
def HW_OPSEC_LO_OPSEC_LO : Fld := ⟨0xC008, 31, 0⟩
def HW_STAT : Nat := 0xC004
def HW_STAT_COARSE : Fld := ⟨0xC004, 27, 27⟩
def HW_STAT_OSC_OK : Fld := ⟨0xC004, 28, 28⟩
def HW_STAT_RESTORED : Fld := ⟨0xC004, 29, 29⟩
def HW_STAT_SEAL : Fld := ⟨0xC004, 31, 30⟩
def HW_STAT_STORE : Fld := ⟨0xC004, 23, 16⟩
def HW_TENANTS : Nat := 0xC01C
def HW_TENANTS_COUNT : Fld := ⟨0xC01C, 12, 0⟩
def HW_VRANGE : Nat := 0xC064
def HW_VRANGE_VMAX : Fld := ⟨0xC064, 31, 16⟩
def HW_VRANGE_VMIN : Fld := ⟨0xC064, 15, 0⟩
def TIME_BOUND_BOUND (b : Nat) : Fld := ⟨b + 0x34, 31, 0⟩
def TIME_CAP_CTRL_EN (b : Nat) : Fld := ⟨b + 0x80, 7, 0⟩
def TIME_CAP_CTRL_FALL (b : Nat) : Fld := ⟨b + 0x80, 15, 8⟩
def TIME_CAP_DROP_COUNT (b : Nat) : Fld := ⟨b + 0xA0, 31, 0⟩
def TIME_CAP_LATm_LAT_EVEN (b m : Nat) : Fld := ⟨b + 0x90 + 0x4 * m, 15, 0⟩
def TIME_CAP_LATm_LAT_ODD (b m : Nat) : Fld := ⟨b + 0x90 + 0x4 * m, 31, 16⟩
def TIME_CAP_STAT_AVAIL (b : Nat) : Fld := ⟨b + 0x84, 7, 0⟩
def TIME_CAP_STAT_OVF (b : Nat) : Fld := ⟨b + 0x84, 15, 8⟩
def TIME_CAPn_W0_FLAGS (b n : Nat) : Fld := ⟨b + 0xC0 + 0x10 * n, 3, 2⟩
def TIME_CAPn_W0_FRAC_HI (b n : Nat) : Fld := ⟨b + 0xC0 + 0x10 * n, 31, 8⟩
def TIME_CAPn_W0_QUAL (b n : Nat) : Fld := ⟨b + 0xC0 + 0x10 * n, 1, 0⟩
def TIME_CAPn_W1_NSEC (b n : Nat) : Fld := ⟨b + 0xC4 + 0x10 * n, 31, 0⟩
def TIME_CAPn_W2_SEC_LO (b n : Nat) : Fld := ⟨b + 0xC8 + 0x10 * n, 31, 0⟩
def TIME_CAPn_W3_SEC_HI (b n : Nat) : Fld := ⟨b + 0xCC + 0x10 * n, 31, 0⟩
def TIME_CTRL_FREE_RUN_OK (b : Nat) : Fld := ⟨b + 0x14, 16, 16⟩
def TIME_CTRL_KI_SHIFT (b : Nat) : Fld := ⟨b + 0x14, 3, 0⟩
def TIME_CTRL_KP_SHIFT (b : Nat) : Fld := ⟨b + 0x14, 7, 4⟩
def TIME_CTRL_RATE_LIM (b : Nat) : Fld := ⟨b + 0x14, 15, 8⟩
def TIME_DELAY_DELAY_AVG (b : Nat) : Fld := ⟨b + 0x24, 31, 0⟩
def TIME_HOLDS_COUNT (b : Nat) : Fld := ⟨b + 0x48, 31, 0⟩
def TIME_NOW0_FRAC (b : Nat) : Fld := ⟨b + 0x0, 31, 0⟩
def TIME_NOW1_NSEC (b : Nat) : Fld := ⟨b + 0x4, 31, 0⟩
def TIME_NOW2_SEC_LO (b : Nat) : Fld := ⟨b + 0x8, 31, 0⟩
def TIME_NOW3_SEC_HI (b : Nat) : Fld := ⟨b + 0xC, 31, 0⟩
def TIME_OFFSET_OFFSET (b : Nat) : Fld := ⟨b + 0x20, 31, 0⟩
def TIME_RADIO_TOL_TOL (b : Nat) : Fld := ⟨b + 0x30, 31, 0⟩
def TIME_RATE_HI_RATE_HI (b : Nat) : Fld := ⟨b + 0x1C, 7, 0⟩
def TIME_RATE_LO_RATE_LO (b : Nat) : Fld := ⟨b + 0x18, 31, 0⟩
def TIME_STAB_STAB (b : Nat) : Fld := ⟨b + 0x2C, 15, 0⟩
def TIME_STATUS_FAULT (b : Nat) : Fld := ⟨b + 0x10, 5, 5⟩
def TIME_STATUS_HOPS (b : Nat) : Fld := ⟨b + 0x10, 31, 24⟩
def TIME_STATUS_RATE_SAT (b : Nat) : Fld := ⟨b + 0x10, 7, 7⟩
def TIME_STATUS_STATE (b : Nat) : Fld := ⟨b + 0x10, 2, 0⟩
def TIME_STATUS_STEPPED (b : Nat) : Fld := ⟨b + 0x10, 4, 4⟩
def TIME_STATUS_UPHOLD (b : Nat) : Fld := ⟨b + 0x10, 6, 6⟩
def TIME_STEP_FRAC_FRAC (b : Nat) : Fld := ⟨b + 0x38, 31, 0⟩
def TIME_STEP_NS_NSEC (b : Nat) : Fld := ⟨b + 0x3C, 31, 0⟩
def TIME_STEP_SEC_HI_SEC_HI (b : Nat) : Fld := ⟨b + 0x4C, 31, 0⟩
def TIME_STEP_SEC_SEC (b : Nat) : Fld := ⟨b + 0x40, 31, 0⟩
def TIME_XBAD_COUNT (b : Nat) : Fld := ⟨b + 0x44, 31, 0⟩
def TZ_AUD_ABANDON : Nat := 0x3438
def TZ_AUD_ABANDON_COUNT : Fld := ⟨0x3438, 31, 0⟩
def TZ_AUD_CTRL : Nat := 0x3400
def TZ_AUD_CTRL_EN : Fld := ⟨0x3400, 31, 31⟩
def TZ_AUD_CTRL_GAP : Fld := ⟨0x3400, 7, 0⟩
def TZ_AUD_CTRL_LOCK : Fld := ⟨0x3400, 30, 30⟩
def TZ_AUD_DESC : Nat := 0x3430
def TZ_AUD_DESC_COUNT : Fld := ⟨0x3430, 31, 0⟩
def TZ_AUD_REJECT : Nat := 0x343C
def TZ_AUD_REJECT_COUNT : Fld := ⟨0x343C, 31, 0⟩
def TZ_AUD_REPLAYS : Nat := 0x3440
def TZ_AUD_REPLAYS_COUNT : Fld := ⟨0x3440, 31, 0⟩
def TZ_AUD_RETAIN : Nat := 0x340C
def TZ_AUD_RETAIN_US : Fld := ⟨0x340C, 31, 0⟩
def TZ_AUD_RPL_H : Nat := 0x3424
def TZ_AUD_RPL_H_BASE_47_32_ : Fld := ⟨0x3424, 15, 0⟩
def TZ_AUD_RPL_L : Nat := 0x3420
def TZ_AUD_RPL_LEN : Nat := 0x3428
def TZ_AUD_RPL_LEN_BYTES : Fld := ⟨0x3428, 31, 0⟩
def TZ_AUD_RPL_L_BASE_31_0_ : Fld := ⟨0x3420, 31, 0⟩
def TZ_AUD_SEL : Nat := 0x3434
def TZ_AUD_SEL_COUNT : Fld := ⟨0x3434, 31, 0⟩
def TZ_AUD_SSEQ : Nat := 0x3444
def TZ_AUD_SSEQ_SEQ : Fld := ⟨0x3444, 31, 0⟩
def TZ_AUD_STAT : Nat := 0x3404
def TZ_AUD_STAT_BUSY : Fld := ⟨0x3404, 30, 30⟩
def TZ_AUD_STAT_CFG : Fld := ⟨0x3404, 31, 31⟩
def TZ_AUD_STAT_QDEPTH : Fld := ⟨0x3404, 20, 16⟩
def TZ_AUD_STAT_REPLAY : Fld := ⟨0x3404, 29, 29⟩
def TZ_AUD_THRESH : Nat := 0x3408
def TZ_AUD_THRESH_THRESH : Fld := ⟨0x3408, 31, 0⟩
def TZ_AUD_WIN_HI_H : Nat := 0x341C
def TZ_AUD_WIN_HI_H_HI_47_32_ : Fld := ⟨0x341C, 15, 0⟩
def TZ_AUD_WIN_HI_L : Nat := 0x3418
def TZ_AUD_WIN_HI_L_HI_31_0_ : Fld := ⟨0x3418, 31, 0⟩
def TZ_AUD_WIN_LO_H : Nat := 0x3414
def TZ_AUD_WIN_LO_H_LO_47_32_ : Fld := ⟨0x3414, 15, 0⟩
def TZ_AUD_WIN_LO_L : Nat := 0x3410
def TZ_AUD_WIN_LO_L_LO_31_0_ : Fld := ⟨0x3410, 31, 0⟩
def TZ_AUD_WRr_BASE_H (r : Nat) : Nat := 0x350C + 0x20 * r
def TZ_AUD_WRr_BASE_H_BASE_47_32_ (r : Nat) : Fld := ⟨0x350C + 0x20 * r, 15, 0⟩
def TZ_AUD_WRr_BASE_L (r : Nat) : Nat := 0x3508 + 0x20 * r
def TZ_AUD_WRr_BASE_L_BASE_31_0_ (r : Nat) : Fld := ⟨0x3508 + 0x20 * r, 31, 0⟩
def TZ_AUD_WRr_CTRL (r : Nat) : Nat := 0x3500 + 0x20 * r
def TZ_AUD_WRr_CTRL_EN (r : Nat) : Fld := ⟨0x3500 + 0x20 * r, 31, 31⟩
def TZ_AUD_WRr_CTRL_ERR (r : Nat) : Fld := ⟨0x3500 + 0x20 * r, 30, 30⟩
def TZ_AUD_WRr_CTRL_PERIOD_S (r : Nat) : Fld := ⟨0x3500 + 0x20 * r, 15, 0⟩
def TZ_AUD_WRr_EPOCH (r : Nat) : Nat := 0x3518 + 0x20 * r
def TZ_AUD_WRr_EPOCH_EPOCH (r : Nat) : Fld := ⟨0x3518 + 0x20 * r, 15, 0⟩
def TZ_AUD_WRr_ID (r : Nat) : Nat := 0x3504 + 0x20 * r
def TZ_AUD_WRr_ID_REGION_ID (r : Nat) : Fld := ⟨0x3504 + 0x20 * r, 31, 0⟩
def TZ_AUD_WRr_LEN_H (r : Nat) : Nat := 0x3514 + 0x20 * r
def TZ_AUD_WRr_LEN_H_LEN_39_32_ (r : Nat) : Fld := ⟨0x3514 + 0x20 * r, 7, 0⟩
def TZ_AUD_WRr_LEN_L (r : Nat) : Nat := 0x3510 + 0x20 * r
def TZ_AUD_WRr_LEN_L_LEN_31_0_ (r : Nat) : Fld := ⟨0x3510 + 0x20 * r, 31, 0⟩
def TZ_BK_CFG : Nat := 0x3800
def TZ_BK_CFG_LANES2 : Fld := ⟨0x3800, 0, 0⟩
def TZ_BKk_CAP_FAR (k : Nat) : Nat := 0x3918 + 0x100 * k
def TZ_BKk_CAP_FAR_CAP (k : Nat) : Fld := ⟨0x3918 + 0x100 * k, 31, 0⟩
def TZ_BKk_CAP_LOCAL (k : Nat) : Nat := 0x3914 + 0x100 * k
def TZ_BKk_CAP_LOCAL_CAP (k : Nat) : Fld := ⟨0x3914 + 0x100 * k, 31, 0⟩
def TZ_BKk_CTRL (k : Nat) : Nat := 0x3900 + 0x100 * k
def TZ_BKk_CTRL_CEIL (k : Nat) : Fld := ⟨0x3900 + 0x100 * k, 28, 26⟩
def TZ_BKk_CTRL_EN (k : Nat) : Fld := ⟨0x3900 + 0x100 * k, 31, 31⟩
def TZ_BKk_CTRL_KA_US (k : Nat) : Fld := ⟨0x3900 + 0x100 * k, 15, 8⟩
def TZ_BKk_CTRL_LEAD_FLEX (k : Nat) : Fld := ⟨0x3900 + 0x100 * k, 29, 29⟩
def TZ_BKk_CTRL_MARGIN (k : Nat) : Fld := ⟨0x3900 + 0x100 * k, 25, 20⟩
def TZ_BKk_CTRL_RETRAIN (k : Nat) : Fld := ⟨0x3900 + 0x100 * k, 30, 30⟩
def TZ_BKk_DEG (k : Nat) : Nat := 0x3904 + 0x100 * k
def TZ_BKk_DEGRADE_CNT (k : Nat) : Nat := 0x3938 + 0x100 * k
def TZ_BKk_DEGRADE_CNT_COUNT (k : Nat) : Fld := ⟨0x3938 + 0x100 * k, 31, 0⟩
def TZ_BKk_DEG_DEG_HYST (k : Nat) : Fld := ⟨0x3904 + 0x100 * k, 31, 24⟩
def TZ_BKk_DEG_DEG_N (k : Nat) : Fld := ⟨0x3904 + 0x100 * k, 23, 16⟩
def TZ_BKk_DEG_LQ_MS (k : Nat) : Fld := ⟨0x3904 + 0x100 * k, 7, 0⟩
def TZ_BKk_DEG_UNC_DEG (k : Nat) : Fld := ⟨0x3904 + 0x100 * k, 15, 8⟩
def TZ_BKk_DOWN_CNT (k : Nat) : Nat := 0x3934 + 0x100 * k
def TZ_BKk_DOWN_CNT_COUNT (k : Nat) : Fld := ⟨0x3934 + 0x100 * k, 31, 0⟩
def TZ_BKk_EC_CLUSc (k c : Nat) : Nat := 0x3960 + 0x100 * k + 0x4 * c
def TZ_BKk_EC_CLUSc_DELAY (k c : Nat) : Fld := ⟨0x3960 + 0x100 * k + 0x4 * c, 16, 0⟩
def TZ_BKk_EC_CLUSc_EN (k c : Nat) : Fld := ⟨0x3960 + 0x100 * k + 0x4 * c, 31, 31⟩
def TZ_BKk_EC_CTRL (k : Nat) : Nat := 0x3944 + 0x100 * k
def TZ_BKk_EC_CTRL_FLOOR (k : Nat) : Fld := ⟨0x3944 + 0x100 * k, 7, 0⟩
def TZ_BKk_EC_CTRL_FREEZE (k : Nat) : Fld := ⟨0x3944 + 0x100 * k, 31, 31⟩
def TZ_BKk_EC_CTRL_MU (k : Nat) : Fld := ⟨0x3944 + 0x100 * k, 27, 24⟩
def TZ_BKk_ERLE (k : Nat) : Nat := 0x3924 + 0x100 * k
def TZ_BKk_ERLE_ERLE (k : Nat) : Fld := ⟨0x3924 + 0x100 * k, 15, 0⟩
def TZ_BKk_FEC_CORR (k : Nat) : Nat := 0x392C + 0x100 * k
def TZ_BKk_FEC_CORR_COUNT (k : Nat) : Fld := ⟨0x392C + 0x100 * k, 31, 0⟩
def TZ_BKk_FEC_CW (k : Nat) : Nat := 0x3928 + 0x100 * k
def TZ_BKk_FEC_CW_COUNT (k : Nat) : Fld := ⟨0x3928 + 0x100 * k, 31, 0⟩
def TZ_BKk_FEC_UNCORR (k : Nat) : Nat := 0x3930 + 0x100 * k
def TZ_BKk_FEC_UNCORR_COUNT (k : Nat) : Fld := ⟨0x3930 + 0x100 * k, 31, 0⟩
def TZ_BKk_LQ (k : Nat) : Nat := 0x3920 + 0x100 * k
def TZ_BKk_LQ_ESNR (k : Nat) : Fld := ⟨0x3920 + 0x100 * k, 31, 16⟩
def TZ_BKk_LQ_NLOG_SER (k : Nat) : Fld := ⟨0x3920 + 0x100 * k, 15, 0⟩
def TZ_BKk_NODE_FAR (k : Nat) : Nat := 0x391C + 0x100 * k
def TZ_BKk_NODE_FAR_NODE (k : Nat) : Fld := ⟨0x391C + 0x100 * k, 31, 0⟩
def TZ_BKk_RETRY (k : Nat) : Nat := 0x390C + 0x100 * k
def TZ_BKk_RETRY_RETRY_MS (k : Nat) : Fld := ⟨0x390C + 0x100 * k, 31, 16⟩
def TZ_BKk_STAT (k : Nat) : Nat := 0x3910 + 0x100 * k
def TZ_BKk_STAT_IN_SERVICE (k : Nat) : Fld := ⟨0x3910 + 0x100 * k, 22, 22⟩
def TZ_BKk_STAT_LAST_FAIL (k : Nat) : Fld := ⟨0x3910 + 0x100 * k, 21, 19⟩
def TZ_BKk_STAT_LEAD (k : Nat) : Fld := ⟨0x3910 + 0x100 * k, 24, 24⟩
def TZ_BKk_STAT_MODE (k : Nat) : Fld := ⟨0x3910 + 0x100 * k, 27, 25⟩
def TZ_BKk_STAT_SIGNAL (k : Nat) : Fld := ⟨0x3910 + 0x100 * k, 23, 23⟩
def TZ_BKk_STAT_STATE (k : Nat) : Fld := ⟨0x3910 + 0x100 * k, 31, 28⟩
def TZ_BKk_TRAIN_CNT (k : Nat) : Nat := 0x393C + 0x100 * k
def TZ_BKk_TRAIN_CNT_COUNT (k : Nat) : Fld := ⟨0x393C + 0x100 * k, 31, 0⟩
def TZ_BKk_TRAIN_FAIL (k : Nat) : Nat := 0x3940 + 0x100 * k
def TZ_BKk_TRAIN_FAIL_COUNT (k : Nat) : Fld := ⟨0x3940 + 0x100 * k, 31, 0⟩
def TZ_BKk_TXFIR (k : Nat) : Nat := 0x3908 + 0x100 * k
def TZ_BKk_TXFIR_MAIN (k : Nat) : Fld := ⟨0x3908 + 0x100 * k, 23, 16⟩
def TZ_BKk_TXFIR_POST (k : Nat) : Fld := ⟨0x3908 + 0x100 * k, 15, 8⟩
def TZ_BKk_TXFIR_PRE (k : Nat) : Fld := ⟨0x3908 + 0x100 * k, 31, 24⟩
def TZ_BOOT_STAT : Nat := 0x10
def TZ_BOOT_STAT_CONFIGURED : Fld := ⟨0x10, 30, 30⟩
def TZ_BOOT_STAT_NVM_ERR : Fld := ⟨0x10, 28, 28⟩
def TZ_BOOT_STAT_NVM_IGN : Fld := ⟨0x10, 15, 0⟩
def TZ_BOOT_STAT_NVM_OK : Fld := ⟨0x10, 29, 29⟩
def TZ_BOOT_STAT_READY : Fld := ⟨0x10, 31, 31⟩
def TZ_CLK_ALIVE : Nat := 0x3C00
def TZ_CLK_ALIVE_ALIVE : Fld := ⟨0x3C00, 8, 0⟩
def TZ_CLK_FAIL : Nat := 0x3C04
def TZ_CLK_FAILS : Nat := 0x3C08
def TZ_CLK_FAILS_COUNT : Fld := ⟨0x3C08, 31, 0⟩
def TZ_CLK_FAIL_FAIL : Fld := ⟨0x3C04, 8, 0⟩
def TZ_CNT_HI : Nat := 0xB00
def TZ_CNT_HI_EPOCH : Fld := ⟨0xB00, 29, 26⟩
def TZ_CNT_HI_QUAL : Fld := ⟨0xB00, 25, 24⟩
def TZ_CNT_HI_VALID : Fld := ⟨0xB00, 31, 31⟩
def TZ_CNT_HI_VALUE_HI : Fld := ⟨0xB00, 15, 0⟩
def TZ_CNT_HI_WRAP : Fld := ⟨0xB00, 30, 30⟩
def TZ_CNT_LO (i : Nat) : Nat := 0x4000 + 0x4 * i
def TZ_CNT_LO_VALUE_LO (i : Nat) : Fld := ⟨0x4000 + 0x4 * i, 31, 0⟩
def TZ_CNT_T0 : Nat := 0xB04
def TZ_CNT_T0_FRAC : Fld := ⟨0xB04, 31, 0⟩
def TZ_CNT_T1 : Nat := 0xB08
def TZ_CNT_T1_NSEC : Fld := ⟨0xB08, 31, 0⟩
def TZ_CNT_T2 : Nat := 0xB0C
def TZ_CNT_T2_SEC_LO : Fld := ⟨0xB0C, 31, 0⟩
def TZ_CNT_T3 : Nat := 0xB10
def TZ_CNT_T3_SEC_HI : Fld := ⟨0xB10, 31, 0⟩
def TZ_CRCu_COUNT (u : Nat) : Nat := 0x3010 + 0x20 * u
def TZ_CRCu_COUNT_COUNT (u : Nat) : Fld := ⟨0x3010 + 0x20 * u, 31, 0⟩
def TZ_CRCu_CTRL (u : Nat) : Nat := 0x3000 + 0x20 * u
def TZ_CRCu_CTRL_NBYTES (u : Nat) : Fld := ⟨0x3000 + 0x20 * u, 6, 4⟩
def TZ_CRCu_CTRL_POLY (u : Nat) : Fld := ⟨0x3000 + 0x20 * u, 1, 0⟩
def TZ_CRCu_CTRL_START (u : Nat) : Fld := ⟨0x3000 + 0x20 * u, 8, 8⟩
def TZ_CRCu_DATA (u : Nat) : Nat := 0x3004 + 0x20 * u
def TZ_CRCu_DATA_DATA (u : Nat) : Fld := ⟨0x3004 + 0x20 * u, 31, 0⟩
def TZ_CRCu_RES_HI (u : Nat) : Nat := 0x300C + 0x20 * u
def TZ_CRCu_RES_HI_RES_HI (u : Nat) : Fld := ⟨0x300C + 0x20 * u, 31, 0⟩
def TZ_CRCu_RES_LO (u : Nat) : Nat := 0x3008 + 0x20 * u
def TZ_CRCu_RES_LO_RES_LO (u : Nat) : Fld := ⟨0x3008 + 0x20 * u, 31, 0⟩
def TZ_FEATw (w : Nat) : Nat := 0x60 + 0x4 * w
def TZ_FEATw_FEAT (w : Nat) : Fld := ⟨0x60 + 0x4 * w, 31, 0⟩
def TZ_GRD_FENCE_CLR : Nat := 0x1014
def TZ_GRD_FENCE_CLR_CLR : Fld := ⟨0x1014, 7, 0⟩
def TZ_GRD_HOLDOFF : Nat := 0x1010
def TZ_GRD_HOLDOFF_US : Fld := ⟨0x1010, 15, 0⟩
def TZ_GRD_INJECT : Nat := 0x1018
def TZ_GRD_INJECT_GO : Fld := ⟨0x1018, 31, 31⟩
def TZ_GRD_INJECT_UNIT : Fld := ⟨0x1018, 4, 0⟩
def TZ_GRD_PRIV : Nat := 0x1030
def TZ_GRD_PRIV_LEVEL : Fld := ⟨0x1030, 1, 0⟩
def TZ_GRD_REJ : Nat := 0x1034
def TZ_GRD_REJ_COUNT : Fld := ⟨0x1034, 31, 0⟩
def TZ_GRD_SEQ : Nat := 0x101C
def TZ_GRD_SEQ_SEQ : Fld := ⟨0x101C, 31, 0⟩
def TZ_GRDg_CTRL (g : Nat) : Nat := 0x1080 + 0x8 * g
def TZ_GRDg_CTRL_RELIEF_KIND (g : Nat) : Fld := ⟨0x1080 + 0x8 * g, 8, 8⟩
def TZ_GRDg_CTRL_VF_DOM (g : Nat) : Fld := ⟨0x1080 + 0x8 * g, 5, 3⟩
def TZ_GRDg_CTRL_WCLASS (g : Nat) : Fld := ⟨0x1080 + 0x8 * g, 6, 6⟩
def TZ_GRDg_CTRL_WCLASS_SRC (g : Nat) : Fld := ⟨0x1080 + 0x8 * g, 7, 7⟩
def TZ_GRDg_STAT (g : Nat) : Nat := 0x1084 + 0x8 * g
def TZ_GRDg_STAT_DEPTH (g : Nat) : Fld := ⟨0x1084 + 0x8 * g, 28, 26⟩
def TZ_GRDg_STAT_FENCE (g : Nat) : Fld := ⟨0x1084 + 0x8 * g, 31, 31⟩
def TZ_GRDg_STAT_RADIO (g : Nat) : Fld := ⟨0x1084 + 0x8 * g, 23, 23⟩
def TZ_GRDg_STAT_RELIEF (g : Nat) : Fld := ⟨0x1084 + 0x8 * g, 25, 25⟩
def TZ_GRDg_STAT_SAFE (g : Nat) : Fld := ⟨0x1084 + 0x8 * g, 24, 24⟩
def TZ_GRDg_STAT_STRETCH (g : Nat) : Fld := ⟨0x1084 + 0x8 * g, 30, 30⟩
def TZ_GRDg_STAT_THROTTLE (g : Nat) : Fld := ⟨0x1084 + 0x8 * g, 29, 29⟩
def TZ_ID : Nat := 0x0
def TZ_ID_VERSION : Fld := ⟨0x0, 31, 0⟩
def TZ_IRQ_ROUTE : Nat := 0x54
def TZ_IRQ_ROUTE_ROUTE : Fld := ⟨0x54, 31, 0⟩
def TZ_IRQ_SRC : Nat := 0x50
def TZ_IRQ_SRC_CAP : Fld := ⟨0x50, 2, 2⟩
def TZ_IRQ_SRC_CAPOVF : Fld := ⟨0x50, 3, 3⟩
def TZ_IRQ_SRC_CHAIN : Fld := ⟨0x50, 4, 4⟩
def TZ_IRQ_SRC_FENCE : Fld := ⟨0x50, 6, 6⟩
def TZ_IRQ_SRC_JOB : Fld := ⟨0x50, 0, 0⟩
def TZ_IRQ_SRC_TFAULT : Fld := ⟨0x50, 1, 1⟩
def TZ_IRQ_SRC_TRCLOSS : Fld := ⟨0x50, 5, 5⟩
def TZ_IRQ_SRC_VFFAIL : Fld := ⟨0x50, 7, 7⟩
def TZ_JOB_ID : Nat := 0x24
def TZ_JOB_ID_JOB : Fld := ⟨0x24, 31, 0⟩
def TZ_JOB_Pn (n : Nat) : Nat := 0x28 + 0x4 * n
def TZ_JOB_Pn_PAYLOAD (n : Nat) : Fld := ⟨0x28 + 0x4 * n, 31, 0⟩
def TZ_JOB_STAT : Nat := 0x20
def TZ_JOB_STAT_ARMED : Fld := ⟨0x20, 5, 3⟩
def TZ_JOB_STAT_FIFO : Fld := ⟨0x20, 2, 0⟩
def TZ_JOB_STAT_OVR : Fld := ⟨0x20, 30, 30⟩
def TZ_JOB_STAT_PEND : Fld := ⟨0x20, 31, 31⟩
def TZ_JOB_T0 : Nat := 0x38
def TZ_JOB_T0_FRAC : Fld := ⟨0x38, 31, 0⟩
def TZ_JOB_T1 : Nat := 0x3C
def TZ_JOB_T1_NSEC : Fld := ⟨0x3C, 31, 0⟩
def TZ_JOB_T2 : Nat := 0x40
def TZ_JOB_T2_SEC_LO : Fld := ⟨0x40, 31, 0⟩
def TZ_JOB_T3 : Nat := 0x44
def TZ_JOB_T3_SEC_HI : Fld := ⟨0x44, 31, 0⟩
def TZ_MARK_DROP : Nat := 0xA44
def TZ_MARK_DROP_COUNT : Fld := ⟨0xA44, 31, 0⟩
def TZ_MARK_REJ : Nat := 0xA40
def TZ_MARK_REJ_COUNT : Fld := ⟨0xA40, 31, 0⟩
def TZ_MARKn_CTRL (n : Nat) : Nat := 0xA00 + 0x8 * n
def TZ_MARKn_CTRL_PRIV (n : Nat) : Fld := ⟨0xA00 + 0x8 * n, 7, 4⟩
def TZ_MARKn_CTRL_TYPE (n : Nat) : Fld := ⟨0xA00 + 0x8 * n, 1, 0⟩
def TZ_MARKn_DATA (n : Nat) : Nat := 0xA04 + 0x8 * n
def TZ_MARKn_DATA_PAYLOAD (n : Nat) : Fld := ⟨0xA04 + 0x8 * n, 31, 0⟩
def TZ_NODE : Nat := 0x4
def TZ_NODE_ADDR : Fld := ⟨0x4, 17, 0⟩
def TZ_NODE_VALID : Fld := ⟨0x4, 31, 31⟩
def TZ_RLOG_CLR_REJ : Nat := 0x282C
def TZ_RLOG_CLR_REJ_COUNT : Fld := ⟨0x282C, 31, 0⟩
def TZ_RLOG_HEAD : Nat := 0x2800
def TZ_RLOG_HEAD_SEQ : Fld := ⟨0x2800, 31, 0⟩
def TZ_RLOG_LOST : Nat := 0x2828
def TZ_RLOG_LOST_COUNT : Fld := ⟨0x2828, 31, 0⟩
def TZ_RLOG_MIRRORED : Nat := 0x2808
def TZ_RLOG_MIRRORED_SEQ : Fld := ⟨0x2808, 31, 0⟩
def TZ_RLOG_OPSEC_HI : Nat := 0x2810
def TZ_RLOG_OPSEC_HI_OPSEC_HI : Fld := ⟨0x2810, 7, 0⟩
def TZ_RLOG_OPSEC_HI_PCC : Fld := ⟨0x2810, 31, 8⟩
def TZ_RLOG_OPSEC_LO : Nat := 0x280C
def TZ_RLOG_OPSEC_LO_OPSEC_LO : Fld := ⟨0x280C, 31, 0⟩
def TZ_RLOG_PRIV : Nat := 0x281C
def TZ_RLOG_PRIV_READ : Fld := ⟨0x281C, 3, 0⟩
def TZ_RLOG_RD_SEQ : Nat := 0x2820
def TZ_RLOG_RD_SEQ_SEQ : Fld := ⟨0x2820, 31, 0⟩
def TZ_RLOG_RD_STAT : Nat := 0x2824
def TZ_RLOG_RD_STAT_BUSY : Fld := ⟨0x2824, 31, 31⟩
def TZ_RLOG_RD_STAT_LEN : Fld := ⟨0x2824, 9, 0⟩
def TZ_RLOG_RD_STAT_RESULT : Fld := ⟨0x2824, 30, 28⟩
def TZ_RLOG_STAT : Nat := 0x2814
def TZ_RLOG_STAT_OPBASE : Fld := ⟨0x2814, 31, 31⟩
def TZ_RLOG_TAIL : Nat := 0x2804
def TZ_RLOG_TAIL_SEQ : Fld := ⟨0x2804, 31, 0⟩
def TZ_RLOG_TYPE_EN : Nat := 0x2818
def TZ_RLOG_TYPE_EN_EN : Fld := ⟨0x2818, 31, 0⟩
def TZ_RLOG_WIN (i : Nat) : Nat := 0x2C00 + 0x4 * i
def TZ_RLOG_WIN_DATA (i : Nat) : Fld := ⟨0x2C00 + 0x4 * i, 31, 0⟩
def TZ_RST_CAUSE : Nat := 0x3C0C
def TZ_RST_CAUSE_CLKRET : Fld := ⟨0x3C0C, 3, 0⟩
def TZ_SAPQk_CTRL (k : Nat) : Nat := 0x2040 + 0x40 * k
def TZ_SAPQk_CTRL_COMP (k : Nat) : Fld := ⟨0x2040 + 0x40 * k, 31, 31⟩
def TZ_SAPQk_CTRL_FMAX (k : Nat) : Fld := ⟨0x2040 + 0x40 * k, 29, 24⟩
def TZ_SAPQk_CTRL_HOLD_US (k : Nat) : Fld := ⟨0x2040 + 0x40 * k, 15, 8⟩
def TZ_SAPQk_CTRL_LANE (k : Nat) : Fld := ⟨0x2040 + 0x40 * k, 30, 30⟩
def TZ_SAPQk_CTRL_QSIZE (k : Nat) : Fld := ⟨0x2040 + 0x40 * k, 7, 0⟩
def TZ_SAPQk_CTRL_STRIDE (k : Nat) : Fld := ⟨0x2040 + 0x40 * k, 23, 16⟩
def TZ_SAPQk_DROP_BYTES (k : Nat) : Nat := 0x2058 + 0x40 * k
def TZ_SAPQk_DROP_BYTES_COUNT (k : Nat) : Fld := ⟨0x2058 + 0x40 * k, 31, 0⟩
def TZ_SAPQk_DROP_REC (k : Nat) : Nat := 0x2054 + 0x40 * k
def TZ_SAPQk_DROP_REC_COUNT (k : Nat) : Fld := ⟨0x2054 + 0x40 * k, 31, 0⟩
def TZ_SAPQk_FRAMES (k : Nat) : Nat := 0x2068 + 0x40 * k
def TZ_SAPQk_FRAMES_COUNT (k : Nat) : Fld := ⟨0x2068 + 0x40 * k, 31, 0⟩
def TZ_SAPQk_HB (k : Nat) : Nat := 0x206C + 0x40 * k
def TZ_SAPQk_HB_COUNT (k : Nat) : Fld := ⟨0x206C + 0x40 * k, 31, 0⟩
def TZ_SAPQk_MERGED (k : Nat) : Nat := 0x205C + 0x40 * k
def TZ_SAPQk_MERGED_COUNT (k : Nat) : Fld := ⟨0x205C + 0x40 * k, 31, 0⟩
def TZ_SAPQk_OUTB (k : Nat) : Nat := 0x2064 + 0x40 * k
def TZ_SAPQk_OUTB_COUNT (k : Nat) : Fld := ⟨0x2064 + 0x40 * k, 31, 0⟩
def TZ_SAPQk_RAWB (k : Nat) : Nat := 0x2060 + 0x40 * k
def TZ_SAPQk_RAWB_COUNT (k : Nat) : Fld := ⟨0x2060 + 0x40 * k, 31, 0⟩
def TZ_SAPQk_SEQ (k : Nat) : Nat := 0x204C + 0x40 * k
def TZ_SAPQk_SEQ_SEQ (k : Nat) : Fld := ⟨0x204C + 0x40 * k, 31, 0⟩
def TZ_SAPQk_STAT (k : Nat) : Nat := 0x2048 + 0x40 * k
def TZ_SAPQk_STAT_FILL (k : Nat) : Fld := ⟨0x2048 + 0x40 * k, 23, 0⟩
def TZ_SAPQk_STAT_HELD (k : Nat) : Fld := ⟨0x2048 + 0x40 * k, 28, 28⟩
def TZ_SAPQk_STAT_LEVEL (k : Nat) : Fld := ⟨0x2048 + 0x40 * k, 31, 29⟩
def TZ_SAPQk_THIN (k : Nat) : Nat := 0x2050 + 0x40 * k
def TZ_SAPQk_THIN_COUNT (k : Nat) : Fld := ⟨0x2050 + 0x40 * k, 31, 0⟩
def TZ_SAPQk_WEIGHT (k : Nat) : Nat := 0x2044 + 0x40 * k
def TZ_SAPQk_WEIGHT_WEIGHT (k : Nat) : Fld := ⟨0x2044 + 0x40 * k, 7, 0⟩
def TZ_SAP_CHAIN_DLY : Nat := 0x808
def TZ_SAP_CHAIN_DLY_LOOP : Fld := ⟨0x808, 20, 12⟩
def TZ_SAP_CHAIN_DLY_SEL : Fld := ⟨0x808, 31, 24⟩
def TZ_SAP_CHAIN_DLY_STAGES : Fld := ⟨0x808, 8, 0⟩
def TZ_SAP_CHAIN_ERRS : Nat := 0x80C
def TZ_SAP_CHAIN_ERRS_COUNT : Fld := ⟨0x80C, 31, 0⟩
def TZ_SAP_CTRL : Nat := 0x800
def TZ_SAP_CTRL_EN : Fld := ⟨0x800, 0, 0⟩
def TZ_SAP_CTRL_FLUSH_BINS : Fld := ⟨0x800, 1, 1⟩
def TZ_SAP_CTRL_WIN_PRIV : Fld := ⟨0x800, 7, 4⟩
def TZ_SAP_GRPn_CTRL (n : Nat) : Nat := 0x840 + 0x10 * n
def TZ_SAP_GRPn_CTRL_EN (n : Nat) : Fld := ⟨0x840 + 0x10 * n, 31, 31⟩
def TZ_SAP_GRPn_CTRL_PERIOD (n : Nat) : Fld := ⟨0x840 + 0x10 * n, 23, 0⟩
def TZ_SAP_GRPn_PHASE (n : Nat) : Nat := 0x844 + 0x10 * n
def TZ_SAP_GRPn_PHASE_PHASE (n : Nat) : Fld := ⟨0x844 + 0x10 * n, 23, 0⟩
def TZ_SAP_GRPn_SKIP (n : Nat) : Nat := 0x84C + 0x10 * n
def TZ_SAP_GRPn_SKIP_COUNT (n : Nat) : Fld := ⟨0x84C + 0x10 * n, 31, 0⟩
def TZ_SAP_GRPn_STAT (n : Nat) : Nat := 0x848 + 0x10 * n
def TZ_SAP_GRPn_STAT_ERR (n : Nat) : Fld := ⟨0x848 + 0x10 * n, 31, 31⟩
def TZ_SAP_MEM_ADDR : Nat := 0x810
def TZ_SAP_MEM_ADDR_AUTOINC : Fld := ⟨0x810, 31, 31⟩
def TZ_SAP_MEM_ADDR_WORD : Fld := ⟨0x810, 8, 0⟩
def TZ_SAP_MEM_DATA : Nat := 0x814
def TZ_SAP_MEM_DATA_ENTRY : Fld := ⟨0x814, 31, 0⟩
def TZ_SAP_PK_ALIVE : Nat := 0x2008
def TZ_SAP_PK_ALIVE_ALIVE : Fld := ⟨0x2008, 23, 0⟩
def TZ_SAP_PK_ALIVE_BOOT : Fld := ⟨0x2008, 31, 24⟩
def TZ_SAP_PK_CTRL : Nat := 0x2000
def TZ_SAP_PK_CTRL_ALIVE_US : Fld := ⟨0x2000, 31, 16⟩
def TZ_SAP_PK_CTRL_EN : Fld := ⟨0x2000, 0, 0⟩
def TZ_SAP_PK_CTRL_REPLAY_US : Fld := ⟨0x2000, 15, 8⟩
def TZ_SAP_PK_STAT : Nat := 0x2004
def TZ_SAP_PK_STAT_CFG_ERR : Fld := ⟨0x2004, 0, 0⟩
def TZ_SAP_RX_CRCBAD : Nat := 0x2010
def TZ_SAP_RX_CRCBAD_COUNT : Fld := ⟨0x2010, 31, 0⟩
def TZ_SAP_RX_GAP : Nat := 0x2014
def TZ_SAP_RX_GAP_COUNT : Fld := ⟨0x2014, 31, 0⟩
def TZ_SAP_RX_OTHER : Nat := 0x201C
def TZ_SAP_RX_OTHER_COUNT : Fld := ⟨0x201C, 31, 0⟩
def TZ_SAP_RX_REPEAT : Nat := 0x2018
def TZ_SAP_RX_REPEAT_COUNT : Fld := ⟨0x2018, 31, 0⟩
def TZ_SAP_RX_RESTART : Nat := 0x2020
def TZ_SAP_RX_RESTART_COUNT : Fld := ⟨0x2020, 31, 0⟩
def TZ_SAP_STATUS : Nat := 0x804
def TZ_SAP_STATUS_CHAIN_ERR : Fld := ⟨0x804, 16, 16⟩
def TZ_SAP_STATUS_CUR_GRP : Fld := ⟨0x804, 11, 9⟩
def TZ_SAP_STATUS_NTWIG : Fld := ⟨0x804, 8, 0⟩
def TZ_SAP_STATUS_SWEEP : Fld := ⟨0x804, 12, 12⟩
def TZ_SEN_CTRL : Nat := 0x1000
def TZ_SEN_CTRL_RATE_WIN : Fld := ⟨0x1000, 15, 12⟩
def TZ_SEN_CTRL_SNAP_EN : Fld := ⟨0x1000, 11, 11⟩
def TZ_SEN_CTRL_SNAP_GROUP : Fld := ⟨0x1000, 10, 8⟩
def TZ_SENc_CFG (c : Nat) : Nat := 0x1100 + 0x4 * c
def TZ_SENc_CFG_KIND (c : Nat) : Fld := ⟨0x1100 + 0x4 * c, 3, 0⟩
def TZ_SENc_CFG_SIGNED (c : Nat) : Fld := ⟨0x1100 + 0x4 * c, 4, 4⟩
def TZ_SENc_VAL (c : Nat) : Nat := 0x1200 + 0x4 * c
def TZ_SENc_VAL_VALID (c : Nat) : Fld := ⟨0x1200 + 0x4 * c, 31, 31⟩
def TZ_SENc_VAL_VALUE (c : Nat) : Fld := ⟨0x1200 + 0x4 * c, 15, 0⟩
def TZ_TIME_BOUND : Nat := 0x434
def TZ_TIME_BOUND_BOUND : Fld := ⟨0x434, 31, 0⟩
def TZ_TIME_CAP_CTRL : Nat := 0x480
def TZ_TIME_CAP_CTRL_EN : Fld := ⟨0x480, 7, 0⟩
def TZ_TIME_CAP_CTRL_FALL : Fld := ⟨0x480, 15, 8⟩
def TZ_TIME_CAP_DROP : Nat := 0x4A0
def TZ_TIME_CAP_DROP_COUNT : Fld := ⟨0x4A0, 31, 0⟩
def TZ_TIME_CAP_LATm (m : Nat) : Nat := 0x490 + 0x4 * m
def TZ_TIME_CAP_LATm_LAT_EVEN (m : Nat) : Fld := ⟨0x490 + 0x4 * m, 15, 0⟩
def TZ_TIME_CAP_LATm_LAT_ODD (m : Nat) : Fld := ⟨0x490 + 0x4 * m, 31, 16⟩
def TZ_TIME_CAP_STAT : Nat := 0x484
def TZ_TIME_CAP_STAT_AVAIL : Fld := ⟨0x484, 7, 0⟩
def TZ_TIME_CAP_STAT_OVF : Fld := ⟨0x484, 15, 8⟩
def TZ_TIME_CAPn_W0 (n : Nat) : Nat := 0x4C0 + 0x10 * n
def TZ_TIME_CAPn_W0_FLAGS (n : Nat) : Fld := ⟨0x4C0 + 0x10 * n, 3, 2⟩
def TZ_TIME_CAPn_W0_FRAC_HI (n : Nat) : Fld := ⟨0x4C0 + 0x10 * n, 31, 8⟩
def TZ_TIME_CAPn_W0_QUAL (n : Nat) : Fld := ⟨0x4C0 + 0x10 * n, 1, 0⟩
def TZ_TIME_CAPn_W1 (n : Nat) : Nat := 0x4C4 + 0x10 * n
def TZ_TIME_CAPn_W1_NSEC (n : Nat) : Fld := ⟨0x4C4 + 0x10 * n, 31, 0⟩
def TZ_TIME_CAPn_W2 (n : Nat) : Nat := 0x4C8 + 0x10 * n
def TZ_TIME_CAPn_W2_SEC_LO (n : Nat) : Fld := ⟨0x4C8 + 0x10 * n, 31, 0⟩
def TZ_TIME_CAPn_W3 (n : Nat) : Nat := 0x4CC + 0x10 * n
def TZ_TIME_CAPn_W3_SEC_HI (n : Nat) : Fld := ⟨0x4CC + 0x10 * n, 31, 0⟩
def TZ_TIME_CTRL : Nat := 0x414
def TZ_TIME_CTRL_FREE_RUN_OK : Fld := ⟨0x414, 16, 16⟩
def TZ_TIME_CTRL_KI_SHIFT : Fld := ⟨0x414, 3, 0⟩
def TZ_TIME_CTRL_KP_SHIFT : Fld := ⟨0x414, 7, 4⟩
def TZ_TIME_CTRL_RATE_LIM : Fld := ⟨0x414, 15, 8⟩
def TZ_TIME_DELAY : Nat := 0x424
def TZ_TIME_DELAY_DELAY_AVG : Fld := ⟨0x424, 31, 0⟩
def TZ_TIME_HOLDS : Nat := 0x448
def TZ_TIME_HOLDS_COUNT : Fld := ⟨0x448, 31, 0⟩
def TZ_TIME_LAT : Nat := 0x428
def TZ_TIME_LAT_LAT_RX : Fld := ⟨0x428, 31, 16⟩
def TZ_TIME_LAT_LAT_TX : Fld := ⟨0x428, 15, 0⟩
def TZ_TIME_NOW0 : Nat := 0x400
def TZ_TIME_NOW0_FRAC : Fld := ⟨0x400, 31, 0⟩
def TZ_TIME_NOW1 : Nat := 0x404
def TZ_TIME_NOW1_NSEC : Fld := ⟨0x404, 31, 0⟩
def TZ_TIME_NOW2 : Nat := 0x408
def TZ_TIME_NOW2_SEC_LO : Fld := ⟨0x408, 31, 0⟩
def TZ_TIME_NOW3 : Nat := 0x40C
def TZ_TIME_NOW3_SEC_HI : Fld := ⟨0x40C, 31, 0⟩
def TZ_TIME_OFFSET : Nat := 0x420
def TZ_TIME_OFFSET_OFFSET : Fld := ⟨0x420, 31, 0⟩
def TZ_TIME_PTn_CTRL (n : Nat) : Nat := 0x540 + 0x20 * n
def TZ_TIME_PTn_CTRL_ACTIVE (n : Nat) : Fld := ⟨0x540 + 0x20 * n, 31, 31⟩
def TZ_TIME_PTn_CTRL_ARM (n : Nat) : Fld := ⟨0x540 + 0x20 * n, 1, 1⟩
def TZ_TIME_PTn_CTRL_ENABLE (n : Nat) : Fld := ⟨0x540 + 0x20 * n, 0, 0⟩
def TZ_TIME_PTn_CTRL_ERR (n : Nat) : Fld := ⟨0x540 + 0x20 * n, 30, 30⟩
def TZ_TIME_PTn_CTRL_FSTOP (n : Nat) : Fld := ⟨0x540 + 0x20 * n, 3, 3⟩
def TZ_TIME_PTn_CTRL_POL (n : Nat) : Fld := ⟨0x540 + 0x20 * n, 2, 2⟩
def TZ_TIME_PTn_PERIOD_FR (n : Nat) : Nat := 0x554 + 0x20 * n
def TZ_TIME_PTn_PERIOD_FR_FRAC (n : Nat) : Fld := ⟨0x554 + 0x20 * n, 31, 0⟩
def TZ_TIME_PTn_PERIOD_NS (n : Nat) : Nat := 0x550 + 0x20 * n
def TZ_TIME_PTn_PERIOD_NS_NS (n : Nat) : Fld := ⟨0x550 + 0x20 * n, 31, 0⟩
def TZ_TIME_PTn_START_NS (n : Nat) : Nat := 0x544 + 0x20 * n
def TZ_TIME_PTn_START_NS_NSEC (n : Nat) : Fld := ⟨0x544 + 0x20 * n, 31, 0⟩
def TZ_TIME_PTn_START_SHI (n : Nat) : Nat := 0x54C + 0x20 * n
def TZ_TIME_PTn_START_SHI_SEC_HI (n : Nat) : Fld := ⟨0x54C + 0x20 * n, 31, 0⟩
def TZ_TIME_PTn_START_SLO (n : Nat) : Nat := 0x548 + 0x20 * n
def TZ_TIME_PTn_START_SLO_SEC_LO (n : Nat) : Fld := ⟨0x548 + 0x20 * n, 31, 0⟩
def TZ_TIME_PTn_WIDTH (n : Nat) : Nat := 0x558 + 0x20 * n
def TZ_TIME_PTn_WIDTH_NS (n : Nat) : Fld := ⟨0x558 + 0x20 * n, 31, 0⟩
def TZ_TIME_RADIO_TOL : Nat := 0x430
def TZ_TIME_RADIO_TOL_TOL : Fld := ⟨0x430, 31, 0⟩
def TZ_TIME_RATE_HI : Nat := 0x41C
def TZ_TIME_RATE_HI_RATE_HI : Fld := ⟨0x41C, 7, 0⟩
def TZ_TIME_RATE_LO : Nat := 0x418
def TZ_TIME_RATE_LO_RATE_LO : Fld := ⟨0x418, 31, 0⟩
def TZ_TIME_STAB : Nat := 0x42C
def TZ_TIME_STAB_STAB : Fld := ⟨0x42C, 15, 0⟩
def TZ_TIME_STATUS : Nat := 0x410
def TZ_TIME_STATUS_FAULT : Fld := ⟨0x410, 5, 5⟩
def TZ_TIME_STATUS_HOPS : Fld := ⟨0x410, 31, 24⟩
def TZ_TIME_STATUS_RATE_SAT : Fld := ⟨0x410, 7, 7⟩
def TZ_TIME_STATUS_STATE : Fld := ⟨0x410, 2, 0⟩
def TZ_TIME_STATUS_STEPPED : Fld := ⟨0x410, 4, 4⟩
def TZ_TIME_STATUS_UPHOLD : Fld := ⟨0x410, 6, 6⟩
def TZ_TIME_STEP_FRAC : Nat := 0x438
def TZ_TIME_STEP_FRAC_FRAC : Fld := ⟨0x438, 31, 0⟩
def TZ_TIME_STEP_NS : Nat := 0x43C
def TZ_TIME_STEP_NS_NSEC : Fld := ⟨0x43C, 31, 0⟩
def TZ_TIME_STEP_SEC : Nat := 0x440
def TZ_TIME_STEP_SEC_HI : Nat := 0x44C
def TZ_TIME_STEP_SEC_HI_SEC_HI : Fld := ⟨0x44C, 31, 0⟩
def TZ_TIME_STEP_SEC_SEC : Fld := ⟨0x440, 31, 0⟩
def TZ_TIME_XBAD : Nat := 0x444
def TZ_TIME_XBAD_COUNT : Fld := ⟨0x444, 31, 0⟩
def TZ_TRC_BUF : Nat := 0x1804
def TZ_TRC_BUF_AUD : Fld := ⟨0x1804, 4, 0⟩
def TZ_TRC_CONFLICT : Nat := 0x180C
def TZ_TRC_CONFLICT_COUNT : Fld := ⟨0x180C, 31, 0⟩
def TZ_TRC_RNGr_CTRL (r : Nat) : Nat := 0x1900 + 0x20 * r
def TZ_TRC_RNGr_CTRL_CORES (r : Nat) : Fld := ⟨0x1900 + 0x20 * r, 27, 24⟩
def TZ_TRC_RNGr_CTRL_EN (r : Nat) : Fld := ⟨0x1900 + 0x20 * r, 31, 31⟩
def TZ_TRC_RNGr_CTRL_LOAD (r : Nat) : Fld := ⟨0x1900 + 0x20 * r, 30, 30⟩
def TZ_TRC_RNGr_CTRL_STORE (r : Nat) : Fld := ⟨0x1900 + 0x20 * r, 29, 29⟩
def TZ_TRC_RNGr_CTRL_VAL (r : Nat) : Fld := ⟨0x1900 + 0x20 * r, 28, 28⟩
def TZ_TRC_RNGr_HI_H (r : Nat) : Nat := 0x1910 + 0x20 * r
def TZ_TRC_RNGr_HI_H_HI_63_32_ (r : Nat) : Fld := ⟨0x1910 + 0x20 * r, 31, 0⟩
def TZ_TRC_RNGr_HI_L (r : Nat) : Nat := 0x190C + 0x20 * r
def TZ_TRC_RNGr_HI_L_HI_31_0_ (r : Nat) : Fld := ⟨0x190C + 0x20 * r, 31, 0⟩
def TZ_TRC_RNGr_LO_H (r : Nat) : Nat := 0x1908 + 0x20 * r
def TZ_TRC_RNGr_LO_H_LO_63_32_ (r : Nat) : Fld := ⟨0x1908 + 0x20 * r, 31, 0⟩
def TZ_TRC_RNGr_LO_L (r : Nat) : Nat := 0x1904 + 0x20 * r
def TZ_TRC_RNGr_LO_L_LO_31_0_ (r : Nat) : Fld := ⟨0x1904 + 0x20 * r, 31, 0⟩
def TZ_TRC_STAT : Nat := 0x1808
def TZ_TRC_STAT_CFG_ERR : Fld := ⟨0x1808, 0, 0⟩
def TZ_TRC_SYNC : Nat := 0x1800
def TZ_TRC_SYNC_CROSS_LAT : Fld := ⟨0x1800, 31, 24⟩
def TZ_TRC_SYNC_SYNC_EXP : Fld := ⟨0x1800, 12, 8⟩
def TZ_TRC_SYNC_SYNC_MS : Fld := ⟨0x1800, 7, 0⟩
def TZ_TRCc_BYTES (c : Nat) : Nat := 0x1854 + 0x20 * c
def TZ_TRCc_BYTES_COUNT (c : Nat) : Fld := ⟨0x1854 + 0x20 * c, 31, 0⟩
def TZ_TRCc_CTRL (c : Nat) : Nat := 0x1840 + 0x20 * c
def TZ_TRCc_CTRL_DATA_EN (c : Nat) : Fld := ⟨0x1840 + 0x20 * c, 29, 29⟩
def TZ_TRCc_CTRL_EN (c : Nat) : Fld := ⟨0x1840 + 0x20 * c, 31, 31⟩
def TZ_TRCc_CTRL_PART (c : Nat) : Fld := ⟨0x1840 + 0x20 * c, 22, 16⟩
def TZ_TRCc_CTRL_STALL_EN (c : Nat) : Fld := ⟨0x1840 + 0x20 * c, 30, 30⟩
def TZ_TRCc_CTRL_STALL_FREE (c : Nat) : Fld := ⟨0x1840 + 0x20 * c, 15, 8⟩
def TZ_TRCc_LOST_BYTES (c : Nat) : Nat := 0x184C + 0x20 * c
def TZ_TRCc_LOST_BYTES_COUNT (c : Nat) : Fld := ⟨0x184C + 0x20 * c, 31, 0⟩
def TZ_TRCc_LOST_PKT (c : Nat) : Nat := 0x1848 + 0x20 * c
def TZ_TRCc_LOST_PKT_COUNT (c : Nat) : Fld := ⟨0x1848 + 0x20 * c, 31, 0⟩
def TZ_TRCc_STALLCYC (c : Nat) : Nat := 0x1850 + 0x20 * c
def TZ_TRCc_STALLCYC_COUNT (c : Nat) : Fld := ⟨0x1850 + 0x20 * c, 31, 0⟩
def TZ_TRCc_STAT (c : Nat) : Nat := 0x1844 + 0x20 * c
def TZ_TRCc_STAT_FREE (c : Nat) : Fld := ⟨0x1844 + 0x20 * c, 18, 0⟩
def TZ_TRCc_STAT_LOSS_PEND (c : Nat) : Fld := ⟨0x1844 + 0x20 * c, 29, 29⟩
def TZ_TRCc_STAT_LP (c : Nat) : Fld := ⟨0x1844 + 0x20 * c, 31, 31⟩
def TZ_TRCc_STAT_STALLING (c : Nat) : Fld := ⟨0x1844 + 0x20 * c, 30, 30⟩
def TZ_TWIG_CFG_ADDR : Nat := 0x900
def TZ_TWIG_CFG_ADDR_GO : Fld := ⟨0x900, 31, 31⟩
def TZ_TWIG_CFG_ADDR_TWIG : Fld := ⟨0x900, 13, 6⟩
def TZ_TWIG_CFG_ADDR_WORD : Fld := ⟨0x900, 5, 0⟩
def TZ_TWIG_CFG_ADDR_WR : Fld := ⟨0x900, 30, 30⟩
def TZ_TWIG_CFG_DATA : Nat := 0x904
def TZ_TWIG_CFG_DATA_DATA : Fld := ⟨0x904, 31, 0⟩
def TZ_TWIG_CFG_STAT : Nat := 0x908
def TZ_TWIG_CFG_STAT_DONE : Fld := ⟨0x908, 0, 0⟩
def TZ_TWIG_CFG_STAT_ERR : Fld := ⟨0x908, 1, 1⟩
def TZ_VF_CTRL : Nat := 0x1020
def TZ_VF_CTRL_MAX_STEPS : Fld := ⟨0x1020, 7, 0⟩
def TZ_VF_CTRL_TMO : Fld := ⟨0x1020, 31, 16⟩
def TZ_VF_REQ : Nat := 0x1024
def TZ_VF_REQ_WORD : Fld := ⟨0x1024, 31, 0⟩
def TZ_VF_TMO_CNT : Nat := 0x1028
def TZ_VF_TMO_CNT_COUNT : Fld := ⟨0x1028, 31, 0⟩
def TZ_VFd_STAT (d : Nat) : Nat := 0x1040 + 0x4 * d
def TZ_VFd_STAT_APPLIED (d : Nat) : Fld := ⟨0x1040 + 0x4 * d, 15, 8⟩
def TZ_VFd_STAT_FAILED (d : Nat) : Fld := ⟨0x1040 + 0x4 * d, 30, 30⟩
def TZ_VFd_STAT_KIND (d : Nat) : Fld := ⟨0x1040 + 0x4 * d, 29, 28⟩
def TZ_VFd_STAT_PENDING (d : Nat) : Fld := ⟨0x1040 + 0x4 * d, 31, 31⟩
def TZ_VFd_STAT_TARGET (d : Nat) : Fld := ⟨0x1040 + 0x4 * d, 23, 16⟩
def TZ_WR_DEFER : Nat := 0x14
def TZ_WR_DEFER_COUNT : Fld := ⟨0x14, 31, 0⟩
def TZ_WUw_CTRL (w : Nat) : Nat := 0x1400 + 0x10 * w
def TZ_WUw_CTRL_ACT_R (w : Nat) : Fld := ⟨0x1400 + 0x10 * w, 14, 12⟩
def TZ_WUw_CTRL_ACT_T (w : Nat) : Fld := ⟨0x1400 + 0x10 * w, 11, 9⟩
def TZ_WUw_CTRL_CHAN (w : Nat) : Fld := ⟨0x1400 + 0x10 * w, 23, 18⟩
def TZ_WUw_CTRL_DEPTH (w : Nat) : Fld := ⟨0x1400 + 0x10 * w, 8, 6⟩
def TZ_WUw_CTRL_EN (w : Nat) : Fld := ⟨0x1400 + 0x10 * w, 31, 31⟩
def TZ_WUw_CTRL_GUARD (w : Nat) : Fld := ⟨0x1400 + 0x10 * w, 17, 15⟩
def TZ_WUw_CTRL_MODE (w : Nat) : Fld := ⟨0x1400 + 0x10 * w, 28, 26⟩
def TZ_WUw_HP (w : Nat) : Nat := 0x1408 + 0x10 * w
def TZ_WUw_HP_CLR_PERSIST (w : Nat) : Fld := ⟨0x1408 + 0x10 * w, 7, 0⟩
def TZ_WUw_HP_HYST (w : Nat) : Fld := ⟨0x1408 + 0x10 * w, 31, 16⟩
def TZ_WUw_HP_PERSIST (w : Nat) : Fld := ⟨0x1408 + 0x10 * w, 15, 8⟩
def TZ_WUw_STAT (w : Nat) : Nat := 0x140C + 0x10 * w
def TZ_WUw_STAT_TRIPPED (w : Nat) : Fld := ⟨0x140C + 0x10 * w, 31, 31⟩
def TZ_WUw_THR (w : Nat) : Nat := 0x1404 + 0x10 * w
def TZ_WUw_THR_LOWER (w : Nat) : Fld := ⟨0x1404 + 0x10 * w, 15, 0⟩
def TZ_WUw_THR_UPPER (w : Nat) : Fld := ⟨0x1404 + 0x10 * w, 31, 16⟩
def TZ_WUw_TRIPS (w : Nat) : Nat := 0x1600 + 0x4 * w
def TZ_WUw_TRIPS_COUNT (w : Nat) : Fld := ⟨0x1600 + 0x4 * w, 31, 0⟩

end Sys2Proof.Machine
end

