-- ==== Sys2Proof/Machine/RegTable.lean ====
section
/-! DEFINITION. Every register of both windows (R509): offset, index ranges, fields with access code and reset value
(Table 0.7, R10, R11) and the reset that scopes it, as the register tables of each chapter state them. -/

namespace Sys2Proof.Machine

/-- The access codes of Table 0.7 (R12). -/
inductive Access where
  | ro | rw | w1c | w1s | wo | rc | sl
  deriving DecidableEq, Repr

/-- The reset that scopes a register (R11, R481, R483). -/
inductive Scope where
  /-- L-AON. -/
  | lAon
  /-- The leaf's TIME reset. -/
  | lTime
  /-- L-SAP. -/
  | lSap
  /-- A leaf lane's L-LINK reset. -/
  | lane
  /-- The Heartwood reset. -/
  | heart
  /-- The crown's AON reset. -/
  | aon
  /-- The crown's CFG reset. -/
  | cfg
  /-- The crown's TIME reset. -/
  | cTime
  /-- BKD0, BKD1 or BKU, by the lane (R208). -/
  | bkLane
  /-- BKU. -/
  | bku
  /-- The TRE domain reset. -/
  | tre
  /-- The SCN domain reset. -/
  | scn
  deriving DecidableEq, Repr

/-- One field: bits, access code and reset value by the register's indices. -/
structure FieldDesc where
  hi : Nat
  lo : Nat
  acc : Access
  rst : Nat → Nat → Nat

/-- One register or indexed family: base offset, two strides with their counts, reset scope and fields. -/
structure RegDesc where
  name : String
  base : Nat
  s1 : Nat
  n1 : Nat
  s2 : Nat
  n2 : Nat
  scope : Scope
  fields : List FieldDesc

/-- A field whose reset value is the same for every index. -/
def F (hi lo : Nat) (acc : Access) (r : Nat) : FieldDesc := ⟨hi, lo, acc, fun _ _ => r⟩

/-- A field whose reset value depends on the index. -/
def Fi (hi lo : Nat) (acc : Access) (r : Nat → Nat → Nat) : FieldDesc := ⟨hi, lo, acc, r⟩

/-- A row of the register tables. -/
def R (name : String) (base s1 n1 s2 n2 : Nat) (scope : Scope) (fields : List FieldDesc) : RegDesc :=
  ⟨name, base, s1, n1, s2, n2, scope, fields⟩

def leafTable0 : List RegDesc := [
  R "TZ_ID" 0x0 0 1 0 1 .lAon [F 31 0 .ro 0x40200],
  R "HW_ID" 0xC000 0 1 0 1 .heart [F 31 0 .ro 0x10300],
  R "TZ_NODE" 0x4 0 1 0 1 .lAon [F 31 31 .ro 0, F 17 0 .ro 0],
  R "TZ_TIME_NOW0" 0x400 0 1 0 1 .lTime [F 31 0 .ro 0],
  R "TZ_TIME_NOW1" 0x404 0 1 0 1 .lTime [F 31 0 .ro 0],
  R "TZ_TIME_NOW2" 0x408 0 1 0 1 .lTime [F 31 0 .ro 0],
  R "TZ_TIME_NOW3" 0x40C 0 1 0 1 .lTime [F 31 0 .ro 0],
  R "TZ_TIME_STATUS" 0x410 0 1 0 1 .lTime [F 31 24 .ro 0xff, F 7 7 .ro 0, F 6 6 .ro 0, F 5 5 .ro 1, F 4 4 .ro 0, F 2 0 .ro 0],
  R "TZ_TIME_CTRL" 0x414 0 1 0 1 .lTime [F 16 16 .rw 0, F 15 8 .rw 0xc8, F 7 4 .rw 4, F 3 0 .rw 8],
  R "TZ_TIME_RATE_LO" 0x418 0 1 0 1 .lTime [F 31 0 .ro 0],
  R "TZ_TIME_RATE_HI" 0x41C 0 1 0 1 .lTime [F 7 0 .ro 0],
  R "TZ_TIME_OFFSET" 0x420 0 1 0 1 .lTime [F 31 0 .ro 0],
  R "TZ_TIME_DELAY" 0x424 0 1 0 1 .lTime [F 31 0 .ro 0],
  R "TZ_TIME_LAT" 0x428 0 1 0 1 .lTime [F 31 16 .rw 0, F 15 0 .rw 0],
  R "TZ_TIME_STAB" 0x42C 0 1 0 1 .lTime [F 15 0 .rw 0x3e8],
  R "TZ_TIME_RADIO_TOL" 0x430 0 1 0 1 .lTime [F 31 0 .rw 0x2710]]

def leafTable1 : List RegDesc := [
  R "TZ_TIME_BOUND" 0x434 0 1 0 1 .lTime [F 31 0 .ro 0xffffffff],
  R "TZ_TIME_STEP_FRAC" 0x438 0 1 0 1 .lTime [F 31 0 .ro 0],
  R "TZ_TIME_STEP_NS" 0x43C 0 1 0 1 .lTime [F 31 0 .ro 0],
  R "TZ_TIME_STEP_SEC" 0x440 0 1 0 1 .lTime [F 31 0 .ro 0],
  R "TZ_TIME_XBAD" 0x444 0 1 0 1 .lTime [F 31 0 .rc 0],
  R "TZ_TIME_HOLDS" 0x448 0 1 0 1 .lTime [F 31 0 .rc 0],
  R "TZ_TIME_STEP_SEC_HI" 0x44C 0 1 0 1 .lTime [F 31 0 .ro 0],
  R "TZ_TIME_CAP_CTRL" 0x480 0 1 0 1 .lTime [F 15 8 .rw 0, F 7 0 .rw 0],
  R "TZ_TIME_CAP_STAT" 0x484 0 1 0 1 .lTime [F 15 8 .w1c 0, F 7 0 .ro 0],
  R "TZ_TIME_CAP_DROP" 0x4A0 0 1 0 1 .lTime [F 31 0 .rc 0],
  R "TZ_TIME_CAP_LATm" 0x490 0x4 4 0 1 .lTime [F 31 16 .rw 0, F 15 0 .rw 0],
  R "TZ_TIME_CAPn_W0" 0x4C0 0x10 8 0 1 .lTime [F 31 8 .ro 0, F 3 2 .ro 0, F 1 0 .ro 0],
  R "TZ_TIME_CAPn_W1" 0x4C4 0x10 8 0 1 .lTime [F 31 0 .ro 0],
  R "TZ_TIME_CAPn_W2" 0x4C8 0x10 8 0 1 .lTime [F 31 0 .ro 0],
  R "TZ_TIME_CAPn_W3" 0x4CC 0x10 8 0 1 .lTime [F 31 0 .ro 0],
  R "TZ_TIME_PTn_CTRL" 0x540 0x20 4 0 1 .lTime [F 31 31 .ro 0, F 30 30 .w1c 0, F 3 3 .rw 0, F 2 2 .rw 0, F 1 1 .w1s 0, F 0 0 .rw 0]]

def leafTable2 : List RegDesc := [
  R "TZ_TIME_PTn_START_NS" 0x544 0x20 4 0 1 .lTime [F 31 0 .rw 0],
  R "TZ_TIME_PTn_START_SLO" 0x548 0x20 4 0 1 .lTime [F 31 0 .rw 0],
  R "TZ_TIME_PTn_START_SHI" 0x54C 0x20 4 0 1 .lTime [F 31 0 .rw 0],
  R "TZ_TIME_PTn_PERIOD_NS" 0x550 0x20 4 0 1 .lTime [F 31 0 .rw 0],
  R "TZ_TIME_PTn_PERIOD_FR" 0x554 0x20 4 0 1 .lTime [F 31 0 .rw 0],
  R "TZ_TIME_PTn_WIDTH" 0x558 0x20 4 0 1 .lTime [F 31 0 .rw 0],
  R "TZ_SAP_CTRL" 0x800 0 1 0 1 .lSap [F 7 4 .rw 1, F 1 1 .wo 0, F 0 0 .rw 1],
  R "TZ_SAP_STATUS" 0x804 0 1 0 1 .lSap [F 16 16 .w1c 0, F 12 12 .ro 0, F 11 9 .ro 0, F 8 0 .ro 0],
  R "TZ_SAP_CHAIN_DLY" 0x808 0 1 0 1 .lSap [F 31 24 .rw 0, F 20 12 .ro 0, F 8 0 .ro 0],
  R "TZ_SAP_CHAIN_ERRS" 0x80C 0 1 0 1 .lSap [F 31 0 .rc 0],
  R "TZ_SAP_MEM_ADDR" 0x810 0 1 0 1 .lSap [F 31 31 .rw 0, F 8 0 .rw 0],
  R "TZ_SAP_MEM_DATA" 0x814 0 1 0 1 .lSap [Fi 31 0 .rw (fun _ _ => 0x88)],
  R "TZ_SAP_GRPn_CTRL" 0x840 0x10 8 0 1 .lSap [Fi 31 31 .rw (fun i _ => if i = 0 then 1 else 0), Fi 23 0 .rw (fun i _ => if i = 0 then 1000 else 0)],
  R "TZ_SAP_GRPn_PHASE" 0x844 0x10 8 0 1 .lSap [F 23 0 .rw 0],
  R "TZ_SAP_GRPn_STAT" 0x848 0x10 8 0 1 .lSap [Fi 31 31 .ro (fun i _ => if i = 0 then 0 else 1)],
  R "TZ_SAP_GRPn_SKIP" 0x84C 0x10 8 0 1 .lSap [F 31 0 .rc 0]]

def leafTable3 : List RegDesc := [
  R "TZ_TWIG_CFG_ADDR" 0x900 0 1 0 1 .lSap [F 31 31 .w1s 0, F 30 30 .rw 0, F 13 6 .rw 0, F 5 0 .rw 0],
  R "TZ_TWIG_CFG_DATA" 0x904 0 1 0 1 .lSap [F 31 0 .rw 0],
  R "TZ_TWIG_CFG_STAT" 0x908 0 1 0 1 .lSap [F 1 1 .w1c 0, F 0 0 .w1c 0],
  R "TZ_MARKn_CTRL" 0xA00 0x8 8 0 1 .lSap [F 7 4 .rw 1, F 1 0 .rw 0],
  R "TZ_MARKn_DATA" 0xA04 0x8 8 0 1 .lSap [F 31 0 .wo 0],
  R "TZ_MARK_REJ" 0xA40 0 1 0 1 .lSap [F 31 0 .rc 0],
  R "TZ_MARK_DROP" 0xA44 0 1 0 1 .lSap [F 31 0 .rc 0],
  R "TZ_CNT_HI" 0xB00 0 1 0 1 .lSap [F 31 31 .ro 0, F 30 30 .ro 0, F 29 26 .ro 0, F 25 24 .ro 0, F 15 0 .ro 0],
  R "TZ_CNT_T0" 0xB04 0 1 0 1 .lSap [F 31 0 .ro 0],
  R "TZ_CNT_T1" 0xB08 0 1 0 1 .lSap [F 31 0 .ro 0],
  R "TZ_CNT_T2" 0xB0C 0 1 0 1 .lSap [F 31 0 .ro 0],
  R "TZ_CNT_T3" 0xB10 0 1 0 1 .lSap [F 31 0 .ro 0],
  R "TZ_CNT_LO" 0x4000 0x4 4096 0 1 .lSap [F 31 0 .ro 0],
  R "TZ_SEN_CTRL" 0x1000 0 1 0 1 .lAon [F 15 12 .rw 0xa, F 11 11 .rw 0, F 10 8 .rw 0],
  R "TZ_GRD_HOLDOFF" 0x1010 0 1 0 1 .lAon [F 15 0 .rw 0x64],
  R "TZ_GRD_FENCE_CLR" 0x1014 0 1 0 1 .lAon [F 7 0 .wo 0]]

def leafTable4 : List RegDesc := [
  R "TZ_GRD_INJECT" 0x1018 0 1 0 1 .lAon [F 31 31 .wo 0, F 4 0 .wo 0],
  R "TZ_GRD_SEQ" 0x101C 0 1 0 1 .lAon [F 31 0 .ro 0],
  R "TZ_GRD_PRIV" 0x1030 0 1 0 1 .lAon [F 1 0 .rw 0],
  R "TZ_GRD_REJ" 0x1034 0 1 0 1 .lAon [F 31 0 .rc 0],
  R "TZ_VF_CTRL" 0x1020 0 1 0 1 .lAon [F 31 16 .rw 0x3e8, F 7 0 .rw 4],
  R "TZ_VF_REQ" 0x1024 0 1 0 1 .lAon [F 31 0 .wo 0],
  R "TZ_VF_TMO_CNT" 0x1028 0 1 0 1 .lAon [F 31 0 .rc 0],
  R "TZ_VFd_STAT" 0x1040 0x4 8 0 1 .lAon [F 31 31 .ro 0, F 30 30 .ro 0, F 29 28 .ro 0, F 23 16 .ro 0, F 15 8 .ro 0],
  R "TZ_GRDg_CTRL" 0x1080 0x8 8 0 1 .lAon [F 8 8 .rw 0, F 7 7 .rw 0, F 6 6 .rw 1, Fi 5 3 .rw (fun i _ => i)],
  R "TZ_GRDg_STAT" 0x1084 0x8 8 0 1 .lAon [F 31 31 .ro 0, F 30 30 .ro 0, F 29 29 .ro 0, F 28 26 .ro 0, F 25 25 .ro 0, Fi 24 24 .ro (fun _ _ => 0), F 23 23 .ro 1],
  R "TZ_SENc_CFG" 0x1100 0x4 64 0 1 .lAon [F 4 4 .rw 0, Fi 3 0 .rw (fun i _ => if i < 56 then 7 else 2)],
  R "TZ_SENc_VAL" 0x1200 0x4 64 0 1 .lAon [F 31 31 .ro 0, F 15 0 .ro 0],
  R "TZ_WUw_CTRL" 0x1400 0x10 32 0 1 .lAon [F 31 31 .rw 0, F 28 26 .rw 0, F 23 18 .rw 0, F 17 15 .rw 0, F 14 12 .rw 0, F 11 9 .rw 0, F 8 6 .rw 0],
  R "TZ_WUw_THR" 0x1404 0x10 32 0 1 .lAon [F 31 16 .rw 0x7fff, F 15 0 .rw 0x8000],
  R "TZ_WUw_HP" 0x1408 0x10 32 0 1 .lAon [F 31 16 .rw 0, F 15 8 .rw 1, F 7 0 .rw 1],
  R "TZ_WUw_STAT" 0x140C 0x10 32 0 1 .lAon [F 31 31 .ro 0]]

def leafTable5 : List RegDesc := [
  R "TZ_WUw_TRIPS" 0x1600 0x4 32 0 1 .lAon [F 31 0 .rc 0],
  R "TZ_TRC_SYNC" 0x1800 0 1 0 1 .lSap [F 31 24 .rw 3, F 12 8 .rw 0xe, F 7 0 .rw 0xa],
  R "TZ_TRC_BUF" 0x1804 0 1 0 1 .lSap [F 4 0 .rw 0x10],
  R "TZ_TRC_STAT" 0x1808 0 1 0 1 .lSap [F 0 0 .w1c 0],
  R "TZ_TRC_CONFLICT" 0x180C 0 1 0 1 .lSap [F 31 0 .rc 0],
  R "TZ_TRCc_CTRL" 0x1840 0x20 4 0 1 .lSap [F 31 31 .rw 0, F 30 30 .rw 0, F 29 29 .rw 0, F 22 16 .rw 0xc, F 15 8 .rw 8],
  R "TZ_TRCc_STAT" 0x1844 0x20 4 0 1 .lSap [F 31 31 .ro 0, F 30 30 .ro 0, F 29 29 .ro 0, F 18 0 .ro 0],
  R "TZ_TRCc_LOST_PKT" 0x1848 0x20 4 0 1 .lSap [F 31 0 .rc 0],
  R "TZ_TRCc_LOST_BYTES" 0x184C 0x20 4 0 1 .lSap [F 31 0 .rc 0],
  R "TZ_TRCc_STALLCYC" 0x1850 0x20 4 0 1 .lSap [F 31 0 .rc 0],
  R "TZ_TRCc_BYTES" 0x1854 0x20 4 0 1 .lSap [F 31 0 .rc 0],
  R "TZ_TRC_RNGr_CTRL" 0x1900 0x20 8 0 1 .lSap [F 31 31 .rw 0, F 30 30 .rw 0, F 29 29 .rw 0, F 28 28 .rw 0, F 27 24 .rw 0],
  R "TZ_TRC_RNGr_LO_L" 0x1904 0x20 8 0 1 .lSap [F 31 0 .rw 0],
  R "TZ_TRC_RNGr_LO_H" 0x1908 0x20 8 0 1 .lSap [F 31 0 .rw 0],
  R "TZ_TRC_RNGr_HI_L" 0x190C 0x20 8 0 1 .lSap [F 31 0 .rw 0xffffffff],
  R "TZ_TRC_RNGr_HI_H" 0x1910 0x20 8 0 1 .lSap [F 31 0 .rw 0xffffffff]]

def leafTable6 : List RegDesc := [
  R "TZ_SAP_PK_CTRL" 0x2000 0 1 0 1 .lSap [F 31 16 .rw 0x64, F 15 8 .rw 0x40, F 0 0 .rw 1],
  R "TZ_SAP_PK_STAT" 0x2004 0 1 0 1 .lSap [F 0 0 .w1c 0],
  R "TZ_SAP_PK_ALIVE" 0x2008 0 1 0 1 .lSap [F 31 24 .ro 0, F 23 0 .ro 0],
  R "TZ_SAP_RX_CRCBAD" 0x2010 0 1 0 1 .lSap [F 31 0 .rc 0],
  R "TZ_SAP_RX_GAP" 0x2014 0 1 0 1 .lSap [F 31 0 .rc 0],
  R "TZ_SAP_RX_REPEAT" 0x2018 0 1 0 1 .lSap [F 31 0 .rc 0],
  R "TZ_SAP_RX_OTHER" 0x201C 0 1 0 1 .lSap [F 31 0 .rc 0],
  R "TZ_SAP_RX_RESTART" 0x2020 0 1 0 1 .lSap [F 31 0 .rc 0],
  R "TZ_SAPQk_CTRL" 0x2040 0x40 8 0 1 .lSap [Fi 31 31 .rw (fun i _ => [0, 0, 0, 1, 1, 1, 1, 0].getD i 0), F 30 30 .rw 0, Fi 29 24 .rw (fun i _ => [3, 3, 3, 63, 63, 63, 63, 63].getD i 0), Fi 23 16 .rw (fun i _ => [1, 1, 1, 8, 12, 4, 1, 1].getD i 0), Fi 15 8 .rw (fun i _ => [0, 0, 0, 10, 10, 10, 10, 10].getD i 0), Fi 7 0 .rw (fun i _ => [4, 2, 16, 16, 128, 32, 16, 32].getD i 0)],
  R "TZ_SAPQk_WEIGHT" 0x2044 0x40 8 0 1 .lSap [Fi 7 0 .rw (fun i _ => [0, 0, 0, 4, 8, 4, 2, 1].getD i 0)],
  R "TZ_SAPQk_STAT" 0x2048 0x40 8 0 1 .lSap [F 31 29 .ro 0, F 28 28 .ro 0, F 23 0 .ro 0],
  R "TZ_SAPQk_SEQ" 0x204C 0x40 8 0 1 .lSap [F 31 0 .ro 0],
  R "TZ_SAPQk_THIN" 0x2050 0x40 8 0 1 .lSap [F 31 0 .rc 0],
  R "TZ_SAPQk_DROP_REC" 0x2054 0x40 8 0 1 .lSap [F 31 0 .rc 0],
  R "TZ_SAPQk_DROP_BYTES" 0x2058 0x40 8 0 1 .lSap [F 31 0 .rc 0],
  R "TZ_SAPQk_MERGED" 0x205C 0x40 8 0 1 .lSap [F 31 0 .rc 0]]

def leafTable7 : List RegDesc := [
  R "TZ_SAPQk_RAWB" 0x2060 0x40 8 0 1 .lSap [F 31 0 .rc 0],
  R "TZ_SAPQk_OUTB" 0x2064 0x40 8 0 1 .lSap [F 31 0 .rc 0],
  R "TZ_SAPQk_FRAMES" 0x2068 0x40 8 0 1 .lSap [F 31 0 .rc 0],
  R "TZ_SAPQk_HB" 0x206C 0x40 8 0 1 .lSap [F 31 0 .rc 0],
  R "TZ_CRCu_CTRL" 0x3000 0x20 4 0 1 .lSap [F 8 8 .wo 0, F 6 4 .rw 4, Fi 1 0 .rw (fun i _ => i)],
  R "TZ_CRCu_DATA" 0x3004 0x20 4 0 1 .lSap [F 31 0 .wo 0],
  R "TZ_CRCu_RES_LO" 0x3008 0x20 4 0 1 .lSap [Fi 31 0 .ro (fun i _ => if i = 0 then 0xFFFF else 0)],
  R "TZ_CRCu_RES_HI" 0x300C 0x20 4 0 1 .lSap [F 31 0 .ro 0],
  R "TZ_CRCu_COUNT" 0x3010 0x20 4 0 1 .lSap [F 31 0 .ro 0],
  R "TZ_RLOG_HEAD" 0x2800 0 1 0 1 .lAon [F 31 0 .ro 0],
  R "TZ_RLOG_TAIL" 0x2804 0 1 0 1 .lAon [F 31 0 .ro 0],
  R "TZ_RLOG_MIRRORED" 0x2808 0 1 0 1 .lAon [F 31 0 .ro 0],
  R "TZ_RLOG_OPSEC_LO" 0x280C 0 1 0 1 .lAon [F 31 0 .ro 0],
  R "TZ_RLOG_OPSEC_HI" 0x2810 0 1 0 1 .lAon [F 31 8 .ro 0, F 7 0 .ro 0],
  R "TZ_RLOG_STAT" 0x2814 0 1 0 1 .lAon [F 31 31 .ro 0],
  R "TZ_RLOG_TYPE_EN" 0x2818 0 1 0 1 .lAon [F 31 0 .rw 0x1ffe]]

def leafTable8 : List RegDesc := [
  R "TZ_RLOG_PRIV" 0x281C 0 1 0 1 .lAon [F 3 0 .rw 1],
  R "TZ_RLOG_RD_SEQ" 0x2820 0 1 0 1 .lAon [F 31 0 .rw 0],
  R "TZ_RLOG_RD_STAT" 0x2824 0 1 0 1 .lAon [F 31 31 .ro 0, F 30 28 .ro 0, F 9 0 .ro 0],
  R "TZ_RLOG_LOST" 0x2828 0 1 0 1 .lAon [F 31 0 .rc 0],
  R "TZ_RLOG_CLR_REJ" 0x282C 0 1 0 1 .lAon [F 31 0 .rc 0],
  R "TZ_RLOG_WIN" 0x2C00 0x4 128 0 1 .lAon [F 31 0 .ro 0],
  R "TZ_BKk_CTRL" 0x3900 0x100 2 0 1 .lane [Fi 31 31 .rw (fun _ _ => 1), F 30 30 .wo 0, F 29 29 .rw 0, F 28 26 .rw 4, F 25 20 .rw 0x1e, F 15 8 .rw 0x32],
  R "TZ_BKk_DEG" 0x3904 0x100 2 0 1 .lane [F 31 24 .rw 0xa, F 23 16 .rw 4, F 15 8 .rw 4, F 7 0 .rw 1],
  R "TZ_BKk_TXFIR" 0x3908 0x100 2 0 1 .lane [F 31 24 .rw 0, F 23 16 .rw 0x50, F 15 8 .rw 0],
  R "TZ_BKk_RETRY" 0x390C 0x100 2 0 1 .lane [F 31 16 .rw 0x64],
  R "TZ_BKk_STAT" 0x3910 0x100 2 0 1 .lane [F 31 28 .ro 0, F 27 25 .ro 0, Fi 24 24 .ro (fun _ _ => 0), F 23 23 .ro 0, F 22 22 .ro 0, F 21 19 .ro 0],
  R "TZ_BKk_CAP_LOCAL" 0x3914 0x100 2 0 1 .lane [Fi 31 0 .ro (fun i _ => 0xF8F04200 + 0x10000 * i)],
  R "TZ_BKk_CAP_FAR" 0x3918 0x100 2 0 1 .lane [F 31 0 .ro 0],
  R "TZ_BKk_NODE_FAR" 0x391C 0x100 2 0 1 .lane [F 31 0 .ro 0xffffffff],
  R "TZ_BKk_LQ" 0x3920 0x100 2 0 1 .lane [F 31 16 .ro 0x8000, F 15 0 .ro 0xffff],
  R "TZ_BKk_ERLE" 0x3924 0x100 2 0 1 .lane [F 15 0 .ro 0]]

def leafTable9 : List RegDesc := [
  R "TZ_BKk_FEC_CW" 0x3928 0x100 2 0 1 .lane [F 31 0 .rc 0],
  R "TZ_BKk_FEC_CORR" 0x392C 0x100 2 0 1 .lane [F 31 0 .rc 0],
  R "TZ_BKk_FEC_UNCORR" 0x3930 0x100 2 0 1 .lane [F 31 0 .rc 0],
  R "TZ_BKk_DOWN_CNT" 0x3934 0x100 2 0 1 .lane [F 31 0 .rc 0],
  R "TZ_BKk_DEGRADE_CNT" 0x3938 0x100 2 0 1 .lane [F 31 0 .rc 0],
  R "TZ_BKk_TRAIN_CNT" 0x393C 0x100 2 0 1 .lane [F 31 0 .rc 0],
  R "TZ_BKk_TRAIN_FAIL" 0x3940 0x100 2 0 1 .lane [F 31 0 .rc 0],
  R "TZ_BKk_EC_CTRL" 0x3944 0x100 2 0 1 .lane [F 31 31 .rw 0, F 27 24 .rw 0xa, F 7 0 .rw 0x28],
  R "TZ_BKk_EC_CLUSc" 0x3960 0x100 2 0x4 8 .lane [F 31 31 .ro 0, F 16 0 .ro 0],
  R "TZ_BK_CFG" 0x3800 0 1 0 1 .lAon [Fi 0 0 .ro (fun _ _ => 0)],
  R "TZ_AUD_CTRL" 0x3400 0 1 0 1 .lAon [F 31 31 .rw 1, F 30 30 .w1s 0, F 7 0 .rw 0],
  R "TZ_AUD_STAT" 0x3404 0 1 0 1 .lAon [F 31 31 .ro 0, F 30 30 .ro 0, F 29 29 .ro 0, F 20 16 .ro 0],
  R "TZ_AUD_THRESH" 0x3408 0 1 0 1 .lAon [F 31 0 .ro 0],
  R "TZ_AUD_RETAIN" 0x340C 0 1 0 1 .lAon [F 31 0 .rw 0x3e8],
  R "TZ_AUD_WIN_LO_L" 0x3410 0 1 0 1 .lAon [F 31 0 .rw 0xffffffff],
  R "TZ_AUD_WIN_LO_H" 0x3414 0 1 0 1 .lAon [F 15 0 .rw 0xffff]]

def leafTable10 : List RegDesc := [
  R "TZ_AUD_WIN_HI_L" 0x3418 0 1 0 1 .lAon [F 31 0 .rw 0],
  R "TZ_AUD_WIN_HI_H" 0x341C 0 1 0 1 .lAon [F 15 0 .rw 0],
  R "TZ_AUD_RPL_L" 0x3420 0 1 0 1 .lAon [F 31 0 .rw 0],
  R "TZ_AUD_RPL_H" 0x3424 0 1 0 1 .lAon [F 15 0 .rw 0],
  R "TZ_AUD_RPL_LEN" 0x3428 0 1 0 1 .lAon [F 31 0 .rw 0],
  R "TZ_AUD_DESC" 0x3430 0 1 0 1 .lAon [F 31 0 .rc 0],
  R "TZ_AUD_SEL" 0x3434 0 1 0 1 .lAon [F 31 0 .rc 0],
  R "TZ_AUD_ABANDON" 0x3438 0 1 0 1 .lAon [F 31 0 .rc 0],
  R "TZ_AUD_REJECT" 0x343C 0 1 0 1 .lAon [F 31 0 .rc 0],
  R "TZ_AUD_REPLAYS" 0x3440 0 1 0 1 .lAon [F 31 0 .rc 0],
  R "TZ_AUD_SSEQ" 0x3444 0 1 0 1 .lAon [F 31 0 .ro 0],
  R "TZ_AUD_WRr_CTRL" 0x3500 0x20 16 0 1 .lAon [F 31 31 .rw 0, F 30 30 .ro 0, F 15 0 .rw 0x3c],
  R "TZ_AUD_WRr_ID" 0x3504 0x20 16 0 1 .lAon [F 31 0 .rw 0],
  R "TZ_AUD_WRr_BASE_L" 0x3508 0x20 16 0 1 .lAon [F 31 0 .rw 0],
  R "TZ_AUD_WRr_BASE_H" 0x350C 0x20 16 0 1 .lAon [F 15 0 .rw 0],
  R "TZ_AUD_WRr_LEN_L" 0x3510 0x20 16 0 1 .lAon [F 31 0 .rw 0]]

def leafTable11 : List RegDesc := [
  R "TZ_AUD_WRr_LEN_H" 0x3514 0x20 16 0 1 .lAon [F 7 0 .rw 0],
  R "TZ_AUD_WRr_EPOCH" 0x3518 0x20 16 0 1 .lAon [F 15 0 .ro 0],
  R "HW_STAT" 0xC004 0 1 0 1 .heart [Fi 31 30 .ro (fun _ _ => 0), F 29 29 .ro 0, F 28 28 .ro 1, F 27 27 .ro 0, F 23 16 .ro 0],
  R "HW_OPSEC_LO" 0xC008 0 1 0 1 .heart [F 31 0 .ro 0],
  R "HW_OPSEC_HI" 0xC00C 0 1 0 1 .heart [F 31 8 .ro 0, F 7 0 .ro 0],
  R "HW_INTERVAL" 0xC010 0 1 0 1 .heart [F 31 0 .ro 0],
  R "HW_HSEQ" 0xC014 0 1 0 1 .heart [F 31 0 .ro 0],
  R "HW_CMD_CTR" 0xC018 0 1 0 1 .heart [Fi 31 0 .ro (fun _ _ => 0)],
  R "HW_TENANTS" 0xC01C 0 1 0 1 .heart [F 12 0 .ro 0],
  R "HW_MBX_CTRL" 0xC040 0 1 0 1 .heart [F 31 31 .w1s 0, F 30 30 .ro 0, F 29 27 .ro 0, F 9 0 .ro 0],
  R "HW_CAL_PE" 0xC060 0 1 0 1 .heart [F 31 0 .sl 0],
  R "HW_VRANGE" 0xC064 0 1 0 1 .heart [F 31 16 .sl 0xffff, F 15 0 .sl 0],
  R "HW_IRANGE" 0xC068 0 1 0 1 .heart [F 31 16 .sl 0xffff, F 15 0 .sl 0],
  R "HW_GAP" 0xC06C 0 1 0 1 .heart [F 15 0 .sl 0x64],
  R "HW_ENG_Wn" 0xC800 0x4 64 0 1 .heart [F 31 0 .sl 0x1010101],
  R "HW_MBX_CMD" 0xC100 0x4 128 0 1 .heart [F 31 0 .rw 0]]

def leafTable12 : List RegDesc := [
  R "HW_MBX_RSP" 0xC400 0x4 128 0 1 .heart [F 31 0 .ro 0],
  R "TZ_BOOT_STAT" 0x10 0 1 0 1 .lAon [F 31 31 .ro 0, F 30 30 .ro 0, F 29 29 .ro 0, F 28 28 .ro 0, F 15 0 .ro 0],
  R "TZ_JOB_STAT" 0x20 0 1 0 1 .lAon [F 31 31 .w1c 0, F 30 30 .w1c 0, F 5 3 .ro 0, F 2 0 .ro 0],
  R "TZ_JOB_ID" 0x24 0 1 0 1 .lAon [F 31 0 .ro 0],
  R "TZ_JOB_Pn" 0x28 0x4 4 0 1 .lAon [F 31 0 .ro 0],
  R "TZ_JOB_T0" 0x38 0 1 0 1 .lAon [F 31 0 .ro 0],
  R "TZ_JOB_T1" 0x3C 0 1 0 1 .lAon [F 31 0 .ro 0],
  R "TZ_JOB_T2" 0x40 0 1 0 1 .lAon [F 31 0 .ro 0],
  R "TZ_JOB_T3" 0x44 0 1 0 1 .lAon [F 31 0 .ro 0],
  R "TZ_WR_DEFER" 0x14 0 1 0 1 .lAon [F 31 0 .rc 0],
  R "TZ_IRQ_SRC" 0x50 0 1 0 1 .lAon [F 7 7 .ro 0, F 6 6 .ro 0, F 5 5 .ro 0, F 4 4 .ro 0, F 3 3 .ro 0, F 2 2 .ro 0, F 1 1 .ro 1, F 0 0 .ro 0],
  R "TZ_IRQ_ROUTE" 0x54 0 1 0 1 .lAon [F 31 0 .rw 1],
  R "TZ_CLK_ALIVE" 0x3C00 0 1 0 1 .lAon [F 8 0 .ro 0],
  R "TZ_CLK_FAIL" 0x3C04 0 1 0 1 .lAon [F 8 0 .w1c 0],
  R "TZ_CLK_FAILS" 0x3C08 0 1 0 1 .lAon [F 31 0 .rc 0],
  R "TZ_RST_CAUSE" 0x3C0C 0 1 0 1 .lAon [F 3 0 .w1c 0]]

def leafTable13 : List RegDesc := [
  R "TZ_FEATw" 0x60 0x4 4 0 1 .lAon [Fi 31 0 .ro (fun i _ => if i = 0 then 0x3FFF else 0)]]

/-- Every register of the leaf window: Tables 0.4, 1.4, 2.7, 3.8, 4.11, 5.4, 6.11, 6.12, 7.5, 8.7, 8.8, 13.13, 15.6, 16.12, 17.7, 18.6, 19.8, 20.8 (R509). -/
def leafTable : List RegDesc :=
  leafTable0 ++ leafTable1 ++ leafTable2 ++ leafTable3 ++ leafTable4 ++ leafTable5 ++ leafTable6 ++ leafTable7 ++ leafTable8 ++ leafTable9 ++ leafTable10 ++ leafTable11 ++ leafTable12 ++ leafTable13

def crownTable0 : List RegDesc := [
  R "BZ_ID" 0x0 0 1 0 1 .aon [F 31 0 .ro 0x40200],
  R "BZ_STRAP" 0x4 0 1 0 1 .aon [Fi 1 0 .ro (fun _ _ => 0)],
  R "BZ_NODE" 0x8 0 1 0 1 .aon [F 31 0 .ro 0],
  R "BZ_NODE_BAD" 0xC 0 1 0 1 .aon [F 31 0 .rc 0],
  R "BZ_TIME_XPER" 0x10100 0 1 0 1 .cTime [F 2 0 .rw 3],
  R "BZ_TIME_SRC" 0x10104 0 1 0 1 .cTime [F 6 0 .ro 0x7f],
  R "BZ_TIME_PPS_TOL" 0x10108 0 1 0 1 .cTime [F 31 0 .rw 0x3e8],
  R "BZ_TIME_PPS_DIFF" 0x1010C 0 1 0 1 .cTime [F 31 0 .ro 0],
  R "BZ_TIME_TODBAD" 0x10110 0 1 0 1 .cTime [F 31 0 .rc 0],
  R "BZ_TIME_SETw" 0x10120 0x4 4 0 1 .cTime [F 31 0 .rw 0],
  R "BZ_TIME_SET_GO" 0x10130 0 1 0 1 .cTime [F 0 0 .wo 0],
  R "BZ_AGE_CTRL" 0xF8000 0 1 0 1 .cfg [F 31 31 .rw 1, F 15 0 .rw 0x18],
  R "BZ_AGE_HORIZON" 0xF8004 0 1 0 1 .cfg [F 31 0 .rw 0x870],
  R "BZ_AGE_EXP" 0xF8008 0 1 0 1 .cfg [F 7 0 .rw 0x40],
  R "BZ_AGE_GB" 0xF800C 0 1 0 1 .cfg [F 31 16 .rw 0x50, F 15 0 .rw 0x3c],
  R "BZ_AGE_RELIEF" 0xF8010 0 1 0 1 .cfg [F 31 16 .rw 0xa, F 7 0 .rw 4]]

def crownTable1 : List RegDesc := [
  R "BZ_AGE_RETIRED" 0xF8014 0 1 0 1 .cfg [F 31 0 .rc 0],
  R "BZ_AGE_REBASE" 0xF8018 0 1 0 1 .cfg [F 31 0 .rc 0],
  R "BZ_SAPRXk_STAT" 0x30000 0x40 72 0 1 .cfg [F 7 0 .ro 0],
  R "BZ_SAPRXk_CRCBAD" 0x30004 0x40 72 0 1 .cfg [F 31 0 .rc 0],
  R "BZ_SAPRXk_OTHER" 0x30008 0x40 72 0 1 .cfg [F 31 0 .rc 0],
  R "BZ_SAPRXk_REPEAT" 0x3000C 0x40 72 0 1 .cfg [F 31 0 .rc 0],
  R "BZ_SAPRXk_GAP" 0x30010 0x40 72 0 1 .cfg [F 31 0 .rc 0],
  R "BZ_SAPRXk_RESTART" 0x30014 0x40 72 0 1 .cfg [F 31 0 .rc 0],
  R "BZ_SAPRXk_SRCBAD" 0x30018 0x40 72 0 1 .cfg [F 31 0 .rc 0],
  R "BZ_SAPRXk_FRAMES" 0x3001C 0x40 72 0 1 .cfg [F 31 0 .rc 0],
  R "BZ_SAP_DEAD_US" 0x32000 0 1 0 1 .cfg [F 15 0 .rw 0x190],
  R "BZ_RLOG_HEAD" 0x100000 0 1 0 1 .cfg [F 31 0 .ro 0],
  R "BZ_RLOG_TAIL" 0x100004 0 1 0 1 .cfg [F 31 0 .ro 0],
  R "BZ_RLOG_CTRL" 0x100008 0 1 0 1 .cfg [F 31 16 .rw 0xe10],
  R "BZ_RLOG_TKT_REJ" 0x10000C 0 1 0 1 .cfg [F 31 0 .rc 0],
  R "BZ_RLOG_RST_PORT" 0x100010 0 1 0 1 .cfg [F 31 31 .wo 0, F 5 0 .wo 0]]

def crownTable2 : List RegDesc := [
  R "BZ_RLOG_RD_SEQ" 0x100020 0 1 0 1 .cfg [F 31 0 .rw 0],
  R "BZ_RLOG_RD_STAT" 0x100024 0 1 0 1 .cfg [],
  R "BZ_RLOG_MIRk_ACK" 0x100100 0x10 66 0 1 .cfg [F 31 0 .ro 0],
  R "BZ_RLOG_MIRk_STAT" 0x100104 0x10 66 0 1 .cfg [F 15 8 .ro 0],
  R "BZ_RLOG_MIRk_LOST" 0x100108 0x10 66 0 1 .cfg [F 31 0 .rc 0],
  R "BZ_RLOG_WIN" 0x101000 0x4 128 0 1 .cfg [F 31 0 .ro 0],
  R "BZ_BK_GATE" 0x7F000 0 1 0 1 .bku [F 15 0 .rw 0xc],
  R "BZ_BK_ENG" 0x7F004 0 1 0 1 .bku [F 15 0 .ro 0],
  R "BZ_RED_CTRL" 0x20000 0 1 0 1 .cfg [F 31 31 .rw 1, F 30 30 .rw 1, F 29 29 .rw 1, F 23 16 .rw 0x5a, F 15 8 .rw 0x32, F 7 0 .rw 0x14],
  R "BZ_RED_TIMING" 0x20004 0 1 0 1 .cfg [F 31 16 .rw 0x32, F 15 0 .rw 0x14],
  R "BZ_RED_LOAD" 0x20008 0 1 0 1 .cfg [F 31 24 .ro 0, F 23 16 .ro 0, F 15 8 .ro 0],
  R "BZ_RED_PLANS" 0x2000C 0 1 0 1 .cfg [F 8 0 .ro 0],
  R "BZ_RED_LATE" 0x20010 0 1 0 1 .cfg [F 31 0 .rc 0],
  R "BZ_RED_MISS" 0x20014 0 1 0 1 .cfg [F 31 0 .rc 0],
  R "BZ_RED_SHIFTS" 0x20018 0 1 0 1 .cfg [F 31 0 .rc 0],
  R "BZ_PLANp_STAT" 0x21000 0x10 256 0 1 .cfg [F 31 31 .ro 0, F 30 29 .ro 0, F 28 26 .ro 0, F 15 0 .ro 0]]

def crownTable3 : List RegDesc := [
  R "BZ_PLANp_WIDX" 0x21004 0x10 256 0 1 .cfg [F 31 0 .ro 0],
  R "BZ_PLANp_OUT" 0x21008 0x10 256 0 1 .cfg [F 31 0 .rc 0],
  R "BZ_PLANp_COST" 0x2100C 0x10 256 0 1 .cfg [F 31 0 .ro 0],
  R "BZ_REDCHc_LOAD" 0x22000 0x10 64 0 1 .cfg [F 31 24 .ro 0, F 23 16 .ro 0, F 15 8 .ro 0],
  R "BZ_REDCHc_MODE" 0x22004 0x10 64 0 1 .cfg [F 31 16 .ro 0, F 15 0 .ro 0],
  R "BZ_FLEX_CTRL" 0x22400 0 1 0 1 .cfg [F 31 31 .w1s 0, F 30 30 .w1s 0],
  R "BZ_FLEX_TARGET" 0x22404 0 1 0 1 .cfg [F 31 0 .rw 0xffffffff],
  R "BZ_FLEX_STAT" 0x22408 0 1 0 1 .cfg [F 31 31 .ro 0, F 30 30 .ro 0, F 29 29 .ro 0],
  R "BZ_FLEX_CIRCx" 0x2240C 0x4 2 0 1 .cfg [F 31 0 .ro 0],
  R "BZ_FLEX_REQS" 0x22414 0 1 0 1 .cfg [F 31 0 .rc 0],
  R "BZ_FLEX_DENY" 0x22418 0 1 0 1 .cfg [F 31 0 .rc 0],
  R "BZ_FLEX_TMO" 0x2241C 0 1 0 1 .cfg [F 31 0 .rc 0],
  R "BZ_ING_DROPk" 0x23000 0x4 72 0 1 .cfg [F 31 0 .rc 0],
  R "BZ_SCHl_CTRL" 0x24000 0x40 72 0 1 .cfg [F 31 31 .rw 0, F 30 30 .rw 0, F 5 0 .rw 0],
  R "BZ_SCHl_GATE_CTRL" 0x24004 0x40 72 0 1 .cfg [F 31 31 .w1s 0, F 30 30 .w1c 0, F 29 29 .ro 0, F 28 28 .ro 0, F 8 0 .rw 1],
  R "BZ_SCHl_TAKE_NS" 0x24008 0x40 72 0 1 .cfg [F 31 0 .rw 0]]

def crownTable4 : List RegDesc := [
  R "BZ_SCHl_TAKE_SLO" 0x2400C 0x40 72 0 1 .cfg [F 31 0 .rw 0],
  R "BZ_SCHl_TAKE_SHI" 0x24010 0x40 72 0 1 .cfg [F 31 0 .rw 0],
  R "BZ_SCHl_GATE_ADDR" 0x24014 0x40 72 0 1 .cfg [F 31 31 .rw 0, F 7 0 .rw 0],
  R "BZ_SCHl_GATE_DATA" 0x24018 0x40 72 0 1 .cfg [F 31 0 .rw 0],
  R "BZ_SCHl_CYCLE" 0x2401C 0x40 72 0 1 .cfg [F 31 0 .ro 0],
  R "BZ_SCHl_Qq_SHAPE" 0x26000 0x200 72 0x40 8 .cfg [F 31 31 .rw 0, F 23 0 .rw 0],
  R "BZ_SCHl_Qq_BURST" 0x26004 0x200 72 0x40 8 .cfg [Fi 31 24 .rw (fun _ j => [0, 0, 0, 4, 8, 4, 2, 1].getD j 0), F 23 0 .rw 0x2000],
  R "BZ_SCHl_Qq_TOKENS" 0x26008 0x200 72 0x40 8 .cfg [F 31 0 .ro 0],
  R "BZ_SCHl_Qq_DEPTH" 0x2600C 0x200 72 0x40 8 .cfg [F 31 0 .ro 0],
  R "BZ_SCHl_Qq_DELAY" 0x26010 0x200 72 0x40 8 .cfg [F 31 0 .ro 0],
  R "BZ_SCHl_Qq_MAXDEP" 0x26014 0x200 72 0x40 8 .cfg [F 31 0 .rc 0],
  R "BZ_SCHl_Qq_MAXDLY" 0x26018 0x200 72 0x40 8 .cfg [F 31 0 .rc 0],
  R "BZ_SCHl_Qq_NSAMP" 0x2601C 0x200 72 0x40 8 .cfg [F 31 0 .ro 0],
  R "BZ_SCHl_Qq_SUMDEP_LO" 0x26020 0x200 72 0x40 8 .cfg [F 31 0 .ro 0],
  R "BZ_SCHl_Qq_SUMDEP_HI" 0x26024 0x200 72 0x40 8 .cfg [F 31 0 .ro 0],
  R "BZ_SCHl_Qq_SUMDLY_LO" 0x26028 0x200 72 0x40 8 .cfg [F 31 0 .ro 0]]

def crownTable5 : List RegDesc := [
  R "BZ_SCHl_Qq_SUMDLY_HI" 0x2602C 0x200 72 0x40 8 .cfg [F 31 0 .ro 0],
  R "BZ_SCHl_Qq_DROP" 0x26030 0x200 72 0x40 8 .cfg [F 31 0 .rc 0],
  R "BZ_SCHl_Qq_FRAMES" 0x26034 0x200 72 0x40 8 .cfg [F 31 0 .rc 0],
  R "BZ_SCHl_Qq_LEVEL" 0x26038 0x200 72 0x40 8 .cfg [F 2 0 .ro 0],
  R "BZ_ENG_CTRL" 0x80000 0 1 0 1 .cfg [F 31 31 .rw 1],
  R "BZ_ENG_STAT" 0x80004 0 1 0 1 .cfg [F 31 31 .ro 0, F 30 30 .ro 0, F 9 0 .ro 0x200],
  R "BZ_ENG_FAULTS" 0x80008 0 1 0 1 .cfg [F 31 0 .rc 0],
  R "BZ_ENG_FLT_LAST" 0x8000C 0 1 0 1 .cfg [F 31 24 .ro 0, F 23 21 .ro 0, F 9 0 .ro 0x3ff],
  R "BZ_ENG_CE" 0x80010 0 1 0 1 .cfg [F 31 0 .rc 0],
  R "BZ_CMAP_CMD" 0x80100 0 1 0 1 .aon [F 31 31 .w1s 0, F 30 29 .rw 0, F 25 24 .rw 0, F 23 16 .rw 0, F 6 0 .rw 0],
  R "BZ_CMAP_STAT" 0x80104 0 1 0 1 .aon [F 31 31 .ro 0, F 30 30 .w1c 0, F 29 27 .ro 0],
  R "BZ_CMAP_DISAGREE" 0x80108 0 1 0 1 .aon [F 31 0 .ro 0],
  R "BZ_CMAPq_l" 0x80200 0x200 4 0x4 128 .aon [F 31 31 .ro 1, Fi 7 0 .ro (fun _ j => j)],
  R "BZ_CBADq_w" 0x81000 0x20 4 0x4 5 .aon [F 31 0 .ro 0],
  R "BZ_EQk_CTRL" 0x82000 0x80 8 0 1 .cfg [F 31 31 .rw 0, F 30 30 .wo 0, Fi 29 28 .rw (fun i _ => [0, 1, 2, 2, 2, 2, 3, 3].getD i 0), F 19 16 .rw 6],
  R "BZ_EQk_BASE" 0x82004 0x80 8 0 1 .cfg [F 27 0 .rw 0]]

def crownTable6 : List RegDesc := [
  R "BZ_EQk_HEAD" 0x82008 0x80 8 0 1 .cfg [F 15 0 .ro 0],
  R "BZ_EQk_TAIL" 0x8200C 0x80 8 0 1 .cfg [F 15 0 .rw 0],
  R "BZ_EQk_CPL_BASE" 0x82010 0x80 8 0 1 .cfg [F 27 0 .rw 0],
  R "BZ_EQk_CPL_HEAD" 0x82014 0x80 8 0 1 .cfg [F 15 0 .rw 0],
  R "BZ_EQk_CPL_TAIL" 0x82018 0x80 8 0 1 .cfg [F 15 0 .ro 0],
  R "BZ_EQk_RLO" 0x8201C 0x80 8 0 1 .cfg [F 27 0 .rw 0],
  R "BZ_EQk_RHI" 0x82020 0x80 8 0 1 .cfg [F 27 0 .rw 0],
  R "BZ_EQk_WLO" 0x82024 0x80 8 0 1 .cfg [F 27 0 .rw 0],
  R "BZ_EQk_WHI" 0x82028 0x80 8 0 1 .cfg [F 27 0 .rw 0],
  R "BZ_EQk_STAT" 0x8202C 0x80 8 0 1 .cfg [F 31 31 .ro 0, F 30 30 .ro 0, F 29 29 .ro 0, F 28 28 .w1c 0],
  R "BZ_EQk_DONE" 0x82030 0x80 8 0 1 .cfg [F 31 0 .rc 0],
  R "BZ_EQk_RESTART" 0x82034 0x80 8 0 1 .cfg [F 31 0 .rc 0],
  R "BZ_MCc_STAT" 0x120000 0x100 8 0 1 .cfg [F 31 30 .ro 0],
  R "BZ_MCc_CE" 0x120004 0x100 8 0 1 .cfg [F 31 0 .rc 0],
  R "BZ_MCc_UE" 0x120008 0x100 8 0 1 .cfg [F 31 0 .rc 0],
  R "BZ_MCc_RDB" 0x12000C 0x100 8 0 1 .cfg [F 31 0 .rc 0]]

def crownTable7 : List RegDesc := [
  R "BZ_MCc_WRB" 0x120010 0x100 8 0 1 .cfg [F 31 0 .rc 0],
  R "BZ_MC_SCRUB" 0x121000 0 1 0 1 .cfg [F 15 0 .rw 0x18],
  R "BZ_TRE_CTRL" 0xC0000 0 1 0 1 .cfg [F 31 31 .rw 1],
  R "BZ_TRE_STAT" 0xC0004 0 1 0 1 .cfg [F 31 31 .ro 0, F 6 0 .ro 0x40],
  R "BZ_TRE_CE" 0xC0008 0 1 0 1 .cfg [F 31 0 .rc 0],
  R "BZ_TRE_UE" 0xC000C 0 1 0 1 .cfg [F 31 0 .rc 0],
  R "BZ_TRE_FAULTS" 0xC0010 0 1 0 1 .cfg [F 31 0 .rc 0],
  R "BZ_ENSe_CMD" 0xC0100 0x20 16 0 1 .cfg [F 31 31 .w1s 0, F 30 29 .rw 0, F 28 28 .rw 0, F 14 8 .rw 0, F 5 0 .rw 0],
  R "BZ_ENSe_IMG" 0xC0104 0x20 16 0 1 .cfg [F 27 0 .rw 0],
  R "BZ_ENSe_STAT" 0xC0108 0x20 16 0 1 .tre [F 31 29 .ro 0, F 28 28 .ro 0, F 27 24 .ro 0, F 4 0 .ro 0],
  R "BZ_ENSe_INFO" 0xC010C 0x20 16 0 1 .tre [F 31 19 .ro 0, F 16 0 .ro 0],
  R "BZ_ENSe_TAG_LO" 0xC0110 0x20 16 0 1 .cfg [F 31 0 .ro 0],
  R "BZ_ENSe_TAG_HI" 0xC0114 0x20 16 0 1 .cfg [F 31 0 .ro 0],
  R "BZ_ENSe_GEN" 0xC0118 0x20 16 0 1 .tre [F 31 0 .ro 0],
  R "BZ_TQk_CTRL" 0xC1000 0x40 4 0 1 .cfg [F 31 31 .rw 0, F 30 30 .wo 0, Fi 29 28 .rw (fun i _ => [1, 0, 3, 3].getD i 0), F 19 16 .rw 6],
  R "BZ_TQk_BASE" 0xC1004 0x40 4 0 1 .cfg [F 27 0 .rw 0]]

def crownTable8 : List RegDesc := [
  R "BZ_TQk_HEAD" 0xC1008 0x40 4 0 1 .cfg [F 15 0 .ro 0],
  R "BZ_TQk_TAIL" 0xC100C 0x40 4 0 1 .cfg [F 15 0 .rw 0],
  R "BZ_TQk_CPL_BASE" 0xC1010 0x40 4 0 1 .cfg [F 27 0 .rw 0],
  R "BZ_TQk_CPL_HEAD" 0xC1014 0x40 4 0 1 .cfg [F 15 0 .rw 0],
  R "BZ_TQk_CPL_TAIL" 0xC1018 0x40 4 0 1 .cfg [F 15 0 .ro 0],
  R "BZ_TQk_RLO" 0xC101C 0x40 4 0 1 .cfg [F 27 0 .rw 0],
  R "BZ_TQk_RHI" 0xC1020 0x40 4 0 1 .cfg [F 27 0 .rw 0],
  R "BZ_TQk_WLO" 0xC1024 0x40 4 0 1 .cfg [F 27 0 .rw 0],
  R "BZ_TQk_WHI" 0xC1028 0x40 4 0 1 .cfg [F 27 0 .rw 0],
  R "BZ_TQk_STAT" 0xC102C 0x40 4 0 1 .cfg [F 31 31 .ro 0, F 30 30 .ro 0, F 29 29 .ro 0, F 28 28 .w1c 0],
  R "BZ_TQk_DONE" 0xC1030 0x40 4 0 1 .cfg [F 31 0 .rc 0],
  R "BZ_TQk_RESTART" 0xC1034 0x40 4 0 1 .cfg [F 31 0 .rc 0],
  R "BZ_FS_CTRL" 0xC8000 0 1 0 1 .cfg [F 31 31 .rw 1],
  R "BZ_FSs_STAT" 0xC8100 0x20 32 0 1 .cfg [F 31 31 .ro 0, F 15 0 .ro 0],
  R "BZ_FSs_VEC" 0xC8104 0x20 32 0 1 .cfg [F 31 0 .rc 0],
  R "BZ_FSs_PART" 0xC8108 0x20 32 0 1 .cfg [F 31 0 .rc 0]]

def crownTable9 : List RegDesc := [
  R "BZ_FSs_LATE" 0xC810C 0x20 32 0 1 .cfg [F 31 0 .rc 0],
  R "BZ_FSs_RBASE" 0xC8110 0x20 32 0 1 .cfg [F 31 28 .rw 2, F 27 0 .rw 0],
  R "BZ_FSs_WIDX" 0xC8114 0x20 32 0 1 .cfg [F 31 0 .ro 0],
  R "BZ_WIN_CTRL" 0xD0000 0 1 0 1 .scn [F 31 31 .rw 1, F 14 8 .rw 0xa],
  R "BZ_WIN_STAT" 0xD0004 0 1 0 1 .scn [F 31 31 .ro 0, F 8 0 .ro 0],
  R "BZ_WIN_LOAD" 0xD0008 0 1 0 1 .scn [F 31 24 .ro 0],
  R "BZ_WIN_CMD" 0xD000C 0 1 0 1 .scn [F 31 31 .w1s 0, F 30 29 .rw 0, F 7 0 .rw 0],
  R "BZ_HS_BASE" 0xD0010 0 1 0 1 .scn [F 27 0 .rw 0],
  R "BZ_HS_PAGES" 0xD0014 0 1 0 1 .scn [F 26 0 .rw 0],
  R "BZ_HS_FREE" 0xD0018 0 1 0 1 .scn [F 26 0 .ro 0],
  R "BZ_HS_DIR" 0xD001C 0 1 0 1 .scn [F 27 0 .rw 0],
  R "BZ_BURL_SEQ" 0xD0020 0 1 0 1 .aon [F 31 0 .ro 0],
  R "BZ_BURL_OUT" 0xD0024 0 1 0 1 .scn [F 31 0 .rc 0],
  R "BZ_BURL_SUPP" 0xD0028 0 1 0 1 .scn [F 31 0 .rc 0],
  R "BZ_WPp_STAT" 0xD1000 0x20 256 0 1 .scn [F 31 31 .ro 0, F 30 28 .ro 0, F 27 27 .ro 0, F 15 0 .ro 0],
  R "BZ_WPp_WIDX" 0xD1004 0x20 256 0 1 .scn [F 31 0 .ro 0]]

def crownTable10 : List RegDesc := [
  R "BZ_WPp_ALARM" 0xD1008 0x20 256 0 1 .scn [F 31 0 .ro 0],
  R "BZ_WPp_ONSET" 0xD100C 0x20 256 0 1 .scn [F 31 0 .rc 0],
  R "BZ_WPp_SKIP" 0xD1010 0x20 256 0 1 .scn [F 31 0 .rc 0],
  R "BZ_WPp_SUPP" 0xD1014 0x20 256 0 1 .scn [F 31 0 .rc 0],
  R "BZ_WPp_SHORT" 0xD1018 0x20 256 0 1 .scn [F 31 0 .rc 0],
  R "BZ_WPp_REFIT" 0xD101C 0x20 256 0 1 .scn [F 31 16 .rc 0, F 15 0 .rc 0],
  R "BZ_AUD_CTRL" 0xE0000 0 1 0 1 .cfg [F 31 31 .rw 1, F 30 24 .rw 0x19, F 23 16 .rw 0x18, F 15 8 .rw 0x10, F 7 0 .rw 0x18],
  R "BZ_AUD_THRESH" 0xE0004 0 1 0 1 .cfg [F 31 0 .rw 0x4000000],
  R "BZ_AUD_BTHRESH" 0xE0008 0 1 0 1 .cfg [F 31 0 .rw 0x40000000],
  R "BZ_AUD_RANGEi" 0xE0010 0x4 3 0 1 .cfg [F 25 16 .rw 0x20, Fi 8 0 .rw (fun i _ => [0, 256, 128].getD i 0)],
  R "BZ_AUD_HBM_BASE" 0xE0020 0 1 0 1 .cfg [F 27 0 .rw 0],
  R "BZ_AUD_HBM_PAGES" 0xE0024 0 1 0 1 .cfg [F 26 0 .rw 0],
  R "BZ_AUD_ESC" 0xE0028 0 1 0 1 .cfg [F 31 16 .rw 0x64, F 15 0 .rw 0x64],
  R "BZ_AUD_WROUND" 0xE002C 0 1 0 1 .cfg [F 15 0 .rw 0x3c],
  R "BZ_AUD_REHEARSE" 0xE0030 0 1 0 1 .cfg [F 31 31 .w1s 0, F 30 30 .ro 0, F 29 29 .w1c 0, F 13 8 .rw 0, F 7 0 .rw 0],
  R "BZ_AUD_PASS" 0xE0040 0 1 0 1 .cfg [F 31 0 .rc 0]]

def crownTable11 : List RegDesc := [
  R "BZ_AUD_MISMATCH" 0xE0044 0 1 0 1 .cfg [F 31 0 .rc 0],
  R "BZ_AUD_INDET" 0xE0048 0 1 0 1 .cfg [F 31 0 .rc 0],
  R "BZ_AUD_CRFLT" 0xE004C 0 1 0 1 .cfg [F 31 0 .rc 0],
  R "BZ_AUD_ABANDON" 0xE0050 0 1 0 1 .cfg [F 31 0 .rc 0],
  R "BZ_AUD_TAINTS" 0xE0054 0 1 0 1 .cfg [F 31 0 .ro 0],
  R "BZ_AUD_WEIGHT" 0xE0058 0 1 0 1 .cfg [F 31 0 .rc 0],
  R "BZ_AUD_ENG_SEL" 0xE0060 0 1 0 1 .cfg [F 13 8 .rw 0, F 7 0 .rw 0],
  R "BZ_AUD_ENG_STAT" 0xE0064 0 1 0 1 .cfg [F 31 29 .ro 0, F 28 28 .ro 0, F 27 27 .wo 0],
  R "BZ_AUD_ENG_LKG" 0xE0068 0 1 0 1 .cfg [F 31 0 .ro 0],
  R "BZ_AUD_ENG_BOOST" 0xE006C 0 1 0 1 .cfg [F 31 0 .ro 0],
  R "BZ_AUDPp_ESC" 0xE0100 0x4 64 0 1 .cfg [F 31 0 .ro 0],
  R "BZ_GRV_CTRL" 0xF0000 0 1 0 1 .cfg [F 31 31 .rw 1, F 30 30 .rw 1, F 29 29 .rw 0, F 15 0 .rw 0x3e8],
  R "BZ_GRV_FAIL" 0xF0004 0 1 0 1 .cfg [F 31 16 .rw 0x1388],
  R "BZ_GRV_STAT" 0xF0008 0 1 0 1 .cfg [F 31 31 .ro 0, F 30 30 .ro 0, F 29 29 .w1c 0, F 28 26 .ro 0],
  R "BZ_GRV_MAPSEQ" 0xF000C 0 1 0 1 .aon [F 31 0 .ro 0],
  R "BZ_GRV_COUNTS" 0xF0010 0 1 0 1 .aon [F 31 24 .ro 0, F 23 16 .ro 0, F 15 8 .ro 0, F 7 0 .ro 0]]

def crownTable12 : List RegDesc := [
  R "BZ_GRV_REQS" 0xF0014 0 1 0 1 .cfg [F 31 0 .rc 0],
  R "BZ_GRV_NONE" 0xF0018 0 1 0 1 .cfg [F 31 0 .rc 0],
  R "BZ_GRV_LATMAX" 0xF001C 0 1 0 1 .cfg [F 31 0 .rc 0],
  R "BZ_GRV_GRAFTS" 0xF0020 0 1 0 1 .cfg [F 31 0 .rc 0],
  R "BZ_GRV_CLAIMLOST" 0xF0024 0 1 0 1 .cfg [F 31 0 .rc 0],
  R "BZ_GRV_WITHDRAW" 0xF0028 0 1 0 1 .cfg [F 31 0 .rc 0],
  R "BZ_GRV_GUEST" 0xF0030 0 1 0 1 .cfg [F 31 31 .ro 0, F 5 0 .ro 0],
  R "BZ_GRV_GUEST_PAGES" 0xF0034 0 1 0 1 .cfg [F 26 0 .rw 0],
  R "BZ_GRVRr_CTRL" 0xF0100 0x20 4 0 1 .cfg [F 31 31 .rw 0, F 30 30 .w1c 0, F 19 16 .rw 8],
  R "BZ_GRVRr_BASE" 0xF0104 0x20 4 0 1 .cfg [F 27 0 .rw 0],
  R "BZ_GRVRr_TAIL" 0xF0108 0x20 4 0 1 .cfg [F 15 0 .rw 0],
  R "BZ_GRVRr_HEAD" 0xF010C 0x20 4 0 1 .cfg [F 15 0 .ro 0],
  R "BZ_GRVRr_CPL_BASE" 0xF0110 0x20 4 0 1 .cfg [F 27 0 .rw 0],
  R "BZ_GRVRr_CPL_HEAD" 0xF0114 0x20 4 0 1 .cfg [F 15 0 .rw 0],
  R "BZ_GRVRr_CPL_TAIL" 0xF0118 0x20 4 0 1 .cfg [F 15 0 .ro 0],
  R "BZ_GRV_DIE_SEL" 0xF0200 0 1 0 1 .cfg [F 5 0 .rw 0]]

def crownTable13 : List RegDesc := [
  R "BZ_GRV_DIE_STAT" 0xF0204 0 1 0 1 .aon [F 31 30 .ro 1, F 29 29 .ro 0, F 28 28 .ro 0, F 27 26 .ro 3, F 25 25 .ro 0, F 24 24 .ro 0, F 23 23 .ro 0, F 21 16 .ro 0, F 15 0 .ro 0x8000],
  R "BZ_GRV_DIE_JOB" 0xF0208 0 1 0 1 .aon [F 31 0 .ro 0],
  R "BZ_GRV_PORT_CMD" 0xF0210 0 1 0 1 .cfg [F 31 31 .w1s 0, F 30 28 .rw 0, F 5 0 .rw 0],
  R "BZ_GRV_GRPg" 0xF0400 0x4 16 0 1 .aon [F 31 24 .ro 0, F 23 16 .ro 0, F 15 8 .ro 0],
  R "BZ_MTR_CTRL" 0x160000 0 1 0 1 .cfg [F 31 31 .rw 1, F 30 30 .rw 1],
  R "BZ_MTR_Pp_STAT" 0x160100 0x20 64 0 1 .cfg [F 31 30 .ro 0, F 29 29 .ro 0, F 28 28 .ro 0, F 23 0 .ro 0],
  R "BZ_MTR_Pp_HSEQ" 0x160104 0x20 64 0 1 .cfg [F 31 0 .ro 0],
  R "BZ_MTR_Pp_RECS" 0x160108 0x20 64 0 1 .cfg [F 31 0 .rc 0],
  R "BZ_MTR_Pp_BADSIG" 0x16010C 0x20 64 0 1 .cfg [F 31 0 .rc 0],
  R "BZ_MTR_Pp_GAP" 0x160110 0x20 64 0 1 .cfg [F 31 0 .rc 0],
  R "BZ_MTR_Pp_RESTORE" 0x160114 0x20 64 0 1 .cfg [F 31 0 .rc 0],
  R "BZ_BOOT_STAT" 0x150000 0 1 0 1 .cfg [F 31 28 .ro 0, F 27 27 .ro 0, F 26 26 .ro 0, F 25 25 .ro 0, F 24 24 .ro 0, F 23 16 .ro 0],
  R "BZ_BOOT_CTRL" 0x150004 0 1 0 1 .cfg [Fi 31 16 .rw (fun _ _ => 400), F 15 8 .rw 0x5a],
  R "BZ_BOOT_CMD" 0x150008 0 1 0 1 .cfg [F 31 31 .w1s 0, F 30 30 .rw 1],
  R "BZ_BOOT_TIME" 0x15000C 0 1 0 1 .cfg [F 31 0 .ro 0],
  R "BZ_SEED_GEN" 0x150010 0 1 0 1 .cfg [F 31 0 .ro 0]]

def crownTable14 : List RegDesc := [
  R "BZ_SEED_DIGESTw" 0x150020 0x4 12 0 1 .aon [F 31 0 .ro 0],
  R "BZ_ADM_RESULT" 0x150050 0 1 0 1 .cfg [F 31 31 .ro 0, F 30 30 .ro 0, F 23 16 .ro 0, F 15 0 .ro 0],
  R "BZ_ADM_ITEM" 0x150054 0 1 0 1 .cfg [F 31 0 .ro 0],
  R "BZ_ADM_REFUSED" 0x150058 0 1 0 1 .cfg [F 31 0 .rc 0],
  R "BZ_TOPOp" 0x150100 0x4 64 0 1 .cfg [F 31 28 .ro 1, F 27 26 .ro 0, F 5 0 .ro 0],
  R "BZ_BCs_ID" 0x150200 0x10 2 0 1 .cfg [F 31 0 .ro 0],
  R "BZ_BCs_STAT" 0x150204 0x10 2 0 1 .cfg [F 31 29 .ro 0, F 15 0 .ro 0],
  R "BZ_BCs_EXCL" 0x150208 0x10 2 0 1 .cfg [F 31 0 .ro 0],
  R "BZ_BCs_REQS" 0x15020C 0x10 2 0 1 .cfg [F 31 0 .rc 0],
  R "BZ_JOB_REPORTS" 0x150300 0 1 0 1 .cfg [F 31 0 .rc 0],
  R "BZ_JOB_MISSED" 0x150304 0 1 0 1 .cfg [F 31 0 .rc 0],
  R "BZ_MODE_STAT" 0x150400 0 1 0 1 .aon [Fi 31 30 .ro (fun _ _ => 0), Fi 29 27 .ro (fun _ _ => 0), F 26 25 .ro 0, F 24 24 .ro 0],
  R "BZ_MODE_CMD" 0x150404 0 1 0 1 .cfg [F 31 31 .w1s 0, F 30 30 .w1s 0, F 7 0 .rw 3],
  R "BZ_MODE_ENTRIES" 0x150408 0 1 0 1 .aon [F 31 0 .rc 0],
  R "BZ_MODE_LANEMIN" 0x15040C 0 1 0 1 .cfg [F 31 0 .rc 0],
  R "BZ_WR_DEFER" 0x150410 0 1 0 1 .cfg [F 31 0 .rc 0]]

/-- `BZ_CLK16_CTRL` and `BZ_CLK16_STAT` (Table 19.9 at d = 16) fall on the offsets of `BZ_RST_CMD` and `BZ_RST_STAT`: the two STAT share a word,
a write at 0x130200 is taken as `BZ_RST_CMD`, and clock 16 is written by CLK_CTRL_WRITE (log entry 95). -/
def crownTable15 : List RegDesc := [
  R "BZ_WR_DEFER_LAST" 0x150414 0 1 0 1 .cfg [F 31 24 .ro 0, F 23 0 .ro 0],
  R "BZ_RH_CTRL" 0x150420 0 1 0 1 .cfg [F 31 31 .rw 1, F 23 16 .rw 0xa8, F 15 8 .rw 0xa8, F 7 0 .rw 0x18],
  R "BZ_RH_TMO" 0x150424 0 1 0 1 .cfg [F 31 16 .rw 0xa, F 15 0 .rw 0x32],
  R "BZ_RH_STAT" 0x150428 0 1 0 1 .cfg [F 31 31 .ro 0, F 30 29 .ro 0, F 14 7 .ro 0, F 6 0 .ro 0],
  R "BZ_RH_PASS" 0x15042C 0 1 0 1 .cfg [F 31 0 .rc 0],
  R "BZ_RH_MISS" 0x150430 0 1 0 1 .cfg [F 31 0 .rc 0],
  R "BZ_RH_ABORT" 0x150434 0 1 0 1 .cfg [F 31 0 .rc 0],
  R "BZ_CLK_ALIVE" 0x130000 0 1 0 1 .aon [F 19 0 .ro 0],
  R "BZ_CLK_FAIL" 0x130004 0 1 0 1 .aon [F 19 0 .w1c 0],
  R "BZ_CLK_FAILS" 0x130008 0 1 0 1 .aon [F 31 0 .rc 0],
  R "BZ_RST_STAT" 0x130204 0 1 0 1 .aon [F 31 31 .ro 0, F 30 30 .ro 0, F 29 29 .w1c 0, F 28 28 .ro 0, F 17 0 .ro 0x3fffc],
  R "BZ_CLKd_CTRL" 0x130120 0x10 16 0 1 .aon [F 31 31 .rw 1, F 30 30 .rw 1, Fi 15 8 .rw (fun i _ => [12, 18, 10, 16, 16, 16, 16, 20, 16, 16, 16, 35, 35, 35, 10, 2].getD i 0), Fi 3 0 .rw (fun i _ => if 11 ≤ i ∧ i ≤ 13 then 2 else 1)],
  R "BZ_CLKd_STAT" 0x130124 0x10 16 0 1 .aon [F 31 31 .ro 0, F 30 30 .ro 0, F 29 29 .w1c 0, F 28 28 .ro 0],
  R "BZ_RST_CMD" 0x130200 0 1 0 1 .aon [F 17 2 .wo 0],
  R "BZ_RST_CAUSE" 0x130208 0 1 0 1 .aon [F 17 0 .w1c 0],
  R "BZ_WDOG_CTRL" 0x110000 0 1 0 1 .cfg [F 31 31 .rw 1, F 15 0 .rw 0x64]]

def crownTable16 : List RegDesc := [
  R "BZ_WDOG_KICK" 0x110004 0 1 0 1 .cfg [F 31 0 .wo 0],
  R "BZ_WDOG_FIRED" 0x110008 0 1 0 1 .aon [F 31 0 .rc 0],
  R "BZ_FW_LOAD_CTRL" 0x110010 0 1 0 1 .aon [F 31 31 .w1s 0, F 30 30 .ro 0, F 29 27 .ro 0],
  R "BZ_FW_LOAD_PAGE" 0x110014 0 1 0 1 .aon [F 27 0 .rw 0],
  R "BZ_FW_LOAD_DATA" 0x110018 0 1 0 1 .aon [F 31 0 .wo 0],
  R "BZ_FW_LOAD_LEN" 0x11001C 0 1 0 1 .aon [F 31 0 .ro 0],
  R "BZ_FW_RUN_PAGE" 0x110020 0 1 0 1 .aon [F 27 0 .ro 0],
  R "BZ_GPIO_OUT" 0x110040 0 1 0 1 .cfg [F 15 0 .rw 0],
  R "BZ_GPIO_OE" 0x110044 0 1 0 1 .cfg [F 15 0 .rw 0],
  R "BZ_GPIO_IN" 0x110048 0 1 0 1 .cfg [F 15 0 .ro 0],
  R "BZ_FEATw" 0x10 0x4 4 0 1 .cfg [Fi 31 0 .ro (fun i _ => if i = 0 then 0x3FFF else 0)],
  R "BZ_FEAT_FWw" 0x20 0x4 4 0 1 .cfg [F 31 0 .ro 0],
  R "BZ_FEAT_HOSTw" 0x30 0x4 4 0 1 .cfg [F 31 0 .rw 0xffffffff],
  R "BZ_FEAT_EFFw" 0x40 0x4 4 0 1 .cfg [F 31 0 .ro 0],
  R "BZ_HIF_CTRL" 0x140000 0 1 0 1 .cfg [Fi 31 31 .rw (fun _ _ => 0), F 30 30 .ro 0],
  R "BZ_HIF_MBX" 0x140004 0 1 0 1 .cfg [F 31 31 .w1s 0, F 30 30 .ro 0, F 29 26 .ro 0, F 23 16 .ro 0, F 15 0 .ro 0]]

def crownTable17 : List RegDesc := [
  R "BZ_HIF_DISP_DROP" 0x140008 0 1 0 1 .cfg [F 31 0 .rc 0],
  R "BZ_HIF_CMD" 0x140400 0x4 256 0 1 .cfg [F 31 0 .rw 0],
  R "BZ_HIF_RSP" 0x140800 0x4 256 0 1 .cfg [F 31 0 .ro 0],
  R "BZ_Vv_RINGr_CTRL" 0x144000 0x100 64 0x20 3 .cfg [F 31 31 .rw 0, F 19 16 .rw 6],
  R "BZ_Vv_RINGr_BASE" 0x144004 0x100 64 0x20 3 .cfg [F 27 0 .rw 0],
  R "BZ_Vv_RINGr_TAIL" 0x144008 0x100 64 0x20 3 .cfg [F 15 0 .rw 0],
  R "BZ_Vv_RINGr_HEAD" 0x14400C 0x100 64 0x20 3 .cfg [F 15 0 .ro 0],
  R "BZ_Vv_RINGr_CPL_BASE" 0x144010 0x100 64 0x20 3 .cfg [F 27 0 .rw 0],
  R "BZ_Vv_RINGr_CPL_HEAD" 0x144014 0x100 64 0x20 3 .cfg [F 15 0 .rw 0],
  R "BZ_Vv_RINGr_CPL_TAIL" 0x144018 0x100 64 0x20 3 .cfg [F 15 0 .ro 0],
  R "BZ_Vv_RINGr_STAT" 0x14401C 0x100 64 0x20 3 .cfg [F 31 24 .ro 0, F 0 0 .w1c 0],
  R "BZ_Vv_DMA_HADDR_L" 0x144060 0x100 64 0 1 .cfg [F 31 0 .rw 0],
  R "BZ_Vv_DMA_HADDR_H" 0x144064 0x100 64 0 1 .cfg [F 31 0 .rw 0],
  R "BZ_Vv_DMA_OFF" 0x144068 0x100 64 0 1 .cfg [F 31 0 .rw 0],
  R "BZ_Vv_DMA_LEN" 0x14406C 0x100 64 0 1 .cfg [F 24 0 .rw 0],
  R "BZ_Vv_DMA_CTRL" 0x144070 0x100 64 0 1 .cfg [F 31 31 .w1s 0, F 30 30 .rw 0, F 29 29 .ro 0, F 28 28 .w1c 0]]

def crownTable18 : List RegDesc := [
  R "BZ_Vv_STAT" 0x144080 0x100 64 0 1 .cfg [F 31 30 .ro 0, F 29 29 .ro 0, F 11 0 .ro 0],
  R "BZ_Vv_RLO" 0x144084 0x100 64 0 1 .cfg [F 27 0 .ro 0],
  R "BZ_Vv_RPAGES" 0x144088 0x100 64 0 1 .cfg [F 27 0 .ro 0],
  R "BZ_Vv_WIN_W" 0x14408C 0x100 64 0 1 .cfg [F 31 16 .ro 0, F 15 0 .ro 0],
  R "BZ_Vv_CELLS" 0x144090 0x100 64 0 1 .cfg [F 25 16 .ro 0, F 8 0 .ro 0],
  R "BZ_Vv_ENS" 0x144094 0x100 64 0 1 .cfg [F 15 0 .ro 0],
  R "BZ_Vv_SCOPE" 0x144098 0x100 64 0 1 .cfg [F 31 0 .ro 0],
  R "BZ_TIME_NOW0" 0x10000 0 1 0 1 .cTime [F 31 0 .ro 0],
  R "BZ_TIME_NOW1" 0x10004 0 1 0 1 .cTime [F 31 0 .ro 0],
  R "BZ_TIME_NOW2" 0x10008 0 1 0 1 .cTime [F 31 0 .ro 0],
  R "BZ_TIME_NOW3" 0x1000C 0 1 0 1 .cTime [F 31 0 .ro 0],
  R "BZ_TIME_STATUS" 0x10010 0 1 0 1 .cTime [F 31 24 .ro 0xff, F 7 7 .ro 0, F 6 6 .ro 0, F 5 5 .ro 1, F 4 4 .ro 0, F 2 0 .ro 0],
  R "BZ_TIME_CTRL" 0x10014 0 1 0 1 .cTime [F 16 16 .rw 0, F 15 8 .rw 0xc8, F 7 4 .rw 4, F 3 0 .rw 8],
  R "BZ_TIME_RATE_LO" 0x10018 0 1 0 1 .cTime [F 31 0 .ro 0],
  R "BZ_TIME_RATE_HI" 0x1001C 0 1 0 1 .cTime [F 7 0 .ro 0],
  R "BZ_TIME_OFFSET" 0x10020 0 1 0 1 .cTime [F 31 0 .ro 0]]

def crownTable19 : List RegDesc := [
  R "BZ_TIME_DELAY" 0x10024 0 1 0 1 .cTime [F 31 0 .ro 0],
  R "BZ_TIME_LATk" 0x10200 0x4 72 0 1 .cTime [F 31 16 .rw 0, F 15 0 .rw 0],
  R "BZ_TIME_STAB" 0x1002C 0 1 0 1 .cTime [F 15 0 .rw 0x3e8],
  R "BZ_TIME_RADIO_TOL" 0x10030 0 1 0 1 .cTime [F 31 0 .rw 0x2710],
  R "BZ_TIME_BOUND" 0x10034 0 1 0 1 .cTime [F 31 0 .ro 0xffffffff],
  R "BZ_TIME_STEP_FRAC" 0x10038 0 1 0 1 .cTime [F 31 0 .ro 0],
  R "BZ_TIME_STEP_NS" 0x1003C 0 1 0 1 .cTime [F 31 0 .ro 0],
  R "BZ_TIME_STEP_SEC" 0x10040 0 1 0 1 .cTime [F 31 0 .ro 0],
  R "BZ_TIME_XBAD" 0x10044 0 1 0 1 .cTime [F 31 0 .rc 0],
  R "BZ_TIME_HOLDS" 0x10048 0 1 0 1 .cTime [F 31 0 .rc 0],
  R "BZ_TIME_STEP_SEC_HI" 0x1004C 0 1 0 1 .cTime [F 31 0 .ro 0],
  R "BZ_TIME_CAP_CTRL" 0x10080 0 1 0 1 .cTime [F 15 8 .rw 0, F 7 0 .rw 0],
  R "BZ_TIME_CAP_STAT" 0x10084 0 1 0 1 .cTime [F 15 8 .w1c 0, F 7 0 .ro 0],
  R "BZ_TIME_CAP_DROP" 0x100A0 0 1 0 1 .cTime [F 31 0 .rc 0],
  R "BZ_TIME_CAP_LATm" 0x10090 0x4 4 0 1 .cTime [F 31 16 .rw 0, F 15 0 .rw 0],
  R "BZ_TIME_CAP0_W0" 0x100C0 0 1 0 1 .cTime [F 31 8 .ro 0, F 3 2 .ro 0, F 1 0 .ro 0]]

def crownTable20 : List RegDesc := [
  R "BZ_TIME_CAP0_W1" 0x100C4 0 1 0 1 .cTime [F 31 0 .ro 0],
  R "BZ_TIME_CAP0_W2" 0x100C8 0 1 0 1 .cTime [F 31 0 .ro 0],
  R "BZ_TIME_CAP0_W3" 0x100CC 0 1 0 1 .cTime [F 31 0 .ro 0],
  R "BZ_BKk_CTRL" 0x40000 0x400 72 0 1 .bkLane [Fi 31 31 .rw (fun i _ => if i < 70 then 1 else 0), F 30 30 .wo 0, F 29 29 .rw 0, F 28 26 .rw 4, F 25 20 .rw 0x1e, F 15 8 .rw 0x32],
  R "BZ_BKk_DEG" 0x40004 0x400 72 0 1 .bkLane [F 31 24 .rw 0xa, F 23 16 .rw 4, F 15 8 .rw 4, F 7 0 .rw 1],
  R "BZ_BKk_TXFIR" 0x40008 0x400 72 0 1 .bkLane [F 31 24 .rw 0, F 23 16 .rw 0x50, F 15 8 .rw 0],
  R "BZ_BKk_RETRY" 0x4000C 0x400 72 0 1 .bkLane [F 31 16 .rw 0x64],
  R "BZ_BKk_STAT" 0x40010 0x400 72 0 1 .bkLane [F 31 28 .ro 0, F 27 25 .ro 0, Fi 24 24 .ro (fun i _ => if i < 64 ∨ i = 66 ∨ i = 67 then 1 else 0), F 23 23 .ro 0, F 22 22 .ro 0, F 21 19 .ro 0],
  R "BZ_BKk_CAP_LOCAL" 0x40014 0x400 72 0 1 .bkLane [F 31 0 .ro 0xF8F44200],
  R "BZ_BKk_CAP_FAR" 0x40018 0x400 72 0 1 .bkLane [F 31 0 .ro 0],
  R "BZ_BKk_NODE_FAR" 0x4001C 0x400 72 0 1 .bkLane [F 31 0 .ro 0xffffffff],
  R "BZ_BKk_LQ" 0x40020 0x400 72 0 1 .bkLane [F 31 16 .ro 0x8000, F 15 0 .ro 0xffff],
  R "BZ_BKk_ERLE" 0x40024 0x400 72 0 1 .bkLane [F 15 0 .ro 0],
  R "BZ_BKk_FEC_CW" 0x40028 0x400 72 0 1 .bkLane [F 31 0 .rc 0],
  R "BZ_BKk_FEC_CORR" 0x4002C 0x400 72 0 1 .bkLane [F 31 0 .rc 0],
  R "BZ_BKk_FEC_UNCORR" 0x40030 0x400 72 0 1 .bkLane [F 31 0 .rc 0]]

def crownTable21 : List RegDesc := [
  R "BZ_BKk_DOWN_CNT" 0x40034 0x400 72 0 1 .bkLane [F 31 0 .rc 0],
  R "BZ_BKk_DEGRADE_CNT" 0x40038 0x400 72 0 1 .bkLane [F 31 0 .rc 0],
  R "BZ_BKk_TRAIN_CNT" 0x4003C 0x400 72 0 1 .bkLane [F 31 0 .rc 0],
  R "BZ_BKk_TRAIN_FAIL" 0x40040 0x400 72 0 1 .bkLane [F 31 0 .rc 0],
  R "BZ_BKk_EC_CTRL" 0x40044 0x400 72 0 1 .bkLane [F 31 31 .rw 0, F 27 24 .rw 0xa, F 7 0 .rw 0x28],
  R "BZ_BKk_EC_CLUSc" 0x40060 0x400 72 0x4 8 .bkLane [F 31 31 .ro 0, F 16 0 .ro 0]]

/-- Every register of the crown window: the crown tables of the same chapters (R509, R59, R208). -/
def crownTable : List RegDesc :=
  crownTable0 ++ crownTable1 ++ crownTable2 ++ crownTable3 ++ crownTable4 ++ crownTable5 ++ crownTable6 ++ crownTable7 ++ crownTable8 ++ crownTable9 ++ crownTable10 ++ crownTable11 ++ crownTable12 ++ crownTable13 ++ crownTable14 ++ crownTable15 ++ crownTable16 ++ crownTable17 ++ crownTable18 ++ crownTable19 ++ crownTable20 ++ crownTable21

/-- The indices at which a family holds the offset. -/
def RegDesc.at (d : RegDesc) (off : Nat) : Option (Nat × Nat) :=
  if off < d.base then none
  else
    let x := off - d.base
    let i := if d.s1 = 0 then 0 else x / d.s1
    let y := if d.s1 = 0 then x else x % d.s1
    let j := if d.s2 = 0 then 0 else y / d.s2
    let z := if d.s2 = 0 then y else y % d.s2
    if z = 0 ∧ i < d.n1 ∧ j < d.n2 then some (i, j) else none

/-- The register at an offset, with its indices; none where the offset holds no register (R9, R509). -/
def findReg (t : List RegDesc) (off : Nat) : Option (RegDesc × Nat × Nat) :=
  match t with
  | [] => none
  | d :: r => match d.at off with
    | some (i, j) => some (d, i, j)
    | none => findReg r off

/-- The reset value of a register. -/
def RegDesc.reset (d : RegDesc) (i j : Nat) : Nat :=
  d.fields.foldl (fun a f => putBits a f.hi f.lo (f.rst i j)) 0

/-- The reset value at an offset of the window (R11); 0 where no register lies (R9). -/
def resetOf (t : List RegDesc) (off : Nat) : Word :=
  match findReg t off with
  | some (d, i, j) => BitVec.ofNat 32 (d.reset i j)
  | none => 0

/-- Whether the register at an offset belongs to a reset scope. -/
def inScope (t : List RegDesc) (sc : Scope) (off : Nat) : Bool :=
  match findReg t off with
  | some (d, _, _) => d.scope == sc
  | none => false

/-- What a write does to the stored value, field by field (Table 0.7, R10): RW sets, W1C clears, W1S sets the bits
written 1; every other field and every reserved bit keeps its value. -/
def writeFields (fs : List FieldDesc) (old new : Nat) : Nat :=
  fs.foldl (fun a f =>
    let w := bitsOf new f.hi f.lo
    let o := bitsOf a f.hi f.lo
    match f.acc with
    | .rw => putBits a f.hi f.lo w
    | .w1c => putBits a f.hi f.lo (o - (o &&& w))
    | .w1s => putBits a f.hi f.lo (o ||| w)
    | _ => a) old

/-- What a read returns of the stored value: WO fields read 0, reserved bits read 0 (Table 0.7, R10). -/
def readFields (fs : List FieldDesc) (v : Nat) : Nat :=
  fs.foldl (fun a f =>
    match f.acc with
    | .wo => a
    | _ => putBits a f.hi f.lo (bitsOf v f.hi f.lo)) 0

end Sys2Proof.Machine
end

