-- ==== Sys2Proof/Machine/NodeState.lean ====
section
/-! DEFINITION. The units a leaf and a crown both hold: time unit, packer queues, receivers, Ring log, lanes, registers
and what has left through the ports. -/

namespace Sys2Proof.Machine

/-- A window's registers: the stored values by offset; an unlisted offset holds its reset value (R11). -/
abbrev RegFile := Tab Word

/-- What leaves the block at a port, in the order it leaves. -/
inductive Out where
  /-- A Sap frame on a lane (R141, R145). -/
  | frame (lane : Nat) (bytes : List Byte)
  /-- A Bark control block or training frame of a lane (R190, R192). -/
  | control (lane : Nat) (bytes : List Byte)
  /-- A word at a handshake port, named as Tables 18.5 and 18.8 name it. -/
  | word (port : String) (bytes : List Byte)
  /-- A response of the Register Port: read data and code (R448). -/
  | response (data : Word) (code : Nat)
  /-- Bytes written to host memory (R495, R499, R502). -/
  | host (addr : Nat) (bytes : List Byte)
  /-- An MSI-X vector (R467). -/
  | msix (vector : Nat)
  deriving DecidableEq, Repr

/-- One exchange as the child holds it between TSYNC and TRESP (R37 to R40). -/
structure Exchange where
  seq : Nat
  t1 : Nat
  t2 : Nat
  t3 : Nat
  /-- When TSYNC was taken, in ns. -/
  at_ : Nat
  pState : Nat
  pStepped : Bool
  pUphold : Bool
  pBound : Nat
  hops : Nat
  /-- A frame of the exchange held an uncorrectable codeword or was a replay (R39). -/
  bad : Bool
  deriving DecidableEq, Repr

/-- One exchange as the parent holds it, and what it last knew of the child on the lane (R37, R38, R151). -/
structure Served where
  seq : Nat
  t1 : Nat
  node : Nat
  state : Nat
  stepped : Bool
  offset : Int
  known : Bool
  deriving DecidableEq, Repr

/-- An entry of a capture FIFO (R53). -/
structure CapEntry where
  stamp : Stamp
  ovfBefore : Bool
  deriving DecidableEq, Repr

/-- A pulse train (R54 to R56, R510, R511): its grid, its pending take-over and its output. Times in 2^-32 ns. -/
structure Train where
  grid : Bool
  start : Nat
  period : Nat
  width : Nat
  /-- The number of the next active edge. -/
  next : Nat
  /-- The latched START of a pending take-over. -/
  pend : Option Nat
  /-- The pending take-over waits for the step (R55). -/
  waits : Bool
  /-- Edges with a number below this one are produced; none: no stop asked (R510). -/
  stopAt : Option Nat
  /-- The inactive edge still to be placed. -/
  off : Option Nat
  /-- The output is at its active level. -/
  high : Bool
  deriving DecidableEq, Repr

/-- A train that holds no grid. -/
def Train.none : Train := ⟨false, 0, 0, 0, 0, .none, false, .none, .none, false⟩

/-- A time-of-day message held for the next PPS edge (R48, R49). -/
structure Tod where
  sec : Nat
  utc : Nat
  flags : Nat
  source : Nat
  deriving DecidableEq, Repr

/-- The time unit behind its registers (R32 to R57). -/
structure TimeUnit where
  /-- The word with its 16 hidden bits, in 2^-48 ns (R32). -/
  word : Nat
  /-- The integral term I of R44. -/
  integral : Int
  /-- Valid delays taken since DELAY_AVG was last restarted, their sum, and the mean, in 2^-32 ns (R39). -/
  davgN : Nat
  davgSum : Nat
  davg : Nat
  /-- Consecutive exchanges rejected for delay alone (R39). -/
  delayRej : Nat
  /-- Consecutive valid exchanges that count toward the step (R43). -/
  stepRun : Nat
  /-- Consecutive valid exchanges within, and beyond, 0.2 ns (R42). -/
  within : Nat
  beyond : Nat
  /-- Valid exchanges since the time parent or its lane changed (R41). -/
  rebuilt : Nat
  /-- The moment the time parent last changed, in ns (R41, R42). -/
  heldAt : Nat
  /-- Whether RATE is held because the time parent changed (R41). -/
  held : Bool
  /-- Lane of the time parent; 0x7F none or PPS (R41). -/
  parent : Nat
  /-- The last valid exchange or edge: its moment in ns and its t1 (R42, R44). -/
  lastValid : Option Nat
  lastT1 : Option Nat
  /-- BOUND at the last valid exchange, in 0.1 ns (R45). -/
  boundE : Nat
  /-- t1 of the last TSYNC taken and the exchange period, in ns, it shows with the one before (R39, R42). -/
  syncT1 : Option Nat
  period : Nat
  /-- Exchanges open on each lane: as child and as parent. -/
  open_ : Tab (Option Exchange)
  served : Tab (Option Served)
  /-- SEQ of the next exchange on each lane, and when the last started, in ns (R37). -/
  nextSeq : Tab Nat
  started : Tab (Option Nat)
  /-- UTC offset and leap flags that travel down (R38, R49): bit 1 LEAP_ADD, bit 0 LEAP_SUB, as TSYNC places them. -/
  utc : Nat
  leap : Nat
  /-- SOURCE_CLASS of the last time-of-day message that named an edge (R49). -/
  source : Nat
  /-- Per lane: the last sound TSYNC said HOLDOVER or UPHOLD (R42). -/
  uphold : Tab Bool
  /-- The captured word of each privilege level (R33), in 2^-32 ns. -/
  latch : Tab Nat
  /-- Capture FIFOs and, per input, whether an edge was dropped since the last entry stored (R53). -/
  fifo : Tab (List CapEntry)
  dropped : Tab Bool
  /-- Per input: the level the edge detector holds; none until the first synchronised sample (R52). -/
  level : Tab (Option Bool)
  trains : Tab Train
  /-- Root and SOLO crowns: the message held; moment and local stamp of the last valid edge; local stamp and SEC of the last edge used, be it for rate
  only (R48). -/
  tod : Option Tod
  edgeAt : Option Nat
  validStamp : Option Nat
  edgeStamp : Option Nat
  edgeSec : Nat
  /-- A change of STATE, STEPPED or UPHOLD has been reported up to this code (R151). -/
  reported : Nat
  deriving DecidableEq, Repr

/-- The time unit after its reset: FREE, the word at 0, the one step open (R42, R43, R481). -/
def TimeUnit.reset : TimeUnit :=
  { word := 0, integral := 0, davgN := 0, davgSum := 0, davg := 0, delayRej := 0, stepRun := 0, within := 0, beyond := 0,
    rebuilt := 0, heldAt := 0, held := false, parent := 0x7F, lastValid := none, lastT1 := none,
    boundE := 0xFFFFFFFF, syncT1 := none, period := 0, open_ := [], served := [], nextSeq := [],
    started := [], utc := 0, leap := 0, source := 0, uphold := [], latch := [], fifo := [], dropped := [], level := [], trains := [],
    tod := none, edgeAt := none, validStamp := none, edgeStamp := none, edgeSec := 0, reported := 0 }

/-- A record in a class queue (R143). -/
structure Queued where
  rec_ : Rec
  /-- Held under R47 until STEPPED rises. -/
  held : Bool
  /-- When it entered the queue, in ns. -/
  at_ : Nat
  deriving DecidableEq, Repr

/-- A frame kept for replay: the frame and the moment it was sent, in ns (R147). -/
structure Kept where
  frame : Frame
  at_ : Nat
  deriving DecidableEq, Repr

/-- A frame in a crown's egress queue: forwarded whole, or closed by the crown's own packer; and the time word at which its
last byte entered the queue (R229, R230, R234). -/
structure QFrame where
  frame : Frame
  at_ : Nat
  own : Bool
  deriving DecidableEq, Repr

/-- The transmitter of a Bark lane (R182 to R192). -/
structure LaneTx where
  /-- Scrambler and PRBS31 states (R187, R192). -/
  scr : Nat
  prbs : Nat
  /-- TXFIR as it stood when the attempt began (R183, R203). -/
  fir : Nat
  /-- Training frames sent in the present step (R193). -/
  sent : Nat
  /-- Sap frames handed to the lane and what is left of the one a codeword's end has cut (R189). -/
  items : List Frame
  cur : List Byte
  /-- Control blocks waiting for a CTRL codeword (R191). -/
  blocks : List (List Byte)
  /-- Levels still to be sent, the level sent last, and codes of the word in progress (R183). -/
  syms : List Int
  last : Int
  buf : List Nat
  /-- The transmit words completed in the last nanosecond (R182). -/
  words : List Nat
  /-- Codes sent since the lane last fell silent, newest first, as far as the echo search looks back (R198). -/
  hist : List Nat
  deriving DecidableEq, Repr

/-- A transmitter that has sent nothing. -/
def LaneTx.reset : LaneTx :=
  { scr := 0, prbs := 0, fir := 0, sent := 0, items := [], cur := [], blocks := [], syms := [], last := 0, buf := [], words := [], hist := [] }

/-- The receiver of a Bark lane ahead of its slicer (R184, R185, R198, R199). -/
structure LaneRx where
  /-- The sampling phase code, the slot index its wraps have shifted, and receive words since it last moved. -/
  pi : Nat
  slot : Int
  words : Nat
  /-- The receive gain code. -/
  gain : Nat
  /-- The canceller's taps, 32 for each cluster placed, in 2^-32. -/
  taps : List Int
  /-- Uncorrected stamp of the Bark frame whose CWI 0 last came with TSM = 1 (R190), in 2^-32 ns. -/
  tsmAt : Option Nat
  /-- Sums of squares of the ADC samples and of what the canceller leaves of them, over the link-quality window (R199). -/
  powIn : Nat
  powOut : Nat
  deriving DecidableEq, Repr

/-- A receiver after reset. -/
def LaneRx.reset : LaneRx := { pi := 0, slot := 0, words := 0, gain := 0, taps := [], tsmAt := none, powIn := 0, powOut := 0 }

/-- Where the first symbol of a received frame's alignment marker begins (R183, R185): how long ago the cycle of its word began, in 2^-32 ns of the time word,
and the symbol's index from there. -/
structure PortTime where
  ago : Nat
  sym : Nat
  deriving DecidableEq, Repr

/-- A class queue of a packer with its framing, loss and replay state (R143 to R159). -/
structure ClassQ where
  queue : List Queued
  /-- Bytes of the first record already framed. -/
  part : Nat
  /-- Records that go at the head of the next frame: time messages (R143). -/
  heads : List (List Byte)
  /-- Records whose sources keep them until the queue can take them, oldest first (R158). -/
  waits : List Rec
  /-- Raw bytes left over from a stopped frame's block, next in the stream (R155). -/
  rest : List Byte
  seq : Nat
  roff : Nat
  level : Nat
  /-- When the level last changed, and since when FILL has stayed at or below a quarter, in ns (R157). -/
  levelAt : Nat
  lowSince : Option Nat
  /-- Growth since the last LOSS record (R159). -/
  thinned : Nat
  dropped : Nat
  droppedBytes : Nat
  merged : Nat
  /-- Records thinned or dropped since the packer's reset, those a LOSS record has told among them (R434). -/
  lostAll : Nat
  first : Nat
  last : Nat
  lossSeq : Nat
  /-- A data frame was sent in this alive period; a heartbeat is due (R146). -/
  sentNow : Bool
  hbDue : Bool
  /-- The frame closed and waiting for a frame boundary (R144, R145). -/
  closed : Option Frame
  /-- A crown's egress queue of the class on its lane, oldest first; empty in a leaf (R230). -/
  frames : List QFrame
  deficit : Nat
  /-- The replay store, whether it is frozen, and frames to be resent (R147). -/
  store : List Kept
  frozen : Bool
  replay : List Frame
  /-- The lane this class travels on now (R145). -/
  lane : Nat
  /-- Bytes reserved at T0 for sweep records still being read (R158). -/
  reserved : Nat
  deriving DecidableEq, Repr

/-- An empty class queue (its state after the reset of its packer). -/
def ClassQ.empty : ClassQ :=
  { queue := [], part := 0, heads := [], waits := [], rest := [], seq := 0, roff := 0, level := 0, levelAt := 0, lowSince := none,
    thinned := 0, dropped := 0, droppedBytes := 0, merged := 0, lostAll := 0, first := 0, last := 0, lossSeq := 0, sentNow := false,
    hbDue := false, closed := none, frames := [], deficit := 0, store := [], frozen := false, replay := [], lane := 0, reserved := 0 }

/-- A receiver's state for one source and class (R148). -/
structure RxState where
  src : Nat
  cls : Nat
  boot : Nat
  next : Nat
  roff : Nat
  resync : Bool
  /-- When the last frame was heard, in ns, and on which lane. -/
  heard : Nat
  lane : Nat
  /-- Bytes of a record still incomplete. -/
  part : List Byte
  deriving DecidableEq, Repr

/-- A Ring log record (Table 7.1) and whether it has been cleared (R177). -/
structure RingRec where
  typ : Nat
  qual : Nat
  opbase : Bool
  seq : Nat
  stamp : Nat
  opsec : Nat
  pcc : Nat
  body : List Byte
  cleared : Bool
  deriving DecidableEq, Repr

/-- A block's own Ring log (R165 to R170). -/
structure RingLog where
  /-- Records present, oldest first. -/
  recs : List RingRec
  head : Nat
  tail : Nat
  mirrored : Nat
  /-- Operating time since the L-AON reset (leaf) or the AON reset (crown), in ns; LOCAL is its whole seconds (R167). -/
  localNs : Nat
  /-- OPSEC base and PCC, and whether a RESTORE has come (R167). -/
  base : Nat
  pcc : Nat
  opbase : Bool
  /-- OPSEC latched by a read of OPSEC_LO (Table 7.5). -/
  latch : Nat
  /-- The read window (R173). -/
  window : List Byte
  /-- SEQ of the next record to be handed to the packer (R170). -/
  unsent : Nat
  deriving DecidableEq, Repr

/-- An empty ring. -/
def RingLog.empty : RingLog := ⟨[], 0, 0, 0, 0, 0, 0, false, 0, [], 0⟩

/-- A lane behind its registers (R180 to R207); STATE, MODE and the counters are registers. Moments in ns. -/
structure Lane where
  /-- When STATE last changed. -/
  since : Nat
  /-- SESSION of this end's attempt and of the far end's PROBE frames (R192). -/
  session : Nat
  farSession : Nat
  /-- This end's capability word of the attempt: CEIL and MARGIN as they stood at its start (R194, R203). -/
  own : Nat
  /-- COUNTDOWN at which a follow end joined the probe (R193). -/
  countdown : Nat
  /-- A valid follow PROBE frame was heard in FOLLOW_PROBE (R193). -/
  probed : Bool
  /-- Candidate modes, highest first, and the index of the one on trial (R195). -/
  candidates : List Nat
  trial : Nat
  /-- The trial margin M, 0.1 dB (R195). -/
  margin : Nat
  /-- ESNR of the trial at this end and as the far end reported it; uncorrectable codewords of its measurement part; the
  verdict formed (lead) or heard (follow) (R196). -/
  trialEsnr : Option Int
  farEsnr : Option Int
  trialUnc : Nat
  verdict : Option Nat
  /-- Degraded windows in a row, and whether a step-down is called for (R202). -/
  degraded : Nat
  degrade : Bool
  /-- Codewords, uncorrectable codewords and corrected symbols of the link-quality window, and its start (R201). -/
  winCw : Nat
  winUnc : Nat
  winErr : Nat
  winAt : Nat
  /-- Whether each of the last 64 codewords was uncorrectable, newest first (R200). -/
  recent : List Bool
  /-- The target this end's MODE_REQ asked for; the target of a change in progress; when it began; whether the far end's
  MODE_ACK or MODE_GO has come; whether transmitter and receiver have switched (R202). -/
  asked : Option Nat
  target : Option Nat
  changeAt : Nat
  farSent : Bool
  txDone : Bool
  rxDone : Bool
  /-- KEEPALIVEs sent since the lane came up, and when the last was sent (R191). -/
  kaSeq : Nat
  kaAt : Nat
  /-- When the last KEEPALIVE came, what its path bits said, and when the last with ACTIVE_ROOT = 1 came (R29, R30). -/
  kaHeard : Option Nat
  farNoUp : Bool
  farAbsent : Bool
  rootAt : Option Nat
  /-- The far end, which said NO_UP, sends its own traffic over this lane (R29, R37). -/
  carried : Bool
  /-- The echo search engine held (R205). -/
  engine : Option Nat
  /-- The attempt of the present pass ended: UP or failed, and failed (R206). -/
  settled : Bool
  failed : Bool
  /-- Descrambler state; bytes of the Sap frame in progress; waiting for a codeword with SOFF other than 0x3FF (R187,
  R189). -/
  descr : Nat
  part : List Byte
  hunting : Bool
  tx : LaneTx
  rx : LaneRx
  deriving DecidableEq, Repr

/-- A lane after its reset: OFF, nothing held. -/
def Lane.reset : Lane :=
  { since := 0, session := 0, farSession := 0, own := 0, countdown := 0, probed := false, candidates := [], trial := 0, margin := 0,
    trialEsnr := none, farEsnr := none, trialUnc := 0, verdict := none, degraded := 0, degrade := false, winCw := 0,
    winUnc := 0, winErr := 0, winAt := 0, recent := [], asked := none, target := none, changeAt := 0, farSent := false,
    txDone := false, rxDone := false, kaSeq := 0, kaAt := 0, kaHeard := none, farNoUp := false, farAbsent := false,
    rootAt := none, carried := false, engine := none, settled := false, failed := false, descr := 0, part := [], hunting := true,
    tx := LaneTx.reset, rx := LaneRx.reset }

/-- What a leaf and a crown share. `crown` says which of the two this node is. -/
structure Node where
  crown : Bool
  /-- A self leaf's own node word, with SELF = 1 (R24, R142); none for any other leaf and for a crown. -/
  selfWord : Option Nat
  /-- Nanoseconds since power-on: the model's own count (log entry 1). -/
  ns : Nat
  /-- How many free values have been drawn (log entry 3). -/
  fresh : Nat
  regs : RegFile
  out : List Out
  time : TimeUnit
  pack : Tab ClassQ
  /-- The end of the present alive period, in ns (R146). -/
  aliveAt : Nat
  /-- Alive periods since the last periodic TSTATUS (R151). -/
  aliveN : Nat
  /-- The class whose turn it is under deficit round robin, by lane (R145). -/
  turn : Tab Nat
  /-- The lane that carries upward traffic now (a leaf's lane 0; a crown's up or detour lane, R29). -/
  upLane : Nat
  /-- The flex lane that carries Q3 to Q7 upward in its place, when one does (R228). -/
  flexLane : Option Nat
  rx : List RxState
  /-- C0 to C2 frames that receiving lanes have found missing (R148), whatever the counters that reads clear show. -/
  missed : Tab Nat
  /-- Records delivered by the receivers, oldest first: lane, KIND and body (R148). -/
  delivered : List (Nat × Nat × List Byte)
  ring : RingLog
  lanes : Tab Lane
  deriving DecidableEq, Repr

/-- A node with every register and unit at reset. -/
def Node.reset (crown : Bool) : Node :=
  { crown := crown, selfWord := none, ns := 0, fresh := 0, regs := [], out := [], time := TimeUnit.reset, pack := [], aliveAt := 100000,
    aliveN := 0, turn := [], upLane := if crown then 64 else 0, flexLane := none, rx := [], missed := [], delivered := [], ring := RingLog.empty, lanes := [] }

end Sys2Proof.Machine
end

