-- ==== Sys2Proof/Machine/BootState.lean ====
section
/-! DEFINITION. A leaf's bring-up, jobs, clocks and resets behind their registers (spec/16_bring_up.md R410, R411, R422,
R423; spec/19_clocks_resets.md R477 to R482). -/

namespace Sys2Proof.Machine

/-- An armed job of a leaf (R422). -/
structure Armed where
  job : Nat
  tgo : Nat
  tray : Nat
  payload : List Byte
  go : Bool
  deriving DecidableEq, Repr

/-- An entry of the start FIFO (R423). -/
structure Started where
  job : Nat
  payload : List Byte
  stamp : Nat
  deriving DecidableEq, Repr

/-- Bring-up, job start and clock state of a leaf. -/
structure LeafBoot where
  /-- The strap `nvm_present` (R460; log entry 24). -/
  nvmPresent : Bool
  /-- NVM images of a version the leaf does not support (R7): counted here, for no register shows them. -/
  nvmOther : Nat
  /-- SEED_GEN of the last ASSIGN (R415). -/
  seedGen : Nat
  /-- REG_WRITE lists acknowledged, and whether every one ended with STATUS 0 (Table 16.6). -/
  lists : Nat
  clean : Bool
  armed : List Armed
  fifo : List Started
  /-- Resets held: bit 0 L-AON, 1 TIME, 2 L-SAP, 3 L-HOST, 4 and 5 lanes 0 and 1 (R481). -/
  held : Nat
  /-- Clock sources failed, by the bits of Table 19.8 (R477). -/
  failed : Nat
  deriving DecidableEq, Repr

/-- What a leaf's integrator ties off and sets, as the L-AON release samples it: the straps `grd_safe[g]`, one bit each (R112), LANES2 of `TZ_BK_CFG` (R180) and
`nvm_present` (R460). -/
structure LeafStraps where
  safe : Nat
  lanes2 : Bool
  nvm : Bool
  deriving DecidableEq, Repr

/-- A CRC unit: POLY in force and the running state (R160, R161). -/
structure CrcUnit where
  poly : Nat
  run : Nat
  deriving DecidableEq, Repr

/-- Unit `u` after a reset: as after a START with POLY = u (R163). -/
def CrcUnit.reset (u : Nat) : CrcUnit := ⟨u % 4, crcInit (u % 4)⟩

/-- A leaf at the release of its L-AON reset, all resets released. -/
def LeafBoot.reset : LeafBoot :=
  { nvmPresent := false, nvmOther := 0, seedGen := 0, lists := 0, clean := true, armed := [], fifo := [], held := 0, failed := 0 }

end Sys2Proof.Machine
end

