-- ==== Sys2Proof/Machine/BringState.lean ====
section
/-! DEFINITION. A crown's bring-up, broadcasts, job starts, modes, rehearsals, clocks, firmware and host interface behind their registers
(spec/16_bring_up.md, spec/17_modes_degraded.md, spec/19_clocks_resets.md, spec/20_firmware_host.md). -/

namespace Sys2Proof.Machine

/-! ### Bring-up (R404 to R414) -/

/-- What is fused in a crown (R405, R407): four key digests, the keys revoked by bit, the rollback count, and the array cells known bad by global
physical number. -/
structure Fuses where
  digests : List (List Byte)
  revoked : Nat
  rollback : Nat
  badCells : List Nat
  deriving DecidableEq, Repr

/-- A crown with nothing fused. -/
def Fuses.none : Fuses := ⟨[], 0, 0, []⟩

/-- A downlink port's child as bring-up sees it (R409, R411, R413). -/
structure ChildBoot where
  /-- The node word last sent in ASSIGN; none when no number is held there. -/
  assigned : Option Nat
  acked : Bool
  /-- The child answered STATUS 1 (R413). -/
  role : Bool
  gen : Nat
  /-- LIST_SEQ of the list last sent, lists sent and lists acknowledged since the last ASSIGN, and whether every one ended with STATUS 0. -/
  sent : Nat
  done : Nat
  clean : Bool
  /-- A child crown's READY has come. -/
  ready : Bool
  excluded : Bool
  deriving DecidableEq, Repr

/-- A port nothing has been sent to. -/
def ChildBoot.reset : ChildBoot := ⟨Option.none, false, false, 0, 0, 0, true, false, false⟩

/-! ### Broadcasts (R415 to R421) -/

/-- A child's ACK (Table 16.9): the port it came from, or 64 and more for a detoured crown, its node word, STATUS, EXCL_N, CODE and ITEM. -/
structure BcAck where
  port : Nat
  node : Nat
  status : Nat
  exclN : Nat
  code : Nat
  item : Nat
  deriving DecidableEq, Repr

/-- A broadcast as a crown holds it (R416 to R420). The broadcast store's bytes stand here (log entry 66). -/
structure Bcast where
  /-- The 84 bytes of the OFFER after its OP and reserved bytes: BC_ID on (Table 16.9). -/
  offer : List Byte
  origin : Bool
  chunks : Tab (List Byte)
  /-- One more than the highest INDEX seen. -/
  top : Nat
  /-- This crown's own STATUS, CODE and ITEM once its check is done. -/
  own : Option (Nat × Nat × Nat)
  acks : List BcAck
  excl : Nat
  sentAck : Bool
  /-- T_ACT of its COMMIT. -/
  tAct : Option Nat
  /-- Asked for with BC_ID 0 (R420). -/
  catchUp : Bool
  deriving DecidableEq, Repr

/-! ### Job starts (R422, R423) -/

/-- A job's tray at its origin: MASK as ordered, ARMED as answered, whether the answer has come, STARTED and MISSED. -/
structure JobTray where
  tray : Nat
  mask : Nat
  armed : Nat
  answered : Bool
  started : Nat
  missed : Nat
  deriving DecidableEq, Repr

/-- A job start this crown originates. -/
structure JobOrigin where
  job : Nat
  all : Bool
  tgo : Nat
  payload : List Byte
  /-- When the ARMs were sent, in ns. -/
  at_ : Nat
  trays : List JobTray
  /-- JOB_GO or JOB_CANCEL has been sent; cancelled. -/
  decided : Bool
  cancelled : Bool
  deriving DecidableEq, Repr

/-- A job start at a tray crown: leaves by MASK, those that have answered, those ARMED, and reports merged. -/
structure JobMerge where
  job : Nat
  tray : Nat
  tgo : Nat
  mask : Nat
  /-- When the ARM came, in ns. -/
  at_ : Nat
  answered : Nat
  armed : Nat
  status : Nat
  acked : Bool
  started : Nat
  missed : Nat
  deriving DecidableEq, Repr

/-- Bring-up of a crown. -/
structure CrownBoot where
  fuses : Fuses
  slotA : List Byte
  slotB : List Byte
  /-- A SOLO image has been booted from BZ_FW_RUN_PAGE since the AON reset (R489). -/
  soloHeld : Bool
  /-- ns of the last AON release or warm start (BZ_BOOT_TIME). -/
  startNs : Nat
  /-- ns of the last AON release (R408, R409). -/
  aonNs : Nat
  /-- The root strap as sampled (R3, R463). -/
  root1 : Bool
  /-- The image ROM verified, waiting for firmware's admission; its admission has run on it and whether it was accepted. -/
  rom : List Byte
  admitted : Bool
  mapped : Bool
  checked : Bool
  kids : Tab ChildBoot
  /-- LIST_SEQ of the next REG_WRITE. -/
  listSeq : Nat
  bcast : Tab (Option Bcast)
  origins : List JobOrigin
  merges : List JobMerge
  /-- The peer root has declared ready (Table 16.6). -/
  peerReady : Bool
  /-- The crown has been ready since its AON reset: from then on numbers move through Graft alone (R20). -/
  declared : Bool
  deriving DecidableEq, Repr

/-- Nothing booted. -/
def CrownBoot.reset : CrownBoot :=
  { fuses := Fuses.none, slotA := [], slotB := [], soloHeld := false, startNs := 0, aonNs := 0, root1 := false, rom := [], admitted := false, mapped := false, checked := false,
    kids := [], listSeq := 0, bcast := [], origins := [], merges := [], peerReady := false, declared := false }

/-! ### Modes and rehearsals (R430 to R442) -/

/-- A rehearsal that runs (R438): kind, target port or lane, watch unit or engine, when it started in ns, whether its record came, and for
LANE the partner lane, C0 to C2 gaps counted at its start, and whether EN has been written back. -/
structure Rehearsal where
  kind : Nat
  target : Nat
  unit_ : Nat
  at_ : Nat
  seen : Bool
  health : Bool
  throttle : Bool
  partner : Nat
  gaps : Nat
  restored : Bool
  deriving DecidableEq, Repr

/-- Modes of a crown behind its registers. -/
structure Modes where
  /-- Causes of Table 17.3 that hold, by bit. -/
  causes : Nat
  /-- Canopy time, in 2^-32 ns, of watchdog warm starts (cause 4). -/
  warmAt : List Nat
  /-- Drop counts as OVL last saw them (R434). -/
  drops : Int
  /-- Lanes now below their declared MODE_MIN (Table 17.2). -/
  low : List Nat
  rh : Option Rehearsal
  /-- By kind: canopy hour-count moment of the last start, in 2^-32 ns; the previous target; a Burl ONSET stands open. -/
  started : Tab (Option Nat)
  last : Tab (Option Nat)
  burl : Tab Bool
  /-- Guards whose last record reported radio class: 8 times the port and the guard (R439). -/
  radioGuards : List Nat
  /-- By kind: the whole minute of canopy time in which it fell due and no target was eligible (R438). -/
  tried : Tab (Option Nat)
  deriving DecidableEq, Repr

/-- No cause, no rehearsal. -/
def Modes.reset : Modes := ⟨0, [], 0, [], none, [], [], [], [], []⟩

/-! ### Clocks and resets (R472 to R485) -/

/-- The crown's clocks behind their registers: sources failed, by d of Table 19.2 with 18 and 19 the references, since when in ns; switches
that hang; the PLL of a domain has lost its reference; whether the AON sequencer has finished with a domain. -/
structure Clocks where
  failed : Tab (Option Nat)
  /-- A domain whose reset a command or a clock return asserted, and when, in ns; a domain in reset without an entry waits for the
  start-up sequencer (R484). -/
  resetAt : Tab (Option Nat)
  /-- The downlink passes (R206): 0 before the first, 1 in it, 2 in the second, 3 after; the batches still to be started, the ports of
  the present batch, the ports that failed in the first pass; and when the lane resets were last released, in ns. -/
  pass : Nat
  batches : List (List Nat)
  batch : List Nat
  missed : List Nat
  linkAt : Nat
  deriving DecidableEq, Repr

/-- Every clock runs, no pass has begun. -/
def Clocks.reset : Clocks := ⟨[], [], 0, [], [], [], 0⟩

/-! ### Firmware, host and views (R489 to R505) -/

/-- A descriptor a view has in flight (R500): view, ring, the tag it came with and the dispatcher's own, and the ring slot that waits. -/
structure ViewFlight where
  view : Nat
  ring : Nat
  tag : List Byte
  own : List Byte
  deriving DecidableEq, Repr

/-- A tenant view beyond its registers: MAXOUT, whether a freeze waits, and its write window in pages from RLO (R498, R501). -/
structure View where
  maxOut : Nat
  freezing : Bool
  wOff : Nat
  wPages : Nat
  deriving DecidableEq, Repr

/-- No view. -/
def View.none : View := ⟨0, false, 0, 0⟩

/-- The mailbox command in progress (R494): its bytes. -/
structure MbxCmd where
  bytes : List Byte
  /-- BC_ID of the CONFIG broadcast, or JOB of the start, that it waits for. -/
  waits : Nat
  deriving DecidableEq, Repr

/-- The host interface. -/
structure HostIf where
  cmd : Option MbxCmd
  views : Tab View
  flights : List ViewFlight
  /-- The view last served (R500). -/
  served : Nat
  /-- The dispatcher's next own tag. -/
  nextTag : Nat
  /-- BC_ID of the next broadcast this crown originates. -/
  nextBc : Nat
  /-- Firmware executes; the watchdog's count started at this ns (R490). -/
  wdogAt : Nat
  /-- PMBus alerts serviced; regulators' STATUS_WORD as last read (R466). -/
  pmbus : Tab Nat
  /-- DFI controller k holds a PHY request granted at this ns (R464). -/
  dfi : Tab (Option Nat)
  deriving DecidableEq, Repr

/-- No host. -/
def HostIf.reset : HostIf := ⟨none, [], [], 63, 0, 1, 0, [], []⟩

/-- All of it. -/
structure Bring where
  boot : CrownBoot
  modes : Modes
  clk : Clocks
  host : HostIf
  deriving DecidableEq, Repr

/-- Everything after the AON reset. -/
def Bring.reset : Bring := ⟨CrownBoot.reset, Modes.reset, Clocks.reset, HostIf.reset⟩

end Sys2Proof.Machine
end

