-- ==== Sys2Proof/Machine/TraceState.lean ====
section
/-! DEFINITION. The trace unit behind its registers (spec/05_trace.md, R121 to R135). -/

namespace Sys2Proof.Machine

/-- A trace packet on its way to the drain; a SYNC keeps its stamp for R129. -/
structure TrcPkt where
  bytes : List Byte
  sync : Option Stamp
  /-- The canopy moment it was made, in 2^-32 ns (R134). -/
  at_ : Nat
  deriving DecidableEq, Repr

/-- One data beat of a retirement group (Table 18.7): store, size code, position, address, value. -/
structure TrcData where
  st : Bool
  size : Nat
  pos : Nat
  addr : Nat
  value : Nat
  deriving DecidableEq, Repr

/-- One L-TRC cycle of a core's retirement interface (R455). -/
structure TrcIn where
  n : Nat
  pc : Nat
  disc : Bool
  kind : Nat
  cause : Nat
  data : Option TrcData
  deriving DecidableEq, Repr

/-- The encoder and partition of one core (R122 to R135). -/
structure TrcCore where
  /-- EN and PART in force (R127, R133). -/
  run : Bool
  part : Nat
  lastIa : Nat
  lastDa : Nat
  nseq : Nat
  cyc : Nat
  /-- A SYNC is due at the next retirement, with this REASON (R124). -/
  pend : Option Nat
  /-- Bytes written since the last SYNC and its stamp. -/
  since : Nat
  syncAt : Nat
  lp : Bool
  /-- The loss run: packets and bytes dropped, and whether its LOSS packet has been written (R132). -/
  losing : Bool
  lostPkt : Nat
  lostBytes : Nat
  lossSent : Bool
  fifo : List TrcPkt
  buf : List TrcPkt
  deriving DecidableEq, Repr

def TrcCore.reset : TrcCore :=
  { run := false, part := 12, lastIa := 0, lastDa := 0, nseq := 0, cyc := 0, pend := none, since := 0, syncAt := 0, lp := false,
    losing := false, lostPkt := 0, lostBytes := 0, lossSent := false, fifo := [], buf := [] }

/-- The trace unit: its cores, the core the drain serves next, and whether audit staging has the buffer's write or read port in this L-SAP
cycle (R134). -/
structure TraceUnit where
  cores : Tab TrcCore
  next : Nat
  audW : Bool
  audR : Bool
  deriving DecidableEq, Repr

def TraceUnit.reset : TraceUnit := ⟨[], 0, false, false⟩

end Sys2Proof.Machine
end

