-- ==== Sys2Proof/Machine/TwigState.lean ====
section
/-! DEFINITION. Twigs and the Sap reader behind their registers (spec/03_twig_counters.md). -/

namespace Sys2Proof.Machine

/-- One counter of a Twig (R63, R66, R86). -/
structure Counter where
  value : Nat
  epoch : Nat
  wrap : Bool
  deriving DecidableEq, Repr

/-- One tag bin (R69 to R71). -/
structure Bin where
  open_ : Bool
  tag : Nat
  busy : Nat
  stall : Nat
  seq : Nat
  /-- The Twig's cycle in which the bin was last charged. -/
  charged : Nat
  mixed : Bool
  deriving DecidableEq, Repr

/-- A record in a Twig's record queue: TYPE 1 BIN_CLOSE or 2 SNAPSHOT, and its body from byte 20 on (R71, R452). -/
structure TwigRec where
  typ : Nat
  body : List Byte
  deriving DecidableEq, Repr

/-- A Twig (R60 to R75, R482). -/
structure Twig where
  /-- Integrator parameters of TWIG_ID: SLOT_W and ENGINE (Table 3.7). -/
  slotW : Nat
  engine : Bool
  inReset : Bool
  /-- Stored configuration words by number; an unlisted word holds its reset value (Table 3.7). -/
  cfg : Tab Nat
  ctr : Tab Counter
  bins : Tab Bin
  openSeq : Nat
  cyc : Nat
  /-- Tags without a bin and the bins that host them (R71). -/
  hosts : List (Nat × Nat)
  queue : List TwigRec
  /-- The tag of the last command, none since reset (R74); its privilege (R64); the last state (R63), 8 when none. -/
  prevTag : Option Nat
  lastPriv : Nat
  prevState : Nat
  /-- The hold output (R74). -/
  hold : Bool
  /-- Bins still to be closed by a flush, by number and OPEN_SEQ (R72). -/
  flush : List (Nat × Nat)
  /-- Beats of the head record already sent on the chain (R452). -/
  beats : Nat
  /-- Configuration writes that have crossed the chain and wait for the L-HOST domain (R66), and counters whose write takes effect in the next cycle. -/
  writes : List (Nat × Nat)
  starts : List Nat
  /-- What counters and bins held until a moment in ns at which they changed, newest first, as far back as a read on its way to the reader looks (R80). -/
  past : List (Nat × Tab Counter × Tab Bin)
  deriving DecidableEq, Repr

def Counter.zero : Counter := ⟨0, 0, false⟩
def Bin.closed : Bin := ⟨false, 0, 0, 0, 0, 0, false⟩

/-- A Twig after both of its resets (Table 3.7). -/
def Twig.reset : Twig :=
  { slotW := 0, engine := false, inReset := false, cfg := [], ctr := [], bins := [], openSeq := 0, cyc := 0, hosts := [], queue := [],
    prevTag := none, lastPriv := 0, prevState := 8, hold := false, flush := [], beats := 0, writes := [], starts := [], past := [] }

/-- A Twig as it stands on the chain: its stage count (R61), and the integrator's parameters SLOT_W and ENGINE (Table 3.7; log entry 110). -/
structure TwigAt where
  stage : Nat
  slotW : Nat
  engine : Bool
  deriving DecidableEq, Repr

/-- A group's settings in force (R77, R79). -/
structure GroupCfg where
  en : Bool
  period : Nat
  phase : Nat
  deriving DecidableEq, Repr

/-- A reading: counter value with its epoch, wrap flag, capture time and quality (R80, R89). -/
structure Reading where
  valid : Bool
  value : Nat
  epoch : Nat
  wrap : Bool
  stamp : Stamp
  deriving DecidableEq, Repr

def Reading.none : Reading := ⟨false, 0, 0, false, ⟨0, .locked⟩⟩

/-- One thing a sweep reads: a counter by index, or an open bin of a Twig (R73, R78). -/
inductive SweepItem where
  | counter (index : Nat)
  | bin (twig bin : Nat)
  deriving DecidableEq, Repr

/-- A sweep in progress (R78 to R83). -/
structure Sweep where
  group : Nat
  t0 : Stamp
  seq : Nat
  skips : Nat
  todo : List SweepItem
  nread : Nat
  nbin : Nat
  /-- Readings and bin readings formed so far, as Table 3.5 lays them out. -/
  reads : List Byte
  bins : List Byte
  chainErr : Bool
  stepIn : Bool
  delta : Int
  /-- What the packer decided at T0 (R158): taken with its reserved bytes, thinned or dropped. -/
  kept : Bool
  thinned : Bool
  reserved : Nat
  deriving DecidableEq, Repr

/-- An indirect Twig configuration access (R91). -/
structure CfgAccess where
  wr : Bool
  twig : Nat
  word : Nat
  data : Nat
  /-- Granted a configuration slot and issued on the chain (R78). -/
  issued : Bool
  at_ : Nat
  deriving DecidableEq, Repr

/-- The Sap reader (R60 to R91, R450 to R452). -/
structure Reader where
  enumerated : Bool
  /-- s_t of each Twig (R61). -/
  stages : Tab Nat
  groups : Tab GroupCfg
  /-- Next due time of each group, in µs; none: to be computed (R77, R82). -/
  due : Tab (Option Nat)
  /-- Sweeps due and not started: group and due time (R78). -/
  waiting : List (Nat × Nat)
  skips : Tab Nat
  seqs : Tab Nat
  sweep : Option Sweep
  /-- Membership words (R77, R85); an unlisted word holds its reset value. -/
  members : Tab Nat
  last : Tab Reading
  /-- The reading latched for each privilege level (R89). -/
  latch : Tab Reading
  access : Option CfgAccess
  /-- A configuration slot is open: one access may be granted (R78). -/
  slot : Bool
  markers : List Rec
  /-- Bytes of the records in progress on the chain, and the time their FIRST beat crossed (R452). -/
  partBytes : Tab (List Byte)
  partAt : Tab (Option Stamp)
  events : List Rec
  /-- Missing responses since the last CHAIN record of the Ring log. -/
  chainGrown : Nat
  deriving DecidableEq, Repr

/-- The reader after the L-SAP reset (R85). -/
def Reader.reset : Reader :=
  { enumerated := false, stages := [], groups := [], due := [], waiting := [], skips := [], seqs := [], sweep := none, members := [],
    last := [], latch := [], access := none, slot := false, markers := [], partBytes := [], partAt := [], events := [], chainGrown := 0 }

/-- What an engine presents to its Twig in one L-HOST cycle (Table 18.2). -/
structure TwigIn where
  state : Nat
  cmd : Bool
  tag : Nat
  priv : Nat
  nIssue : Nat
  nFlush : Nat
  backBlk : Bool
  /-- Increments of the external lines, line 0 first. -/
  ext : List Nat
  /-- A transaction-monitor beat: privilege, master ID, address, traffic class, bytes. -/
  txn : Option (Nat × Nat × Nat × Nat × Nat)
  deriving DecidableEq, Repr

end Sys2Proof.Machine
end

