-- ==== Sys2Proof/Machine/Operands.lean ====
section
/-! DEFINITION. Operand forms: what a command brings from outside where that is more than a number or a list of bytes. -/

namespace Sys2Proof

/-- A leaf: the one on a die, or a crown's own self leaf (R24). -/
inductive LeafSel where
  | die
  | own
  deriving DecidableEq, Repr

/-- A block with the units that leaves and crowns share: the leaf on a die, the crown's self leaf, or the crown. -/
inductive Block where
  | die
  | own
  | crown
  deriving DecidableEq, Repr

/-- A job ring, by its owner: an engine queue, a tree queue, a ring of Grove, or a ring of a tenant view (R259, R360, R499). -/
inductive RingSel where
  | engine (k : Nat)
  | tree (k : Nat)
  | grove (r : Nat)
  | view (v r : Nat)
  deriving DecidableEq, Repr

namespace Machine

/-- What the release of a crown's AON reset finds beside its own straps: its fuses (R405, R407), and the straps of its self leaf (R112, R462). -/
structure CrownPins where
  fuses : Fuses
  self : LeafStraps
  deriving DecidableEq, Repr

/-- A leaf whose L-AON reset is released, and the straps it samples (R112, R180, R460). -/
structure LeafPins where
  leaf : LeafSel
  straps : LeafStraps
  deriving DecidableEq, Repr

/-- Where a register access goes: a byte offset in the window, and the bytes it names from there on, one bit each (R8, R467). -/
structure Place where
  off : Nat
  be : Nat
  deriving DecidableEq, Repr

/-- The cells of a map command: its logical cell, and what PHYS holds (R244). -/
structure MapCells where
  logical : Nat
  phys : Nat
  deriving DecidableEq, Repr

/-- The Bark frame that carried a time message (R39, R190): the marker symbol it began with, where it did not come through CODEWORD_RECEIVE; whether it held an
uncorrectable codeword; and whether it was a replay. -/
structure TimeFrame where
  marker : Option PortTime
  uncorrected : Bool
  replay : Bool
  deriving DecidableEq, Repr

/-- Whether R39 rejects the exchange of a message for the frame that carried it. -/
def TimeFrame.bad (f : TimeFrame) : Bool := f.uncorrected || f.replay

/-- A training frame as it is sliced, and the receive words it came in (R182, R192). -/
structure TrainingHeard where
  bytes : List Byte
  adc : List Nat
  deriving DecidableEq, Repr

/-- A codeword as the receiver slices it: its 544 symbols; where the first symbol of its Bark frame's marker began (R185); and the receive words it came in
(R182, R189). -/
structure CodewordHeard where
  symbols : List Nat
  marker : Option PortTime
  adc : List Nat
  deriving DecidableEq, Repr

end Machine

end Sys2Proof
end

