-- ==== Sys2Proof/Syntax.lean ====
section
/-! DEFINITION. The commands the block takes from outside, one constructor per row of spec/opcode_table.json. -/

namespace Sys2Proof

open Sys2Proof.Machine (TwigIn TwigAt TrcIn CrownPins LeafPins Place MapCells TimeFrame TrainingHeard CodewordHeard PortTime)

/-- The commands: a command's operands are what comes with it from outside. -/
inductive Instr where
  /-- AON_RESET_RELEASE (R3, R463, R484): the straps `role` and `root1` are sampled, with what the crown's fuses and its self leaf's straps hold now. -/
  | aonResetRelease (role : Nat) (root1 : Bool) (pins : CrownPins)
  /-- L_AON_RESET_RELEASE (R481): a leaf, and the straps it samples. -/
  | lAonResetRelease (pins : LeafPins)
  /-- RESET_ASSERT (R481, R485): a leaf's reset by its number in Table 19.6 (0 L-AON, 1 TIME, 2 L-SAP, 3 L-HOST, 4 and 5 the lanes), or a crown's domain by d of Table 19.2. -/
  | resetAssert (b : Block) (r : Nat)
  /-- TIME_RESET_RELEASE (R43, R481). -/
  | timeResetRelease (b : Block)
  /-- L_SAP_RESET_RELEASE (R61, R85, R146). -/
  | lSapResetRelease (w : LeafSel)
  /-- TWIG_RESET_ASSERT (R482). -/
  | twigResetAssert (w : LeafSel) (t : Nat)
  /-- TWIG_RESET_RELEASE (R482). -/
  | twigResetRelease (w : LeafSel) (t : Nat)
  /-- TRACE_CORE_RESET (R124). -/
  | traceCoreReset (core : Nat)
  /-- REGISTER_WRITE (R8, R12, R435 to R437, R467): offset, the bytes it names from there on, value, privilege level and master. `deferred` says that the write waited behind another access to the register in its cycle. Anything but a whole, aligned word has no effect. -/
  | registerWrite (b : Block) (at_ : Place) (v priv mid : Nat) (deferred : Bool)
  /-- RC_READ (R8, R9, R12, R467): a read of any register, with its own effect: an RC register reads and clears. `deferred` says that the crown's read waited behind another access to the register in its cycle (R436). Anything but a whole, aligned word reads 0 and has no effect. -/
  | rcRead (b : Block) (at_ : Place) (priv mid : Nat) (deferred : Bool)
  /-- REGISTER_PORT_REQUEST (R448): a request of the Register Port of a leaf on a die; a self leaf's is tied off (R462). -/
  | registerPortRequest (write : Bool) (addr be data priv mid : Nat)
  /-- REHOME_START (R29). -/
  | rehomeStart
  /-- REHOME_RETURN (R29). -/
  | rehomeReturn
  /-- ROOT1_ACTIVATE (R30). -/
  | root1Activate
  /-- TIME_NOW_CAPTURE (R33): a read of NOW0 latches the word for its privilege level. -/
  | timeNowCapture (b : Block) (priv : Nat)
  /-- EXCHANGE_START (R37): TSYNC on each lane from `first` to `last` on which an exchange is due. -/
  | exchangeStart (first last : Nat)
  /-- TSYNC (R38): the message, and what R39 asks of the Bark frame that carried it. -/
  | tsync (b : Block) (lane : Nat) (msg : List Byte) (marker : Option PortTime) (uncorrected replay : Bool)
  /-- TDELAY (R38): as TSYNC. -/
  | tdelay (lane : Nat) (msg : List Byte) (f : TimeFrame)
  /-- TRESP (R39, R40). -/
  | tresp (b : Block) (lane : Nat) (msg : List Byte) (bad : Bool)
  /-- HOLDOVER_ENTER (R42). -/
  | holdoverEnter (b : Block)
  /-- BOUND_HOLDOVER_UPDATE (R45). -/
  | boundHoldoverUpdate (b : Block)
  /-- PPS_EDGE (R48). -/
  | ppsEdge
  /-- TOD_MESSAGE (R49, R468): the 18 bytes with their preamble. -/
  | todMessage (bytes : List Byte)
  /-- TIME_SET_GO (R51). -/
  | timeSetGo
  /-- CAPTURE_EDGE (R52): a synchronised sample of a capture input. -/
  | captureEdge (b : Block) (input : Nat) (level : Bool)
  /-- CAPTURE_POP (R53): a read of W3. -/
  | capturePop (b : Block) (input : Nat)
  /-- PULSE_ARM (R55). -/
  | pulseArm (w : LeafSel) (train : Nat)
  /-- PULSE_TAKEOVER (R55). -/
  | pulseTakeover (w : LeafSel) (train : Nat)
  /-- PULSE_EDGE (R54). -/
  | pulseEdge (w : LeafSel) (train : Nat)
  /-- PULSE_ENABLE_WRITE (R510). -/
  | pulseEnableWrite (w : LeafSel) (train : Nat) (on : Bool)
  /-- ENUM_RETURN (R451): COUNT and STAGE of the returning ENUM word, and what the stage queries give of each Twig in order. -/
  | enumReturn (w : LeafSel) (ntwig loop : Nat) (chain : List TwigAt)
  /-- READ_TIMEOUT (R62). -/
  | readTimeout (w : LeafSel)
  /-- TWIG_HOST_CYCLE (R63). -/
  | twigHostCycle (w : LeafSel) (t : Nat) (inp : TwigIn)
  /-- TWIG_CFG_APPLY (R66): the configuration write on its way to a Twig reaches it. -/
  | twigCfgApply (w : LeafSel) (t : Nat)
  /-- FLUSH_BINS (R72). -/
  | flushBins (w : LeafSel)
  /-- FLUSH_RESUME (R72). -/
  | flushResume (w : LeafSel) (t : Nat)
  /-- MARKER (R76): a write of TZ_MARKn_DATA by a privilege level and a master. -/
  | marker (w : LeafSel) (n data priv mid : Nat)
  /-- SWEEP_DUE (R77). -/
  | sweepDue (w : LeafSel) (g : Nat)
  /-- SWEEP_START (R78). -/
  | sweepStart (w : LeafSel)
  /-- READ_RESPONSE (R80). -/
  | readResponse (w : LeafSel)
  /-- SWEEP_COMPLETE (R83). -/
  | sweepComplete (w : LeafSel)
  /-- GROUP_CFG_APPLY (R79). -/
  | groupCfgApply (w : LeafSel)
  /-- SAP_EN_WRITE (R79). -/
  | sapEnWrite (w : LeafSel) (on : Bool)
  /-- COUNTER_WINDOW_READ (R89). -/
  | counterWindowRead (w : LeafSel) (index priv : Nat)
  /-- TWIG_CFG_GO (R91). -/
  | twigCfgGo (w : LeafSel) (write : Bool) (t word : Nat)
  /-- CRESP (R91): with the Twig's error bit. -/
  | cresp (w : LeafSel) (err : Bool)
  /-- TWIG_CFG_TIMEOUT (R91). -/
  | twigCfgTimeout (w : LeafSel)
  /-- EVENT_BEAT (R452): the next beat of a Twig's record on the chain. -/
  | eventBeat (w : LeafSel) (t : Nat)
  /-- SENSOR_SAMPLE (R94, R95): a code of channel 0 to 55, or a comparator sample of channel 56 to 63. -/
  | sensorSample (w : LeafSel) (chan v : Nat)
  /-- RATE_WINDOW_END (R97). -/
  | rateWindowEnd (w : LeafSel)
  /-- WATCH_UNIT_WRITE (R98): word `r` of unit `u`. -/
  | watchUnitWrite (w : LeafSel) (u r v : Nat)
  /-- GUARD_INJECT (R99): GO, the unit and the privilege level of the write. -/
  | guardInject (w : LeafSel) (go : Bool) (u priv : Nat)
  /-- FENCE_CLR (R102). -/
  | fenceClr (w : LeafSel) (mask priv : Nat)
  /-- WCLASS_CHANGE (R103): a synchronised sample of a guard's work-class input. -/
  | wclassChange (w : LeafSel) (g : Nat) (radio : Bool)
  /-- HOLDOFF_EXPIRE (R107). -/
  | holdoffExpire (w : LeafSel) (u : Nat)
  /-- VF_REQUEST (R109): the host takes the word presented. -/
  | vfRequest (w : LeafSel)
  /-- VF_RESPONSE (R111): the response word of Table 4.8. -/
  | vfResponse (w : LeafSel) (word : Nat)
  /-- VF_TIMEOUT (R111). -/
  | vfTimeout (w : LeafSel) (d : Nat)
  /-- VF_REQ (R110): a write of the software target. -/
  | vfReq (w : LeafSel) (word : Nat)
  /-- MARGIN (R110). -/
  | margin (w : LeafSel) (d steps : Nat)
  /-- AGEING_POINT (R114 to R118): at a tray crown, of a die unit or array cell: the port, its channel, the operating hours, and for each domain of the port the steps in force, as the operands of log entry 55. -/
  | ageingPoint (port chan hours cell : Nat) (doms : List (Nat × Nat))
  /-- TRACE_RETIRE (R125): a retirement group of a core. -/
  | traceRetire (core : Nat) (inp : TrcIn)
  /-- LOSS (R132). -/
  | loss (core : Nat)
  /-- LP_ENTER (R130). -/
  | lpEnter (core : Nat)
  /-- TRACE_LP_EXIT (R130). -/
  | traceLpExit (core : Nat)
  /-- TRACE_CTRL_WRITE (R127). -/
  | traceCtrlWrite (w : LeafSel) (core v : Nat)
  /-- TRACE_DRAIN (R134). -/
  | traceDrain (w : LeafSel)
  /-- RECORD_ENQUEUE (R143). -/
  | recordEnqueue (b : Block) (lane kind cls : Nat) (body : List Byte)
  /-- FRAME_CLOSE (R144). -/
  | frameClose (b : Block) (lane cls : Nat)
  /-- FRAME_SELECT (R145). -/
  | frameSelect (b : Block) (lane : Nat)
  /-- ALIVE_PERIOD_END (R146). -/
  | alivePeriodEnd (b : Block)
  /-- REPLAY_START (R147). -/
  | replayStart (b : Block) (lane cls : Nat)
  /-- FRAME_RECEIVE (R148). -/
  | frameReceive (b : Block) (lane : Nat) (bytes : List Byte)
  /-- DEAD (R149). -/
  | dead (lane cls : Nat)
  /-- TSTATUS_PERIODIC (R151): the Ring log keeps none of these (Table 7.2). -/
  | tstatusPeriodic (b : Block)
  /-- LEVEL_RISE (R157). -/
  | levelRise (b : Block) (lane cls : Nat)
  /-- LEVEL_FALL (R157). -/
  | levelFall (b : Block) (lane cls : Nat)
  /-- QSIZE_WRITE (R162): a write of a class queue's control word. -/
  | qsizeWrite (w : LeafSel) (cls v : Nat)
  /-- START (R161). -/
  | start (w : LeafSel) (u : Nat)
  /-- CRC_DATA (R161). -/
  | crcData (w : LeafSel) (u v : Nat)
  /-- RESTORE (R167). -/
  | restore (w : LeafSel) (base pcc : Nat)
  /-- POWER_UP (R168): the record of the leaf on a port, with the resets it names. -/
  | powerUp (port bits : Nat)
  /-- OPSEC_SAVE (R168). -/
  | opsecSave
  /-- RLOG_RST_PORT (R168): the word written. -/
  | rlogRstPort (v : Nat)
  /-- MIRROR_RECORD (R171): the bytes of a record, for mirror `k` (a port; 64 the self leaf; 65 the other root). -/
  | mirrorRecord (k : Nat) (bytes : List Byte)
  /-- MIRROR_ACK (R171): at the crown it is sent for mirror `k`; a leaf stores `seq`. -/
  | mirrorAck (b : Block) (k seq : Nat)
  /-- RLOG_READ (R173). -/
  | rlogRead (b : Block) (seq priv : Nat)
  /-- READ (R174): records of a block's own ring. -/
  | read (b : Block) (first count : Nat)
  /-- DATA (R174): a reply for mirror `k`. -/
  | data (k : Nat) (body : List Byte)
  /-- MIRROR_READ (R174). -/
  | mirrorRead (node first count : Nat)
  /-- CLEAR_TICKET (R175, R176). -/
  | clearTicket (ticket : List Byte)
  /-- RLOG_CLEAR (R177): HIGH_SEQ, PCC, NONCE and the digest of the ticket. -/
  | rlogClear (b : Block) (high pcc nonce : Nat) (digest : List Byte)
  /-- LANE_EN_WRITE (R203). -/
  | laneEnWrite (b : Block) (lane : Nat) (on : Bool)
  /-- RETRAIN_WRITE (R203). -/
  | retrainWrite (b : Block) (lane : Nat)
  /-- RETRAIN (R203): the control block arrives. -/
  | retrain (b : Block) (lane : Nat)
  /-- TRAIN_STEP_END (R193): with the last receive words of the step, on which the echo search runs (R182, R198). -/
  | trainStepEnd (b : Block) (lane : Nat) (adc : List Nat)
  /-- PROBE_HEARD (R193). -/
  | probeHeard (b : Block) (lane session countdown : Nat)
  /-- TRAINING_FRAME (R192): the frame as sliced, and the receive words it came in (R182). -/
  | trainingFrame (b : Block) (lane : Nat) (heard : TrainingHeard)
  /-- TRIAL_VERDICT (R196). -/
  | trialVerdict (b : Block) (lane : Nat)
  /-- RETRY (R197); a crown's downlink waits for the passes of R206. -/
  | retry (b : Block) (lane : Nat)
  /-- ECHO_ENGINE_GRANT (R205). -/
  | echoEngineGrant
  /-- DOWNLINK_PASS_START (R206). -/
  | downlinkPassStart
  /-- BATCH_START (R206). -/
  | batchStart
  /-- LANE_DOWN (R200): 0 loss of signal, 1 missed markers, 2 uncorrectable codewords. -/
  | laneDown (b : Block) (lane cause : Nat)
  /-- SILENT_END (R200). -/
  | silentEnd (b : Block) (lane : Nat)
  /-- CODEWORD_RECEIVE (R189): a codeword as the receiver slices it. -/
  | codewordReceive (b : Block) (lane : Nat) (heard : CodewordHeard)
  /-- KEEPALIVE_SEND (R191, R196): in a trial `num`/`den` is the mean square slicer error measured. -/
  | keepaliveSend (b : Block) (lane num den : Nat)
  /-- KEEPALIVE (R191): the control block's bytes. -/
  | keepalive (b : Block) (lane : Nat) (block : List Byte)
  /-- LQ_WINDOW_END (R201): the window's mean square slicer error `num`/`den`, and its last receive words, whose samples ERLE counts too (R182, R199). -/
  | lqWindowEnd (b : Block) (lane num den : Nat) (adc : List Nat)
  /-- MODE_REQ (R202): none where this end asks. -/
  | modeReq (b : Block) (lane : Nat) (got : Option Nat)
  /-- MODE_ACK (R202). -/
  | modeAck (b : Block) (lane mode : Nat)
  /-- MODE_GO (R202). -/
  | modeGo (b : Block) (lane mode : Nat)
  /-- MODE_CHANGE_TIMEOUT (R202). -/
  | modeChangeTimeout (b : Block) (lane : Nat)
  /-- WINDOW_CLOSE (R213). -/
  | windowClose (slot : Nat)
  /-- AGG (R224): from a child's lane. -/
  | agg (lane : Nat) (body : List Byte)
  /-- RAW (R225). -/
  | raw (lane : Nat) (body : List Byte)
  /-- LOAD_INTERVAL (R223): `parentIdle` says that the parent has been idle in the interval (R226). -/
  | loadInterval (parentIdle : Bool)
  /-- SHIFT (R224). -/
  | shift (lane : Nat) (body : List Byte)
  /-- LOAD (R223): from a child's lane. -/
  | load (lane : Nat) (body : List Byte)
  /-- REQ (R226): 1 re-homing, 2 uplink saturated, 3 firmware. -/
  | req (reason : Nat)
  /-- GRANT (R227), once its node words are judged (R18). -/
  | grant (body : List Byte)
  /-- DENY (R227), once its node words are judged (R18). -/
  | deny (body : List Byte)
  /-- FLEX_TIMEOUT (R227). -/
  | flexTimeout
  /-- RELEASE (R228): what the circuit carried moves back. -/
  | release
  /-- SHAPER_REFILL (R231). -/
  | shaperRefill
  /-- GO (R233): of the gate list of a lane. -/
  | go (lane : Nat)
  /-- GATE_TAKEOVER (R233). -/
  | gateTakeover (lane : Nat)
  /-- QUEUE_SAMPLE (R234). -/
  | queueSample
  /-- NSAMP_READ (R234): the read of BZ_SCHl_Qq_NSAMP. -/
  | nsampRead (lane queue priv mid : Nat)
  /-- STRICT_DISCARD (R237). -/
  | strictDiscard (lane : Nat)
  /-- REMAP (R244): logical cell `l` of quadrant `q` to physical cell `p`. -/
  | remap (q l p : Nat)
  /-- RETIRE (R244): the logical cell of quadrant `q`, and what PHYS of the command holds. -/
  | retire (q : Nat) (cells : MapCells)
  /-- CMAP_DONE (R245). -/
  | cmapDone
  /-- QUEUE_TAIL_WRITE (R260). -/
  | queueTailWrite (x : RingSel) (v : Nat)
  /-- CPL_HEAD_WRITE (R260). -/
  | cplHeadWrite (x : RingSel) (v : Nat)
  /-- JOB_START (R263). -/
  | jobStart (k : Nat)
  /-- JOB_COMPLETE (R265). -/
  | jobComplete (k : Nat)
  /-- ENGINE_FAULT (R267): FAULT code and physical cell. -/
  | engineFault (k code pcell : Nat)
  /-- ABORT_QUEUE (R268): of an engine queue or a tree queue. -/
  | abortQueue (tree : Bool) (k : Nat)
  /-- HBM_TRAINED (R408). -/
  | hbmTrained (k : Nat) (ok : Bool)
  /-- VECTOR_FORM (R277): of feature set slot `slot`. -/
  | vectorForm (slot : Nat)
  /-- LOAD_ENSEMBLE (R284). -/
  | loadEnsemble (e v : Nat)
  /-- ENSEMBLE_LOADED (R284): `ok` where the node store was written without an error. -/
  | ensembleLoaded (e : Nat) (ok : Bool)
  /-- UNLOAD (R286). -/
  | unload (e : Nat)
  /-- TREE_JOB_START (R289). -/
  | treeJobStart (k : Nat)
  /-- TREE_JOB_COMPLETE (R289). -/
  | treeJobComplete (k : Nat)
  /-- TREE_FAULT (R291): 0 node store, 1 HBM, 2 domain. -/
  | treeFault (k cause : Nat)
  /-- WINDOW_PROCESS (R296). -/
  | windowProcess
  /-- REFIT_COMPLETE (R306): the fit job of engine queue `q`; `ue` an uncorrectable error in its outputs. -/
  | refitComplete (q : Nat) (ue : Bool)
  /-- BUDGET_HOUR_END (R308). -/
  | budgetHourEnd (slot : Nat)
  /-- REBASE (R315). -/
  | rebase (slot : Nat)
  /-- RESET_RUNS (R315). -/
  | resetRuns (slot : Nat)
  /-- AUDIT_DESCRIPTOR (R316): the descriptor, and the context of Table 18.9 that comes with it. -/
  | auditDescriptor (desc ctx : List Byte)
  /-- FETCH_ISSUE (R325). -/
  | fetchIssue
  /-- FETCH_RESPONSE (R325): the id, the bytes and whether the read failed. -/
  | fetchResponse (id : Nat) (data : List Byte) (err : Bool)
  /-- RETENTION_EXPIRE (R325). -/
  | retentionExpire
  /-- RESULT (R326). -/
  | result
  /-- CONFIG (R322). -/
  | config (thresh seed : Nat)
  /-- BOOST (R322). -/
  | boost (engine thresh tiles : Nat)
  /-- LOCK (R324). -/
  | lock
  /-- SAMPLE_COMPLETE (R329): the sample SEQ of the leaf on a port. -/
  | sampleComplete (port seq : Nat)
  /-- RECOMPUTE_COMPLETE (R330). -/
  | recomputeComplete
  /-- REPLAY (R333). -/
  | replay (seq : Nat)
  /-- REPLAY_DONE (R333). -/
  | replayDone (refused : Bool)
  /-- REPLAY_RESULT (R334). -/
  | replayResult (port seq : Nat)
  /-- ENG_CLEAR (R335). -/
  | engClear (port engine : Nat)
  /-- RESEED (R321). -/
  | reseed
  /-- WDIGEST (R340): of weight region slot `r`. -/
  | wdigest (r : Nat)
  /-- WEIGHT_ROUND_END (R341). -/
  | weightRoundEnd
  /-- REHEARSE (R345): the write of BZ_AUD_REHEARSE with GO, PORT and ENGINE. -/
  | rehearse (port engine : Nat)
  /-- HEALTH_INPUT (R352): 0 a link's state, 1 a GUARD record, 2 FAULT of a TSTATUS, 3 an ageing record, 4 a frame heard. -/
  | healthInput (port kind : Nat) (body : List Byte)
  /-- GRADE_RISE (R353). -/
  | gradeRise (port : Nat)
  /-- PLACE (R360): the next request of a ring. -/
  | place (ring : Nat)
  /-- RELEASE_JOB (R361): the next request of a ring. -/
  | releaseJob (ring : Nat)
  /-- RESP (R363): the record's body. -/
  | resp (body : List Byte)
  /-- SUMMARY (R356). -/
  | summary
  /-- GROVE_STALE (R362). -/
  | groveStale
  /-- DEAD_FAIL_TIMEOUT (R366). -/
  | deadFailTimeout (port : Nat)
  /-- VACANCY_FILL (R368). -/
  | vacancyFill (group : Nat)
  /-- HOLD (R368). -/
  | hold (port : Nat)
  /-- UNHOLD (R368). -/
  | unhold (port : Nat)
  /-- FAIL (R366, R368). -/
  | fail (port : Nat)
  /-- REINSTATE (R368). -/
  | reinstate (port : Nat)
  /-- STAND_IN (R371): the active root names this crown for a pod, or ends it. -/
  | standIn (pod : Nat) (on : Bool)
  /-- HW_RESET_RELEASE (R373): `romOk` where the ROM's check passed. -/
  | hwResetRelease (romOk : Bool)
  /-- HW_TAG_CYCLE (R376): one engine cycle of the tag port. -/
  | hwTagCycle (engine state : Nat) (tvalid : Bool) (tenant req bytes : Nat)
  /-- REQUEST_END (R377). -/
  | requestEnd (tenant req : Nat)
  /-- POWER_SAMPLE (R379): a pair of codes. -/
  | powerSample (volts amps : Nat)
  /-- SUBINTERVAL_END (R380). -/
  | subintervalEnd
  /-- HW_INTERVAL_END (R384). -/
  | hwIntervalEnd
  /-- HW_RELEASE (R386). -/
  | hwRelease (hseq : Nat)
  /-- TAMPER (R388). -/
  | tamper (code : Nat)
  /-- OSC_FAULT (R391): `bad` where the deviation is beyond 2 %. -/
  | oscFault (bad : Bool)
  /-- GET_ID (R390). -/
  | getId
  /-- ATTEST (R390): with its nonce. -/
  | attest (nonce : List Byte)
  /-- HW_RESTORE (R394): with the checkpoint. -/
  | hwRestore (ckpt : List Byte)
  /-- READ_LOG (R390): from entry `first`. -/
  | readLog (first : Nat)
  /-- SET_CONFIG (R390). -/
  | setConfig (ctr : Nat) (payload sig : List Byte)
  /-- SEAL (R390). -/
  | heartSeal (ctr : Nat) (sig : List Byte)
  /-- UNSEAL (R390). -/
  | heartUnseal (ctr : Nat) (sig : List Byte)
  /-- CLEAR_TAMPER (R390). -/
  | clearTamper (ctr : Nat) (sig : List Byte)
  /-- CMD_REJECT (R392). -/
  | cmdReject (bytes : List Byte)
  /-- METER_RELAY_RESTORE (R396): the checkpoint held for the port on its way. -/
  | meterRelayRestore (port : Nat)
  /-- ROM_BOOT (R405): what the two flash slots hold; none for a slot that cannot be read. -/
  | romBoot (a b : Option (List Byte))
  /-- BIST (R407): the physical cells that fail it. -/
  | bist (bad : List Nat)
  /-- ADMISSION_CHECK (R424). -/
  | admissionCheck
  /-- READY (R409). -/
  | ready
  /-- NVM_READ (R410): the bytes of the NVM. -/
  | nvmRead (w : LeafSel) (img : List Byte)
  /-- ASSIGN (R411). -/
  | assign (b : Block) (node gen : Nat)
  /-- ASSIGN_ACK (R413): from the child on a port. -/
  | assignAck (port status gen : Nat)
  /-- REG_WRITE (R411): the entries, each an offset and a value. -/
  | regWrite (w : LeafSel) (seq : Nat) (entries : List (Nat × Nat))
  /-- REG_DONE (R409). -/
  | regDone (port status : Nat)
  /-- WARM (R412). -/
  | warm
  /-- TOPOLOGY_CHECK (R413). -/
  | topologyCheck
  /-- OFFER (R416): the body of Table 16.11; `origin` at the crown that originates it. -/
  | offer (origin : Bool) (body : List Byte)
  /-- CHUNK (R416). -/
  | chunk (body : List Byte)
  /-- BCAST_REQ (R416): from the child on a lane. -/
  | bcastReq (lane : Nat) (body : List Byte)
  /-- ACK (R417). -/
  | ack (body : List Byte)
  /-- ACK_SEND (R417): broadcast slot 0 or 1. -/
  | ackSend (slot : Nat)
  /-- ACK_BY_EXPIRE (R418). -/
  | ackByExpire (slot : Nat)
  /-- COMMIT (R418). -/
  | commit (id tact : Nat)
  /-- BROADCAST_APPLY (R418). -/
  | broadcastApply
  /-- ABORT_BROADCAST (R418). -/
  | abortBroadcast (id : Nat)
  /-- BROADCAST_DISCARD (R419). -/
  | broadcastDiscard (slot : Nat)
  /-- JOB_ARM (R422). -/
  | jobArm (b : Block) (body : List Byte)
  /-- JOB_ACK (R422): none where the 1 ms has passed. -/
  | jobAck (got : Option (Nat × List Byte))
  /-- JOB_GO (R423). -/
  | jobGo (b : Block) (body : List Byte)
  /-- JOB_CANCEL (R423). -/
  | jobCancel (b : Block) (body : List Byte)
  /-- JOB_T_GO (R423). -/
  | jobTGo (w : LeafSel)
  /-- JOB_REPORT (R423): none where 1 ms has passed since T_GO. -/
  | jobReport (got : Option (List Byte))
  /-- JOB_FIFO_POP (R427). -/
  | jobFifoPop (w : LeafSel) (priv : Nat)
  /-- ENTER (R430). -/
  | modeEnter
  /-- EXIT (R430). -/
  | modeExit
  /-- REHEARSAL_DUE (R438). -/
  | rehearsalDue
  /-- REHEARSAL_DETECT_TIMEOUT (R441). -/
  | rehearsalDetectTimeout
  /-- REHEARSAL_PASS (R441). -/
  | rehearsalPass
  /-- REHEARSAL_ABORT (R440). -/
  | rehearsalAbort
  /-- LANE_HOLD_END (R438). -/
  | laneHoldEnd
  /-- CLOCK_FAIL (R478): a domain of a leaf (Table 19.6), or a source of the crown (Table 19.2; 18 and 19 its references). -/
  | clockFail (b : Block) (d : Nat)
  /-- CLOCK_RETURN (R480). -/
  | clockReturn (b : Block) (d : Nat)
  /-- PLL_LOCK (R473). -/
  | pllLock (d : Nat)
  /-- CLK_CTRL_WRITE (R473). -/
  | clkCtrlWrite (d v : Nat)
  /-- CLOCK_SWITCH_DONE (R474). -/
  | clockSwitchDone (d : Nat)
  /-- PLL_LOCK_TIMEOUT (R484). -/
  | pllLockTimeout (d : Nat)
  /-- RST_CMD (R485): the word written. -/
  | rstCmd (v : Nat)
  /-- FW_LOAD_DATA (R489): four bytes of an image. -/
  | fwLoadData (v mid : Nat)
  /-- FW_LOAD_GO (R489). -/
  | fwLoadGo
  /-- WDOG_KICK (R490): value and master of the write. -/
  | wdogKick (v mid : Nat)
  /-- WDOG_EXPIRE (R490). -/
  | wdogExpire
  /-- FEATURES (R495). -/
  | features (p : List Byte)
  /-- HOST_ENTER (R496). -/
  | hostEnter (p : List Byte)
  /-- HOST_EXIT (R496). -/
  | hostExit (p : List Byte)
  /-- PCIE_LINK_DOWN_TIMEOUT (R496). -/
  | pcieLinkDownTimeout
  /-- MOVE (R495). -/
  | move (p : List Byte)
  /-- CONFIG_COMMAND (R497). -/
  | configCommand (p : List Byte)
  /-- JOB_START_COMMAND (R495). -/
  | jobStartCommand (p : List Byte)
  /-- VIEW_CREATE (R498). -/
  | viewCreate (p : List Byte)
  /-- VIEW_DESTROY (R495). -/
  | viewDestroy (p : List Byte)
  /-- VIEW_FREEZE (R501). -/
  | viewFreeze (p : List Byte)
  /-- VIEW_THAW (R495). -/
  | viewThaw (p : List Byte)
  /-- VIEW_SAVE (R502): `hostData` is what host memory holds of the view's rings. -/
  | viewSave (p hostData : List Byte)
  /-- VIEW_RESTORE (R503): the blob read from host memory. -/
  | viewRestore (p blob : List Byte)
  /-- VIEW_RING_ENABLE (R499): ring `r` of view `v`, and the word written. -/
  | viewRingEnable (v r w : Nat)
  /-- VIEW_DISPATCH (R500): `want` is the ring taken where several of a view pend (log entry 77). -/
  | viewDispatch (want : Nat)
  /-- VIEW_COMPLETION (R500): of the views' queue of kind `r`: 0 engine, 1 tree, 2 Grove. -/
  | viewCompletion (r : Nat)
  /-- VIEW_DMA_GO (R504). -/
  | viewDmaGo (v : Nat) (toHbm : Bool)
  /-- REPLAY_EXPIRE (R333). -/
  | replayExpire
  /-- NOHBM_DEADLINE (R408). -/
  | nohbmDeadline
  /-- L_LINK_RESET_RELEASE (R207). -/
  | lLinkResetRelease (w : LeafSel) (k : Nat)
  /-- L_HOST_RESET_RELEASE (R481). -/
  | lHostResetRelease (w : LeafSel)
  /-- PMBUS_ALERT (R466): the status words read. -/
  | pmbusAlert (words : List Nat)
  /-- DFI_PHY_REQUEST (R464): of controller `k`, raised or withdrawn. -/
  | dfiPhyRequest (k : Nat) (on : Bool)
  /-- MODE_SWITCH (R202): of the transmitter, or of the receiver. -/
  | modeSwitch (b : Block) (lane : Nat) (tx : Bool)
  /-- MODE_LOCKED (R202). -/
  | modeLocked (b : Block) (lane : Nat)
  /-- VIEW_DMA_DONE (R504): the bytes read from host memory. -/
  | viewDmaDone (v : Nat) (bytes : List Byte)
  /-- MOVE_DONE (R495): the bytes read from host memory. -/
  | moveDone (bytes : List Byte)
  /-- JOB_START_DONE (R495). -/
  | jobStartDone
  deriving DecidableEq, Repr

end Sys2Proof
end

