-- ==== Sys2Proof/Machine/Fec.lean ====
section
/-! DEFINITION. The coding of a Bark lane (spec/08_bark_links.md, R183, R186 to R188, R192): RS(544,514), the
scrambler, the codeword, the Bark frame and the transmit shaping. The field x^10 + x^3 + 1 and the generator with roots
α^0 to α^29 are those of IEEE 802.3 clause 91, which R187 names (log entry 22, PRESUMED). -/

namespace Sys2Proof.Machine

/-! ### The field GF(2^10) -/

/-- Product in GF(2^10). -/
def gfMul (a b : Nat) : Nat :=
  (List.range 10).foldr (fun i r =>
    let r2 := if r ≥ 512 then (2 * r) ^^^ 0x409 else 2 * r
    if bitOf b i then r2 ^^^ a else r2) 0

/-- A power in GF(2^10), exponents taken modulo 1023. -/
def gfPow (a n : Nat) : Nat :=
  (List.range 10).foldr (fun i r => let r := gfMul r r; if bitOf (n % 1023) i then gfMul r a else r) 1

/-- The inverse of a nonzero element. -/
def gfInv (a : Nat) : Nat := gfPow a 1022

/-- α^n. -/
def gfExp (n : Nat) : Nat := gfPow 2 n

/-- The value of a polynomial, lowest degree first, at a point. -/
def polyAt (p : List Nat) (x : Nat) : Nat := p.foldr (fun c r => gfMul r x ^^^ c) 0

/-- Sum of two polynomials, lowest degree first. -/
def polyAdd (a b : List Nat) : List Nat :=
  match a, b with
  | [], b => b
  | a, [] => a
  | x :: a, y :: b => (x ^^^ y) :: polyAdd a b

/-- A polynomial times a constant. -/
def polyScale (c : Nat) (p : List Nat) : List Nat := p.map (gfMul c)

/-- Product of two polynomials. -/
def polyMul (a b : List Nat) : List Nat :=
  match a with
  | [] => []
  | x :: a => polyAdd (polyScale x b) (0 :: polyMul a b)

/-! ### RS(544,514) -/

/-- The generator polynomial, lowest degree first. -/
def rsGen : List Nat := (List.range 30).foldl (fun g j => polyMul [gfExp j, 1] g) [1]

/-- The 30 parity symbols of 514 message symbols, first symbol of highest degree. -/
def rsParity (msg : List Nat) : List Nat :=
  let g := (rsGen.take 30).reverse
  msg.foldl (fun r m =>
    let fb := m ^^^ r.headD 0
    List.zipWith (fun x c => x ^^^ gfMul fb c) (r.drop 1 ++ [0]) g) (List.replicate 30 0)

/-- The 30 syndromes of a received word, first symbol of highest degree. -/
def rsSyndromes (w : List Nat) : List Nat :=
  (List.range 30).map (fun j => let a := gfExp j; w.foldl (fun r c => gfMul r a ^^^ c) 0)

/-- The state of the error-locator search. -/
structure Locator where
  sigma : List Nat
  prev : List Nat
  len : Nat
  gap : Nat
  disc : Nat

/-- The error locator of a list of syndromes (Berlekamp and Massey). -/
def rsLocator (s : List Nat) : Locator :=
  (List.range 30).foldl (fun l n =>
    let d := (List.range (l.len + 1)).foldl (fun a i => a ^^^ gfMul (l.sigma.getD i 0) (s.getD (n - i) 0)) 0
    if d = 0 then { l with gap := l.gap + 1 }
    else
      let t := polyAdd l.sigma (List.replicate l.gap 0 ++ polyScale (gfMul d (gfInv l.disc)) l.prev)
      if 2 * l.len ≤ n then ⟨t, l.sigma, n + 1 - l.len, 1, d⟩ else { l with sigma := t, gap := l.gap + 1 })
    ⟨[1], [1], 0, 1, 1⟩

/-- The decoded word and how many symbols were corrected; none beyond 15 symbol errors (R187). -/
def rsDecode (w : List Nat) : Option (List Nat × Nat) :=
  let s := rsSyndromes w
  if s.all (· == 0) then some (w, 0)
  else
    let l := rsLocator s
    let pos := numsWhere 544 (fun i => polyAt l.sigma (gfExp (1023 - i)) == 0)
    if l.len > 15 ∨ pos.length ≠ l.len then none
    else
      let omega := (polyMul s l.sigma).take 30
      let deriv := (List.range (l.sigma.length - 1)).map (fun i => if i % 2 = 0 then l.sigma.getD (i + 1) 0 else 0)
      let fixed := pos.foldl (fun w i =>
        let x := gfExp (1023 - i)
        let e := gfMul (gfExp i) (gfMul (polyAt omega x) (gfInv (polyAt deriv x)))
        setAt w (543 - i) (w.getD (543 - i) 0 ^^^ e)) w
      if (rsSyndromes fixed).all (· == 0) then some (fixed, l.len) else none

/-! ### Bits, scrambler and codeword (R187, R188) -/

/-- The bits of a number, most significant first. -/
def bitsMsb (n v : Nat) : List Bool := (List.range n).map (fun i => bitOf v (n - 1 - i))

/-- The number that bits spell, most significant first. -/
def ofBitsMsb (l : List Bool) : Nat := l.foldl (fun a b => 2 * a + b2n b) 0

/-- The bits of bytes in the order sent, bit 7 of each first. -/
def byteBits (l : List Byte) : List Bool := l.flatMap (fun b => bitsMsb 8 b.toNat)

/-- The list cut into pieces of `n`, at most `k` of them. -/
def chunks {α : Type} (k n : Nat) (l : List α) : List (List α) :=
  match k with
  | 0 => []
  | m + 1 => if l.isEmpty then [] else l.take n :: chunks m n (l.drop n)

/-- The bytes that bits spell, bit 7 of each first. -/
def bitBytes (l : List Bool) : List Byte := (chunks l.length 8 l).map (fun c => BitVec.ofNat 8 (ofBitsMsb c))

/-- One bit through the scrambler x^58 + x^39 + 1: the bit sent and the state, the last bit sent in bit 0. -/
def scrambleBit (st : Nat) (b : Bool) : Bool × Nat :=
  let o := b != (bitOf st 38 != bitOf st 57)
  (o, (2 * st + b2n o) % 2 ^ 58)

/-- One bit through the descrambler, which runs on the bits received. -/
def descrambleBit (st : Nat) (b : Bool) : Bool × Nat := (b != (bitOf st 38 != bitOf st 57), (2 * st + b2n b) % 2 ^ 58)

/-- Bits through one of the two. -/
def runBits (f : Nat → Bool → Bool × Nat) (st : Nat) (l : List Bool) : List Bool × Nat :=
  match l with
  | [] => ([], st)
  | b :: r =>
    let (o, st) := f st b
    let (os, st) := runBits f st r
    (o :: os, st)

/-- A codeword's content (Table 8.3). -/
structure Codeword where
  typ : Nat
  cwi : Nat
  soff : Nat
  tsm : Bool
  payload : List Byte
  deriving DecidableEq, Repr

/-- The 20-bit header (Table 8.3). -/
def Codeword.header (c : Codeword) : Nat := c.typ % 4 * 2 ^ 18 + c.cwi % 8 * 2 ^ 15 + c.soff % 1024 * 2 ^ 5 + b2n c.tsm * 2 ^ 4

/-- The 5,140 message bits: header, then 640 payload bytes (R187). -/
def Codeword.bits (c : Codeword) : List Bool := bitsMsb 20 c.header ++ byteBits ((c.payload ++ zeros 640).take 640)

/-- The content that message bits spell. -/
def Codeword.ofBits (l : List Bool) : Codeword :=
  let h := ofBitsMsb (l.take 20)
  ⟨bitsOf h 19 18, bitsOf h 17 15, bitsOf h 14 5, bitOf h 4, bitBytes ((l.drop 20).take 5120)⟩

/-- The 544 symbols of a codeword and the scrambler's state after it (R187). -/
def Codeword.encode (c : Codeword) (st : Nat) : List Nat × Nat :=
  let (bits, st) := runBits scrambleBit st c.bits
  let msg := (chunks 514 10 bits).map ofBitsMsb
  (msg ++ rsParity msg, st)

/-- A received codeword (R187, R189): the descrambler's state after it, and the content with the symbols corrected, or
none when it is uncorrectable. The descrambler runs on through an uncorrectable codeword on the bits as received. -/
def Codeword.decode (w : List Nat) (st : Nat) : Nat × Option (Codeword × Nat) :=
  match rsDecode w with
  | none => ((runBits descrambleBit st ((w.take 514).flatMap (bitsMsb 10))).2, none)
  | some (w, k) =>
    let (bits, st) := runBits descrambleBit st ((w.take 514).flatMap (bitsMsb 10))
    (st, some (Codeword.ofBits bits, k))

/-! ### Markers, symbols and shaping (R183, R186, R192) -/

/-- The alignment-marker pattern (R186). -/
def markerPattern : Nat := 0xA5F03C965A0FC369

/-- A PAM4 level of a bit pair (R183). -/
def pam4 (hi lo : Bool) : Int := if hi then (if lo then 1 else 3) else (if lo then -1 else -3)

/-- The levels of a run of bits in a mode (R183): pairs in PAM4, single bits in NRZ. -/
def levels (isPam : Bool) (l : List Bool) : List Int :=
  match l with
  | [] => []
  | [b] => [if isPam then pam4 b false else if b then 3 else -3]
  | a :: b :: r => if isPam then pam4 a b :: levels isPam r else (if a then 3 else -3) :: levels isPam (b :: r)

/-- Whether a mode is PAM4 (Table 8.2). -/
def modePam (m : Nat) : Bool := m ≥ 2

/-- ADC and DAC samples in a nanosecond, in every mode (R182). -/
def samplesPerNs : Nat := 112

/-- GBd of a mode (Table 8.2). -/
def baud (m : Nat) : Nat := match m with
  | 0 => 8
  | 3 => 64
  | 4 => 112
  | _ => 32

/-- The levels of a Bark frame of a mode: the marker, neither scrambled nor coded, and eight codewords (R186), with the
scrambler's state after it. -/
def barkFrame (mode : Nat) (cws : List Codeword) (st : Nat) : List Int × Nat :=
  let marker := bitsMsb 64 markerPattern ++ (if modePam mode then bitsMsb 64 markerPattern else [])
  let (bits, st) := (cws.take 8).foldl (fun (a : List Bool × Nat) c =>
    let (w, st) := c.encode a.2
    (a.1 ++ w.flatMap (bitsMsb 10), st)) ([], st)
  (levels (modePam mode) marker ++ levels (modePam mode) bits, st)

/-- The code of a symbol from its neighbours and the signed taps (R183). -/
def txCode (pre main post before cur after : Int) : Nat :=
  (max 0 (min 63 (32 + Int.tdiv (pre * after + main * cur + post * before) 8))).toNat

/-- The codes of a run of symbols, each shaped by its neighbours; `before` is the level before the first, and the last only shapes the one before it (R183). -/
def shapeRun (fir : Nat) (before : Int) (l : List Int) : List Nat := match l with
  | cur :: after :: r => txCode (sgn 8 (bitsOf fir 31 24)) (sgn 8 (bitsOf fir 23 16)) (sgn 8 (bitsOf fir 15 8)) before cur after :: shapeRun fir cur (after :: r)
  | _ => []

/-- The slots of one nanosecond: each carries the code of the symbol whose interval contains its instant (R183). -/
def slotsOf (b : Nat) (codes : List Nat) : List Nat := (List.range samplesPerNs).map (fun p => codes.getD (p * b / samplesPerNs) 32)

/-- A transmit word: slot j in bits [6j+5:6j] (R182). -/
def txWord (codes : List Nat) : Nat := codes.foldr (fun c w => w * 64 + c % 64) 0

/-- The 64 samples of a receive word: slot j in bits [7j+6:7j], two's complement (R182). -/
def adcSamples (w : Nat) : List Int := (List.range 64).map (fun j => sgn 7 (bitsOf w (7 * j + 6) (7 * j)))

/-- One bit of PRBS31 (x^31 + x^28 + 1) and its state (R192; the polynomial is the usual one, log entry 22). -/
def prbsBit (st : Nat) : Bool × Nat :=
  let b := bitOf st 30 != bitOf st 27
  (b, (2 * st + b2n b) % 2 ^ 31)

/-- Bits of PRBS31. -/
def prbsBits (n st : Nat) : List Bool × Nat :=
  match n with
  | 0 => ([], st)
  | m + 1 =>
    let (b, st) := prbsBit st
    let (r, st) := prbsBits m st
    (b :: r, st)

/-! ### Figures in 0.1 dB and 0.01 (R201) -/

/-- Whether 10^k × b^100 ≤ a^100 for an integer k. -/
def logAtLeast (a b : Nat) (k : Int) : Bool :=
  if k ≥ 0 then decide (10 ^ k.toNat * b ^ 100 ≤ a ^ 100) else decide (b ^ 100 ≤ a ^ 100 * 10 ^ (-k).toNat)

/-- floor(100 × log10(a / b)) by halving, within ±2^12; `a` and `b` positive. -/
def floorLog (a b : Nat) : Int :=
  (List.range 13).foldr (fun i (k : Int) => if logAtLeast a b (k + 2 ^ i) then k + 2 ^ i else k) (-4096)

/-- ESNR of a window in 0.1 dB from the mean square slicer error, given as a fraction (R201). -/
def esnrOf (mode num den : Nat) : Int := satInt 16 (floorLog ((if modePam mode then 5 else 1) * den) num)

/-- NLOG_SER of a window (R201): `cw` codewords, `e` corrected symbols plus 16 for each uncorrectable one. -/
def nlogSer (cw e : Nat) : Nat := if e = 0 then 0xFFFF else min 0xFFFE (floorLog (544 * cw) e).toNat

end Sys2Proof.Machine
end

