-- ==== Sys2Proof/Machine/Ops.lean ====
section
/-! DEFINITION. The named operations over a node's registers, time, outputs and free values. -/

namespace Sys2Proof.Machine

/-- The register table of the node's window. -/
def Node.table (n : Node) : List RegDesc := if n.crown then crownTable else leafTable

/-- The stored value of the register at an offset (R11: its reset value until it is written). -/
def Node.word (n : Node) (off : Nat) : Word := n.regs.get (resetOf n.table) off

/-- The node with a register's stored value replaced. -/
def Node.setWord (n : Node) (off : Nat) (v : Word) : Node := { n with regs := n.regs.set (resetOf n.table) off v }

/-- A field of a register. -/
def Node.g (n : Node) (f : Fld) : Nat := bitsOf (n.word f.off).toNat f.hi f.lo

/-- The node with a field set, the register's other bits unchanged. -/
def Node.s (n : Node) (f : Fld) (v : Nat) : Node :=
  n.setWord f.off (BitVec.ofNat 32 (putBits (n.word f.off).toNat f.hi f.lo v))

/-- A saturating count in a field. -/
def Node.inc (n : Node) (f : Fld) (k : Nat) : Node := n.s f (satAdd (f.hi + 1 - f.lo) (n.g f) k)

/-- A field as a flag. -/
def Node.flag (n : Node) (f : Fld) : Bool := n.g f != 0

/-- Something leaves at a port. -/
def Node.emit (n : Node) (o : Out) : Node := { n with out := n.out ++ [o] }

/-- A message acts where its node words pass R18 and R19; a crown discards one that carries a malformed word and counts it, a leaf applies no
test (R18). -/
def Node.judged (n : Node) (ws os : List Nat) (f : Node → Node) : Node :=
  if n.crown && !nodesGood ws os then n.inc BZ_NODE_BAD_COUNT 1 else f n

/-- A free value of `w` bits and the node after drawing it (log entry 3). -/
def Node.draw (n : Node) (w : Nat) : Nat × Node := (Config.free n.fresh % 2 ^ w, { n with fresh := n.fresh + 1 })

/-- A write of software to a register with no behaviour of its own (R8 to R10, R12). -/
def Node.write (n : Node) (off : Nat) (v : Nat) : Node :=
  match findReg n.table off with
  | none => n
  | some (d, _, _) => n.setWord off (BitVec.ofNat 32 (writeFields d.fields (n.word off).toNat v))

/-- What a read returns of the stored value (R12). -/
def Node.read (n : Node) (off : Nat) : Nat :=
  match findReg n.table off with
  | none => 0
  | some (d, _, _) => readFields d.fields (n.word off).toNat

/-- An access is a whole, aligned word: `be` marks the bytes it names, from `off` on (R8). -/
def wholeWord (off be : Nat) : Bool := off % 4 == 0 && be == 0xF

/-- Whether the register at an offset is cleared by a read (Table 0.7, RC). -/
def Node.isRc (n : Node) (off : Nat) : Bool :=
  match findReg n.table off with
  | none => false
  | some (d, _, _) => d.fields.any (fun f => f.acc == .rc)

/-- The read of an RC register clears the whole register (R12). -/
def Node.clearRc (n : Node) (off : Nat) : Node := if n.isRc off then n.setWord off 0 else n

/-- Every register of a scope back at its reset value (R11, R481, R483). -/
def Node.resetRegs (n : Node) (sc : Scope) : Node :=
  { n with regs := n.regs.filter (fun e => !inScope n.table sc e.1) }

/-! ### Time and stamps -/

/-- The base of the time registers in the node's window (R58, R59). -/
def Node.tb (n : Node) : Nat := if n.crown then 0x10000 else 0x400

/-- The visible time word in units of 2^-32 ns (R32). -/
def Node.now (n : Node) : Nat := n.time.word / 2 ^ 16

/-- The visible time word in whole microseconds since the epoch (R77). -/
def Node.nowUs (n : Node) : Nat := n.now / fracPerNs / 1000

/-- STEPPED (R43). -/
def Node.stepped (n : Node) : Bool := n.flag (TIME_STATUS_STEPPED n.tb)

/-- FAULT (R46). -/
def Node.tfault (n : Node) : Bool := n.flag (TIME_STATUS_FAULT n.tb)

/-- QUAL of a stamp taken now (R34). -/
def Node.qual (n : Node) : Qual :=
  if !n.stepped then .preStep
  else if n.tfault then .fault
  else if n.g (TIME_STATUS_STATE n.tb) = 2 then .locked
  else .notLocked

/-- A stamp taken now. -/
def Node.stamp (n : Node) : Stamp := ⟨n.now, n.qual⟩

/-- The step value in units of 2^-32 ns, signed (R43). -/
def Node.delta (n : Node) : Int :=
  let sec := sgn 64 (n.g (TIME_STEP_SEC_HI_SEC_HI n.tb) * 2 ^ 32 + n.g (TIME_STEP_SEC_SEC n.tb))
  (sec * nsPerSec + n.g (TIME_STEP_NS_NSEC n.tb)) * fracPerNs + n.g (TIME_STEP_FRAC_FRAC n.tb)

/-- The node's own node word as the source of its frames (R142): a self leaf its SELF node word, a leaf without a number
0x0800_0000. -/
def Node.src (n : Node) : Nat :=
  if n.crown then n.g BZ_NODE_WORD
  else if let some w := n.selfWord then w
  else if n.flag TZ_NODE_VALID then n.g TZ_NODE_ADDR else 0x08000000

/-- The base of lane `k`'s registers (R208). -/
def Node.lb (n : Node) (k : Nat) : Nat := if n.crown then 0x40000 + 0x400 * k else 0x3900 + 0x100 * k

/-- Lane `k` behind its registers. -/
def Node.lane (n : Node) (k : Nat) : Lane := n.lanes.get (fun _ => Lane.reset) k

/-- The node with lane `k` replaced. -/
def Node.setLane (n : Node) (k : Nat) (l : Lane) : Node := { n with lanes := n.lanes.set (fun _ => Lane.reset) k l }

/-- Lane `k` is in service (R200). -/
def Node.up (n : Node) (k : Nat) : Bool := n.flag (BK_STAT_IN_SERVICE (n.lb k))

/-- A change to a lane's transmitter. -/
def Node.onTx (n : Node) (k : Nat) (f : LaneTx → LaneTx) : Node := n.setLane k { n.lane k with tx := f (n.lane k).tx }

/-- A change to a lane's receiver. -/
def Node.onRx (n : Node) (k : Nat) (f : LaneRx → LaneRx) : Node := n.setLane k { n.lane k with rx := f (n.lane k).rx }

/-- Picoseconds in units of 2^-32 ns, rounded down (log entry 16). -/
def psFrac (ps : Nat) : Nat := ps * fracPerNs / 1000

/-- LAT_TX and LAT_RX of a lane, in 2^-32 ns (R35, R36, R59). -/
def Node.latTx (n : Node) (k : Nat) : Nat := psFrac (if n.crown then n.g (BZ_TIME_LATk_LAT_TX k) else n.g TZ_TIME_LAT_LAT_TX)
def Node.latRx (n : Node) (k : Nat) : Nat := psFrac (if n.crown then n.g (BZ_TIME_LATk_LAT_RX k) else n.g TZ_TIME_LAT_LAT_RX)

/-- The queue of a class: a leaf's by class, a crown's by lane and class. -/
def Node.q (n : Node) (k : Nat) : ClassQ := n.pack.get (fun _ => ClassQ.empty) k

/-- The node with a class queue replaced. -/
def Node.setQ (n : Node) (k : Nat) (c : ClassQ) : Node := { n with pack := n.pack.set (fun _ => ClassQ.empty) k c }

/-- The key of a class queue (leaf: the class; crown: lane and class). -/
def Node.key (n : Node) (lane cls : Nat) : Nat := if n.crown then lane * 8 + cls else cls

/-- Saturating count at the register of an exact name (R12, "saturates"). -/
def Node.count (n : Node) (f : Fld) : Node := n.inc f 1

/-- One tick of the node: a nanosecond passes, and a running time unit adds 1 ns × (1 + RATE × 2^-48) to its word
(R32; log entry 1). `runs` is false while the TIME domain has no clock or is held in reset (R478, R481), `aonRuns` while AON has none:
local and operating seconds stop then (Tables 19.4, 19.5). -/
def Node.tick (runs aonRuns : Bool) (n : Node) : Node :=
  let rate := sgn 40 (n.g (TIME_RATE_HI_RATE_HI n.tb) * 2 ^ 32 + n.g (TIME_RATE_LO_RATE_LO n.tb))
  let t := n.time
  { n with ns := n.ns + 1, ring := if aonRuns then { n.ring with localNs := n.ring.localNs + 1 } else n.ring, time := if runs then { t with word := ((t.word : Int) + 2 ^ 48 + rate).toNat } else t }

end Sys2Proof.Machine
end

