-- ==== Sys2Proof/Machine/Rice.lean ====
section
/-! DEFINITION. The Sap compressor and its decoder (R152 to R156). -/

namespace Sys2Proof.Machine

/-- Raw byte `n` of the frame, 0 before its start (R153). -/
def rawAt (x : List Nat) (n : Int) : Nat := if n < 0 then 0 else x.getD n.toNat 0

/-- The prediction of byte `n` (Table 6.7): 0 NONE, 1 LEFT, 2 STRIDE, 3 DELTA. -/
def ricePredict (p : Nat) (x : List Nat) (n s : Nat) : Nat :=
  match p with
  | 0 => 0
  | 1 => rawAt x ((n : Int) - 1)
  | 2 => rawAt x ((n : Int) - s)
  | _ => (2 * rawAt x ((n : Int) - s) + 256 - rawAt x ((n : Int) - 2 * s)) % 256

/-- The mapped residual u of byte `n` (R153). -/
def riceU (p : Nat) (x : List Nat) (n s : Nat) : Nat :=
  let r := (x.getD n 0 + 256 - ricePredict p x n s) % 256
  if r < 128 then 2 * r else 2 * (256 - r) - 1

/-- The mapped residuals of a block. -/
def riceBlockU (p : Nat) (x : List Nat) (b len s : Nat) : List Nat :=
  (List.range len).map (fun j => riceU p x (64 * b + j) s)

/-- The CODED length of residuals in bits at parameter `k` (R153). -/
def riceBits (k : Nat) (us : List Nat) : Nat := us.foldl (fun a u => a + u / 2 ^ k + 1 + k) 0

/-- The bits of one residual: q ones, a zero, then K low bits, most significant first (R153). -/
def riceCode (k u : Nat) : List Bool :=
  List.replicate (u / 2 ^ k) true ++ [false] ++ ((List.range k).reverse.map (fun i => bitOf u i))

/-- Bits packed into bytes, most significant first, padded with zeros; `n` is the number of bytes. -/
def packBits (n : Nat) (l : List Bool) : List Byte :=
  match n with
  | 0 => []
  | m + 1 => BitVec.ofNat 8 ((List.range 8).foldl (fun a i => a * 2 + b2n (l.getD i false)) 0) :: packBits m (l.drop 8)

/-- The shortest CODED choice of a block: bits, predictor, K; ties to the lower predictor, then the lower K (R154). -/
def riceBest (x : List Nat) (b len s : Nat) : Nat × Nat × Nat :=
  (List.range 4).foldl (fun best p =>
    let us := riceBlockU p x b len s
    (List.range 8).foldl (fun best k => let n := riceBits k us; if n < best.1 then (n, p, k) else best) best)
    (2 ^ 20, 0, 0)

/-- One coded block, header byte first (R153, R154). -/
def riceBlock (x : List Nat) (b len s : Nat) : List Byte :=
  match lowest 4 (fun p => (riceBlockU p x b len s).all (· == 0)) with
  | some p => byte (128 + 16 * p)
  | none =>
    let (n, p, k) := riceBest x b len s
    let bytes := (n + 7) / 8
    if bytes ≥ len then byte 0x40 ++ ((x.drop (64 * b)).take len).map (BitVec.ofNat 8)
    else byte (16 * p + 2 * k) ++ packBits bytes ((riceBlockU p x b len s).flatMap (riceCode k))

/-- Blocks coded until one does not fit the payload limit or the raw bytes end: the bytes coded, the number of blocks
taken and whether the packer stopped (R155). -/
def riceBlocks (fuel : Nat) (x : List Nat) (s limit b : Nat) (acc : List Byte) : List Byte × Nat × Bool :=
  match fuel with
  | 0 => (acc, b, false)
  | m + 1 =>
    let len := min 64 (x.length - 64 * b)
    if len = 0 then (acc, b, false)
    else
      let c := riceBlock x b len s
      if 16 + acc.length + c.length > limit ∧ b ≥ 1 then (acc, b, true)
      else riceBlocks m x s limit (b + 1) (acc ++ c)

/-- A compressed payload of raw bytes under a payload limit, with the raw bytes it consumed and whether it stopped
(R152 to R155). A STRIDE of 0 acts as 1 (Table 6.11). -/
def riceEncode (raw : List Byte) (stride limit : Nat) : List Byte × Nat × Bool :=
  let s := if stride = 0 then 1 else stride
  let x := raw.map (·.toNat)
  let (body, nb, stopped) := riceBlocks (raw.length + 1) x s limit 0 []
  let used := min raw.length (64 * nb)
  let head := le 4 used ++ le 4 (crc32c (raw.take used)) ++ le 2 nb ++ byte s ++ byte 1 ++ byte (b2n stopped) ++ zeros 3
  (head ++ body, used, stopped)

/-- The bits of a byte string from a position on. -/
def bitAt (l : List Byte) (i : Nat) : Bool := ((l.getD (i / 8) 0).toNat).testBit (7 - i % 8)

/-- The count of one bits before the next zero, and the position after it; none when the bytes end first. -/
def unary (fuel : Nat) (l : List Byte) (i q : Nat) : Option (Nat × Nat) :=
  match fuel with
  | 0 => none
  | m + 1 => if i ≥ 8 * l.length then none else if bitAt l i then unary m l (i + 1) (q + 1) else some (q, i + 1)

/-- The number in the next `k` bits, most significant first. -/
def bitsAt (l : List Byte) (i k : Nat) : Nat := (List.range k).foldl (fun a j => a * 2 + b2n (bitAt l (i + j))) 0

/-- One byte of a block decoded: the new raw byte and the bit position after it (R153). -/
def riceByte (l : List Byte) (x : List Nat) (coded : Bool) (p k s i : Nat) : Option (Nat × Nat) :=
  let n := x.length
  let out (u : Nat) : Nat :=
    let pr := ricePredict p x n s
    if u % 2 = 0 then (pr + u / 2) % 256 else (pr + 256 - (u + 1) / 2) % 256
  if coded then
    match unary 300 l i 0 with
    | none => none
    | some (q, j) =>
      let u := q * 2 ^ k + bitsAt l j k
      if u > 255 ∨ j + k > 8 * l.length then none else some (out u, j + k)
  else some (out 0, i)

/-- The bytes of one block decoded. -/
def riceRun (cnt : Nat) (l : List Byte) (x : List Nat) (coded : Bool) (p k s i : Nat) : Option (List Nat × Nat) :=
  match cnt with
  | 0 => some (x, i)
  | m + 1 => match riceByte l x coded p k s i with
    | none => none
    | some (v, j) => riceRun m l (x ++ [v]) coded p k s j

/-- The blocks decoded from byte position `pos` (R153). -/
def riceDecodeBlocks (nb : Nat) (l : List Byte) (rawLen s pos : Nat) (x : List Nat) : Option (List Nat × Nat) :=
  match nb with
  | 0 => some (x, pos)
  | m + 1 =>
    let len := if m = 0 then rawLen - x.length else 64
    let h := (l.getD pos 0).toNat
    if pos ≥ l.length then none
    else match h / 64 with
    | 3 => none
    | 1 => if pos + 1 + len > l.length then none
           else riceDecodeBlocks m l rawLen s (pos + 1 + len) (x ++ ((l.drop (pos + 1)).take len).map (·.toNat))
    | md =>
      match riceRun len l x (md == 0) (h / 16 % 4) (h / 2 % 8) s (8 * (pos + 1)) with
      | none => none
      | some (y, i) => riceDecodeBlocks m l rawLen s (if md = 0 then (i + 7) / 8 else pos + 1) y

/-- The raw bytes of a compressed payload whose frame carries `rlen` raw bytes; none when decoding fails (R156). -/
def riceDecode (l : List Byte) (rlen : Nat) : Option (List Byte) :=
  let rawLen := field l 0 4
  let nb := field l 8 2
  let s := field l 10 1
  if rawLen = 0 ∨ rawLen ≠ rlen ∨ nb ≠ (rawLen + 63) / 64 ∨ s = 0 ∨ field l 11 1 ≠ 1 then none
  else match riceDecodeBlocks nb l rawLen s 16 [] with
    | none => none
    | some (x, pos) =>
      let raw := x.map (BitVec.ofNat 8)
      if pos = l.length ∧ crc32c raw = field l 4 4 then some raw else none

end Sys2Proof.Machine
end

