-- ==== Sys2Proof/Machine/Sap.lean ====
section
/-! DEFINITION. The Sap packer, its frames, overload and loss accounting, and the receiver's rules
(spec/06_sap_streams.md, R137 to R164): what every unit that produces or receives a record calls. -/

namespace Sys2Proof.Machine

/-! ### Class settings -/

/-- The class of a queue key. -/
def Node.clsOf (n : Node) (k : Nat) : Nat := if n.crown then k % 8 else k

/-- COMP of a class (Table 6.3; 0 for the strict classes, R140). A class with FMAX = 0 goes uncompressed (R154). -/
def Node.comp (n : Node) (k : Nat) : Bool :=
  let c := n.clsOf k
  if n.crown then [false, false, false, true, true, true, true, false].getD c false
  else c ≥ 3 && n.flag (TZ_SAPQk_CTRL_COMP c) && n.g (TZ_SAPQk_CTRL_FMAX c) != 0

/-- The payload limit of a class: (FMAX + 1) × 64 bytes (R144). -/
def Node.payLimit (n : Node) (k : Nat) : Nat :=
  let c := n.clsOf k
  let f := if n.crown then [3, 3, 3, 63, 63, 63, 63, 63].getD c 0 else n.g (TZ_SAPQk_CTRL_FMAX c)
  (f + 1) * 64

/-- STRIDE of a class. -/
def Node.stride (n : Node) (k : Nat) : Nat :=
  let c := n.clsOf k
  if n.crown then [1, 1, 1, 8, 12, 4, 1, 1].getD c 1 else n.g (TZ_SAPQk_CTRL_STRIDE c)

/-- HOLD_US of a class; strict classes do not hold (R144). -/
def Node.holdNs (n : Node) (k : Nat) : Nat :=
  let c := n.clsOf k
  if c < 3 then 0 else (if n.crown then 10 else n.g (TZ_SAPQk_CTRL_HOLD_US c)) * 1000

/-- The class's share of the holding buffer, in bytes (QSIZE × 4 KiB, R157); in a crown its lane's egress share: 1 MiB for
lanes 64 to 71, 64 KiB for a downlink (R235, R236; log entry 13). -/
def Node.qSize (n : Node) (k : Nat) : Nat :=
  if n.crown then (if k / 8 ≥ 64 then 1048576 else 65536) else n.g (TZ_SAPQk_CTRL_QSIZE (n.clsOf k)) * 4096

/-- The bytes of a record with its envelope. -/
def Rec.bytes (r : Rec) : List Byte := envelope r.kind r.body

/-- FILL: the queue's bytes, records held included (R157). -/
def ClassQ.fill (c : ClassQ) : Nat :=
  c.queue.foldl (fun a e => a + 4 + e.rec_.body.length) 0 + c.heads.foldl (fun a b => a + b.length) 0 + c.rest.length
    + c.frames.foldl (fun a e => a + e.frame.len) 0 - c.part

/-- The store's frames of the last REPLAY_US, up to 16 KiB, newest kept (R147). -/
def trimStore (now us : Nat) (l : List Kept) : List Kept :=
  let young := l.filter (fun k => now ≤ k.at_ + us * 1000)
  (young.foldr (fun k a => if a.2 + k.frame.len ≤ 16384 then (k :: a.1, a.2 + k.frame.len) else (a.1, 16384 + 1)) ([], 0)).1

/-- REPLAY_US of the node. -/
def Node.replayUs (n : Node) : Nat := if n.crown then 64 else n.g TZ_SAP_PK_CTRL_REPLAY_US

/-- Bytes of the replay store, which takes its room from QSIZE: the frames of the last REPLAY_US, or those it froze with (R147). -/
def Node.storeBytes (n : Node) (k : Nat) : Nat :=
  let c := n.q k
  (if c.frozen then c.store else trimStore n.ns n.replayUs c.store).foldl (fun a k => a + k.frame.len) 0

/-- Whether a record of `len` body bytes fits the class's share: a weighted queue keeps 64 bytes for its LOSS record
(R157), and reserved bytes are taken (R158). -/
def Node.fits (n : Node) (k len : Nat) : Bool :=
  let c := n.q k
  let spare := if n.clsOf k < 3 then 0 else 64
  decide (c.fill + n.storeBytes k + c.reserved + 4 + len + spare ≤ n.qSize k)

/-! ### Handing a record to the packer (R143, R158) -/

/-- Records when FILL last came down to a quarter, or that it is above it (R157): called wherever FILL may change. -/
def Node.watchFill (n : Node) (k : Nat) : Node :=
  let c := n.q k
  if 4 * c.fill ≤ n.qSize k then (if c.lowSince.isSome then n else n.setQ k { c with lowSince := some n.ns })
  else if c.lowSince.isSome then n.setQ k { c with lowSince := none } else n

/-- Counts a record thinned, dropped or merged into the growth its next LOSS record reports (R159). -/
def ClassQ.lost (c : ClassQ) (t thin drop dropB merge : Nat) : ClassQ :=
  let fresh := c.thinned + c.dropped + c.droppedBytes + c.merged = 0
  { c with thinned := c.thinned + thin, dropped := c.dropped + drop, droppedBytes := c.droppedBytes + dropB,
           merged := c.merged + merge, lostAll := c.lostAll + thin + drop, first := if fresh then t else min c.first t, last := if fresh then t else max c.last t }

/-- The packer thins a record: THIN counts it (R158). -/
def Node.thin (n : Node) (k : Nat) (r : Rec) : Node :=
  let n := n.setQ k ((n.q k).lost r.stamp.t 1 0 0 0)
  if n.crown then n else n.count (TZ_SAPQk_THIN_COUNT k)

/-- The packer drops a record: DROP_REC and DROP_BYTES count it (R158). -/
def Node.drop (n : Node) (k : Nat) (r : Rec) : Node :=
  let n := n.setQ k ((n.q k).lost r.stamp.t 0 1 r.body.length 0)
  if n.crown then n else (n.count (TZ_SAPQk_DROP_REC_COUNT k)).inc (TZ_SAPQk_DROP_BYTES_COUNT k) r.body.length

/-- Whether a record is held until STEPPED rises: taken before the step and not of C0 (R47, R143). -/
def Rec.held (r : Rec) : Bool := r.stamp.qual == .preStep && r.cls != 0

/-- The record at the tail of its queue (R143); one stamped before the step that comes after it is corrected on entry
(R47). -/
def Node.append (n : Node) (k : Nat) (r : Rec) : Node :=
  let c := n.q k
  let r := if r.held && n.stepped then r.corrected n.delta else r
  (n.setQ k { c with queue := c.queue ++ [⟨r, r.held && !n.stepped, n.ns⟩] }).watchFill k

/-- A BIN_CLOSE record of Table 3.6. -/
def Rec.isBinClose (r : Rec) : Bool := r.kind == 2 && field r.body 16 1 == 1

/-- Two BIN_CLOSE records of one TWIG and TAG (R158). -/
def Rec.sameBin (a b : Rec) : Bool :=
  a.isBinClose && b.isBinClose && field a.body 18 1 == field b.body 18 1 && field a.body 24 4 == field b.body 24 4

/-- Two BIN_CLOSE records merged: BUSY and STALL add, the lower OPEN_SEQ stays, MIXED is the OR (R158). -/
def Rec.mergeBin (a b : Rec) : Rec :=
  let f := fun i w => field a.body i w + field b.body i w
  let body := overwrite a.body 28 (le 6 (f 28 6) ++ le 6 (f 34 6))
  let body := overwrite body 20 (le 2 (min (field a.body 20 2) (field b.body 20 2)))
  let mixed := bitOf (field a.body 22 1) 4 || bitOf (field b.body 22 1) 4
  { a with body := overwrite body 22 (byte (putBits (field a.body 22 1) 4 4 (b2n mixed))) }

/-- The queue with the record merged into the first queued BIN_CLOSE of its bin not yet partly sent; none when there is
no such record. -/
def mergeInto (part : Nat) (l : List Queued) (r : Rec) : Option (List Queued) :=
  match l with
  | [] => none
  | e :: t =>
    if part = 0 ∧ e.rec_.sameBin r then some ({ e with rec_ := e.rec_.mergeBin r } :: t)
    else (mergeInto 0 t r).map (e :: ·)

/-- What the packer does with a record of a class at its level (Table 6.8). -/
inductive Fate where
  | taken | thinned | dropped | waits
  | merged (queue : List Queued)
  deriving DecidableEq, Repr

/-- The fate of a record at the packer (R158): C4 thins by SWEEP_SEQ, C5 merges and drops by level, a full weighted
queue drops C4 and makes the source of any other class wait; strict sources wait. -/
def Node.fate (n : Node) (k : Nat) (r : Rec) (sweepSeq : Option Nat) : Fate :=
  let c := n.q k
  let cls := n.clsOf k
  let lv := if cls < 3 then 0 else c.level
  let thins := match sweepSeq with
    | some s => lv ≥ 1 && s % 2 ^ lv != 0
    | none => false
  let snap := r.kind == 2 && field r.body 16 1 == 2
  let point := r.kind == 2 && field r.body 16 1 == 3 && field r.body 20 1 == 2
  if cls = 4 && thins then .thinned
  else if cls = 5 && lv ≥ 2 && snap then .dropped
  else if cls = 5 && lv ≥ 4 && point then .dropped
  else
    match if cls = 5 ∧ lv ≥ 1 then mergeInto c.part c.queue r else none with
    | some q => .merged q
    | none => if n.fits k r.body.length then .taken else if cls = 4 then .dropped else .waits

/-- A source hands a record to the packer (R143, R158, RECORD_ENQUEUE). `true`: the packer disposed of it; `false`: the
source waits and keeps it. -/
def Node.offer (n : Node) (k : Nat) (r : Rec) (sweepSeq : Option Nat) : Bool × Node :=
  match n.fate k r sweepSeq with
  | .taken => (true, n.append k r)
  | .thinned => (true, n.thin k r)
  | .dropped => (true, n.drop k r)
  | .merged q =>
    let c := ({ n.q k with queue := q }).lost r.stamp.t 0 0 0 1
    let n := n.setQ k c
    (true, if n.crown then n else n.count (TZ_SAPQk_MERGED_COUNT k))
  | .waits => (false, n)

/-- A unit posts a record: when the queue cannot take it, or others wait already, it waits with its source, behind them (R158). -/
def Node.post (n : Node) (lane : Nat) (r : Rec) : Node :=
  let k := n.key lane r.cls
  let wait := fun (n : Node) => n.setQ k { n.q k with waits := (n.q k).waits ++ [r] }
  if (n.q k).waits.isEmpty then (let (done, m) := n.offer k r none; if done then m else wait m) else wait n

/-- Sources that wait hand over their records, oldest first, while the queue takes them (R158). -/
def Node.letIn (n : Node) (k : Nat) : Node :=
  let step := fun (a : Node × List Rec) (r : Rec) => if a.2.isEmpty then (let (done, m) := a.1.offer k r none; (m, if done then [] else [r])) else (a.1, a.2 ++ [r])
  let (m, left) := (n.q k).waits.foldl step (n.setQ k { n.q k with waits := [] }, [])
  m.setQ k { m.q k with waits := left }

/-- The leaf's class queues after the L-SAP reset, which counts as a change of level (R157). -/
def Node.packReset (n : Node) : Node :=
  (List.range 8).foldl (fun (n : Node) k => n.setQ k { ClassQ.empty with levelAt := n.ns, lowSince := some n.ns }) { n with pack := [] }

/-- The lane that carries Q3 to Q7 upward (R228). -/
def Node.weightLane (n : Node) : Nat := n.flexLane.getD n.upLane

/-- The lanes observation of a class takes upward: a pod crown sends the same to both roots (R30; log entry 83), over its flex lane while no up
lane is in service (R228). -/
def Node.upLanes (n : Node) (cls : Nat) : List Nat :=
  (if n.crown && n.g BZ_STRAP_ROLE == 2 && decide (n.upLane < 70) then [64, 65] else [n.upLane]).map (fun k => if cls ≥ 3 ∧ k = n.upLane then n.weightLane else k)

/-- A record of the node's own toward the root. -/
def Node.postUp (n : Node) (r : Rec) : Node := (n.upLanes r.cls).foldl (fun n k => n.post k r) n

/-- The step corrects and frees every held record: Δ is added to each stamp and QUAL becomes 0b01 (R47, R143). -/
def Node.release (n : Node) (delta : Int) : Node :=
  { n with pack := n.pack.map (fun e => (e.1, { e.2 with queue := e.2.queue.map (fun q =>
      if q.held then { q with rec_ := q.rec_.corrected delta, held := false } else q) })) }

/-! ### Closing a frame (R143, R144, R155, R159) -/

/-- The body of a LOSS record (Table 6.9). -/
def ClassQ.lossBody (c : ClassQ) (cls : Nat) : List Byte :=
  let s := fun x => le 4 (min x (2 ^ 32 - 1))
  twBytes c.first ++ twBytes c.last ++ byte cls ++ byte c.level ++ zeros 2 ++ s c.thinned ++ s c.dropped
    ++ s c.droppedBytes ++ s c.merged ++ le 4 (c.lossSeq + 1)

/-- Whether the class has a LOSS record to send (R159). -/
def ClassQ.owesLoss (c : ClassQ) : Bool := c.thinned + c.dropped + c.droppedBytes + c.merged != 0

/-- The records that may be framed: those before the first held one (R143). -/
def ClassQ.eligible (c : ClassQ) : List Queued := c.queue.takeWhile (fun e => !e.held)

/-- A run of stream bytes: the bytes, and whether an envelope begins there. -/
structure Piece where
  bytes : List Byte
  begins : Bool
  deriving DecidableEq, Repr

/-- Bytes of a record partly framed that are still to be sent. -/
def ClassQ.left (c : ClassQ) : List Byte := match c.queue with
  | [] => []
  | e :: _ => if c.part = 0 then [] else e.rec_.bytes.drop c.part

/-- As many records from the front as `room` bytes hold whole. -/
def headsFit (room : Nat) (l : List (List Byte)) : List (List Byte) := match l with
  | [] => []
  | b :: r => if b.length ≤ room then b :: headsFit (room - b.length) r else []

/-- The class's stream from the next raw byte on, piece by piece (R143; log entry 15): what is left of a record partly framed; then, at the
head, the LOSS record and the time messages; then the queue. A time message begins a frame (R190): a record partly framed ends the frame before
it, and time messages that do not fit wait for the next. -/
def ClassQ.pieces (c : ClassQ) (loss : List (List Byte)) (limit : Nat) : List Piece :=
  let lead := c.rest ++ c.left
  let lead := if lead.isEmpty then [] else [Piece.mk lead false]
  let qs := (if c.part = 0 then c.eligible else c.eligible.drop 1).map (fun e => Piece.mk e.rec_.bytes true)
  if c.heads.isEmpty then lead ++ loss.map (Piece.mk · true) ++ qs
  else if !lead.isEmpty then lead
  else
    let hs := headsFit limit (loss ++ c.heads)
    hs.map (Piece.mk · true) ++ (if hs.length = (loss ++ c.heads).length then qs else [])

/-- The offset of the first envelope that begins within the first `len` bytes; 0xFFFF when none does (Table 6.4). -/
def foffOf (ps : List Piece) (at_ len : Nat) : Nat :=
  match ps with
  | [] => 0xFFFF
  | p :: r => if at_ ≥ len then 0xFFFF else if p.begins then at_ else foffOf r (at_ + p.bytes.length) len

/-- The queue with `k` stream bytes of its records taken. -/
def takeQueue (q : List Queued) (part k : Nat) : List Queued × Nat :=
  match q with
  | [] => ([], 0)
  | e :: r =>
    let len := e.rec_.bytes.length - part
    if k = 0 then (e :: r, part) else if k ≥ len then takeQueue r 0 (k - len) else (e :: r, part + k)

/-- Records taken off a list by `k` bytes: what is left of the one cut, the records left and the bytes still to take. -/
def takeHeads (k : Nat) (l : List (List Byte)) : List Byte × List (List Byte) × Nat := match l with
  | [] => ([], [], k)
  | b :: r => if k = 0 then ([], b :: r, 0) else if k < b.length then (b.drop k, r, 0) else takeHeads (k - b.length) r

/-- The class after `k` raw bytes of its stream have gone into a frame. -/
def ClassQ.consume (c : ClassQ) (loss : List (List Byte)) (k : Nat) : ClassQ :=
  let k1 := min k c.rest.length
  let k2 := min (k - k1) c.left.length
  let (q, part) := if k2 = c.left.length ∧ c.part ≠ 0 then (c.queue.drop 1, 0) else (c.queue, c.part + k2)
  let rest := c.rest.drop k1
  if k ≤ k1 + k2 then { c with rest := rest, queue := q, part := part }
  else
    let (cut, heads, k) := takeHeads (k - k1 - k2) (loss ++ c.heads)
    let (q, part) := takeQueue q part k
    { c with rest := rest ++ cut, heads := heads, queue := q, part := part }

/-- Closes a frame of the class when one of the three conditions of R144 holds; `force` closes it for a time message,
which goes with its own frame (R143). -/
def Node.closeFrame (n : Node) (k : Nat) (force : Bool) : Node :=
  let c := n.q k
  let cls := n.clsOf k
  let loss := if c.owesLoss then [envelope 0x0B (c.lossBody cls)] else []
  let ps := c.pieces loss (n.payLimit k)
  let raw := (ps.map (·.bytes)).flatten
  let avail := raw.take 16384
  let limit := n.payLimit k
  let age := match c.eligible with
    | [] => true
    | e :: _ => e.at_ + n.holdNs k ≤ n.ns
  let drained := decide (raw.length = avail.length) && (cls < 3 || age || force)
  let whole := avail.take (64 * (avail.length / 64))
  let cand := if drained then avail else whole
  let (payload, used, stopped) :=
    if n.comp k then riceEncode cand (n.stride k) limit
    else (cand.take limit, min cand.length limit, false)
  let full := stopped || payload.length ≥ limit || used = 16384 || (!n.comp k && raw.length ≥ limit)
  let begun := !loss.isEmpty && decide (used > c.rest.length + c.left.length)
  if c.closed.isSome || avail.isEmpty || used = 0 || !(drained || full) then n
  else
    let f : Frame :=
      { format := 2, cls := cls, comp := n.comp k, hb := false, replay := false, lossIn := begun, spare := false, src := n.src,
        seq := c.seq, alive := 0, boot := 0, roff := c.roff, rlen := used, foff := foffOf ps 0 used, payload := payload }
    let c := c.consume loss used
    let c := if !begun then c
      else { c with thinned := 0, dropped := 0, droppedBytes := 0, merged := 0, lossSeq := (c.lossSeq + 1) % 2 ^ 32 }
    let n := ((n.setQ k { c with closed := some f, seq := (c.seq + 1) % 2 ^ 32, roff := (c.roff + used) % 2 ^ 32 }).watchFill k).letIn k
    if n.crown then n
    else
      let n := n.s (TZ_SAPQk_SEQ_SEQ cls) ((c.seq + 1) % 2 ^ 32)
      if f.comp then (n.inc (TZ_SAPQk_RAWB_COUNT cls) used).inc (TZ_SAPQk_OUTB_COUNT cls) payload.length else n

/-! ### Sending a frame (R145 to R147) -/

/-- ALIVE and BOOT of the node's frames (R146). -/
def Node.alive (n : Node) : Nat := if n.crown then n.aliveN % 2 ^ 24 else n.g TZ_SAP_PK_ALIVE_ALIVE

/-- BOOT of the node's frames. -/
def Node.boot (n : Node) : Nat := if n.crown then 0 else n.g TZ_SAP_PK_ALIVE_BOOT

/-- A frame of C1 that begins with a time message (R190). -/
def Frame.timed (f : Frame) : Bool := f.cls == 1 && !f.hb && !f.replay && f.foff == 0 && field f.payload 3 1 == 5

/-- The time messages at the front of a payload take the corrected stamp `t` of their frame: t1 in a TSYNC, t3 in a TDELAY, and the exchange keeps
it (R35, R37, R190). -/
def Node.stampTimes (fuel : Nat) (n : Node) (lane t : Nat) (l : List Byte) : Node × List Byte := match fuel with
  | 0 => (n, l)
  | m + 1 =>
    let len := 4 + field l 0 3
    if field l 3 1 ≠ 5 ∨ l.length < len then (n, l)
    else
      let seq := field l 6 2
      let n := match field l 4 1, n.time.served.get (fun _ => none) lane, n.time.open_.get (fun _ => none) lane with
        | 1, some v, _ => if v.seq = seq then { n with time := { n.time with served := n.time.served.set (fun _ => none) lane (some { v with t1 := t }) } } else n
        | 2, _, some e => if e.seq = seq then { n with time := { n.time with open_ := n.time.open_.set (fun _ => none) lane (some { e with t3 := t }) } } else n
        | _, _, _ => n
      let x := if field l 4 1 = 3 then l.take len else overwrite (l.take len) 12 (twBytes t)
      let (n, r) := Node.stampTimes m n lane t (l.drop len)
      (n, x ++ r)

/-- A frame of time messages leaves with its start-of-frame symbol stamped `at_` at the sample port, which LAT_TX corrects (R35); the replay store keeps
it so. -/
def Node.sendTimed (n : Node) (lane at_ : Nat) (f : Frame) : Node × Frame :=
  let (n, p) := n.stampTimes 16 lane (at_ + n.latTx lane) f.payload
  let g := { f with payload := p }
  let k := n.key lane 1
  let n := n.setQ k { n.q k with store := (n.q k).store.map (fun x => if x.frame.seq = f.seq then { x with frame := g } else x) }
  (n.emit (.frame lane g.bytes), g)

/-- A frame goes to its lane, which puts it into its byte stream (R189). A frame of time messages leaves when the lane places it (R190), any other counts
as sent now; a self leaf's internal path takes each at once (R24). -/
def Node.handOver (n : Node) (lane : Nat) (f : Frame) : Node :=
  if n.selfWord.isSome then (if f.timed then (n.sendTimed lane n.now f).1 else n.emit (.frame lane f.bytes))
  else (if f.timed then n else n.emit (.frame lane f.bytes)).onTx lane (fun x => { x with items := x.items ++ [f] })

/-- The frame leaves on its lane, with ALIVE and BOOT of this moment. -/
def Node.sendFrame (n : Node) (lane : Nat) (f : Frame) : Node := n.handOver lane { f with alive := n.alive, boot := n.boot }

/-- A strict class's store with a copy of a frame just sent (R147). -/
def Node.keepFrame (n : Node) (k : Nat) (f : Frame) : Node :=
  let c := n.q k
  if n.clsOf k < 3 ∧ !c.frozen then n.setQ k { c with store := trimStore n.ns n.replayUs (c.store ++ [⟨f, n.ns⟩]) } else n

/-- Sends the closed data frame of a class on its lane (R145): counted, marked as sent in this alive period, kept for
replay when the class is strict. -/
def Node.sendData (n : Node) (k lane : Nat) (f : Frame) : Node :=
  let n := (n.setQ k { n.q k with closed := none, sentNow := true }).keepFrame k { f with alive := n.alive, boot := n.boot }
  let n := n.sendFrame lane f
  if n.crown then n else n.count (TZ_SAPQk_FRAMES_COUNT (n.clsOf k))

/-- Resends the first frame of the replay list with REPLAY = 1; it enters the store as a frame sent now (R147). -/
def Node.sendReplay (n : Node) (k lane : Nat) (f : Frame) (rest : List Frame) : Node :=
  let n := (n.setQ k { n.q k with replay := rest, sentNow := true }).keepFrame k f
  let n := n.handOver lane { f with replay := true }
  if n.crown then n else n.count (TZ_SAPQk_FRAMES_COUNT (n.clsOf k))

/-- The lane that carries a strict class leaves service: its replay store freezes, and what a replay under way has not resent stays in it (R147). -/
def Node.freezeStore (n : Node) (k : Nat) : Node :=
  let c := n.q k
  if c.frozen then n
  else n.setQ k { c with frozen := true, store := trimStore n.ns n.replayUs c.store ++ c.replay.map (⟨·, n.ns⟩), replay := [] }

/-- The lane returns or the class moves lanes: the store is resent first, in SEQ order (R147). -/
def Node.startReplay (n : Node) (k lane : Nat) : Node :=
  let c := (n.freezeStore k).q k
  n.setQ k { c with replay := c.store.map (·.frame), store := [], frozen := false, lane := lane }

/-- The store of a strict class is resent first, when its lane has been out of service or the class moves to the other lane (R147). -/
def Node.replayOn (n : Node) (lane cls : Nat) : Node :=
  let k := n.key lane cls
  if cls < 3 && ((n.q k).frozen || (!n.crown && (n.q k).lane != lane)) then n.startReplay k lane else n

/-- Sends a due heartbeat of a class: no payload, the SEQ and ROFF of the next data frame (R141, R146). -/
def Node.sendHb (n : Node) (k lane : Nat) : Node :=
  let c := n.q k
  let (seq, roff) := match c.closed with
    | some f => (f.seq, f.roff)
    | none => (c.seq, c.roff)
  let f : Frame :=
    { format := 2, cls := n.clsOf k, comp := false, hb := true, replay := false, lossIn := false, spare := false, src := n.src, seq := seq,
      alive := 0, boot := 0, roff := roff, rlen := 0, foff := 0xFFFF, payload := [] }
  let n := (n.setQ k { c with hbDue := false }).sendFrame lane f
  if n.crown then n else n.count (TZ_SAPQk_HB_COUNT (n.clsOf k))

/-- WEIGHT of a class; 0 acts as 1 (R145). -/
def Node.weight (n : Node) (k : Nat) : Nat :=
  let w := if n.crown then n.g (BZ_SCHl_Qq_BURST_WEIGHT (k / 8) (k % 8)) else n.g (TZ_SAPQk_WEIGHT_WEIGHT k)
  if w = 0 then 1 else w

/-- Deficit round robin among Q3 to Q7 of a lane (R145): the class to send and the queues' deficits. `turn` holds twice
the class in turn, plus 1 once its deficit has been added to. `may` says which classes may send. -/
def drr (fuel : Nat) (n : Node) (key : Nat → Nat) (may : Nat → Bool) (turn : Nat) : Option (Nat × Nat × Node) :=
  match fuel with
  | 0 => none
  | m + 1 =>
    let cls := turn / 2
    let k := key cls
    let c := n.q k
    let next := if cls ≥ 7 then 6 else 2 * (cls + 1)
    match c.closed with
    | none =>
      let n := if c.queue.isEmpty && c.deficit != 0 then n.setQ k { c with deficit := 0 } else n
      drr m n key may next
    | some f =>
      if !may cls then drr m n key may next
      else
        let d := if turn % 2 = 0 then c.deficit + 64 * n.weight k else c.deficit
        let n := n.setQ k { c with deficit := d }
        if f.len ≤ d then some (cls, 2 * cls + 1, n.setQ k { c with deficit := d - f.len })
        else drr m n key may next

/-- The choice at a frame boundary of a lane (R145): a C0 frame, a due heartbeat of the lowest class, C1, C2, then the
weighted queues; a strict class's replay goes before its new frames (R147). `mine` says which classes travel on the
lane, `may` which may start (gates and shapers, R230 to R233). -/
def Node.selectFrame (n : Node) (lane : Nat) (mine may : Nat → Bool) : Node :=
  let key := n.key lane
  let n := [0, 1, 2].foldl (fun (n : Node) c => if mine c then n.replayOn lane c else n) n
  let ready := fun c => mine c && may c && ((n.q (key c)).closed.isSome || !(n.q (key c)).replay.isEmpty)
  let send := fun (n : Node) (c : Nat) =>
    let k := key c
    match (n.q k).replay with
    | f :: r => n.sendReplay k lane f r
    | [] => match (n.q k).closed with
      | some f => n.sendData k lane f
      | none => n
  if ready 0 then send n 0
  else match lowest 8 (fun c => mine c && (n.q (key c)).hbDue) with
    | some c => n.sendHb (key c) lane
    | none =>
      if ready 1 then send n 1
      else if ready 2 then send n 2
      else match drr 800 n key (fun c => mine c && may c) (max 6 (n.turn.get (fun _ => 6) lane)) with
        | none => n
        | some (c, t, n) =>
          let n := { n with turn := n.turn.set (fun _ => 6) lane t }
          let n := send n c
          let q := n.q (key c)
          if q.queue.isEmpty && q.closed.isNone then n.setQ (key c) { q with deficit := 0 } else n

/-- The end of an alive period: ALIVE advances, and a heartbeat falls due for each class that sent no frame (R146). -/
def Node.alivePeriod (n : Node) (keys : List Nat) : Node :=
  keys.foldl (fun n k =>
    let c := n.q k
    n.setQ k { c with sentNow := false, hbDue := c.hbDue || !c.sentNow }) n

/-! ### Coarsening levels (R157) -/

/-- LEVEL rises by 1 when FILL has been at or above three quarters and 1 ms has passed since its last change. -/
def Node.levelRise (n : Node) (k : Nat) : Node :=
  let c := n.q k
  if n.clsOf k ≥ 3 ∧ 4 * c.fill ≥ 3 * n.qSize k ∧ c.levelAt + 1000000 ≤ n.ns ∧ c.level < 7
  then n.setQ k { c with level := c.level + 1, levelAt := n.ns } else n

/-- LEVEL falls by 1 when FILL has stayed at or below a quarter for 10 ms since it came down and since the last
change. -/
def Node.levelFall (n : Node) (k : Nat) : Node :=
  let n := n.watchFill k
  let c := n.q k
  match c.lowSince with
  | none => n
  | some t => if n.clsOf k ≥ 3 ∧ c.level > 0 ∧ max t c.levelAt + 10000000 ≤ n.ns
    then n.setQ k { c with level := c.level - 1, levelAt := n.ns } else n

/-! ### Receiving (R148, R150, R156) -/

/-- The counters of a receiving lane. -/
structure RxCounts where
  crcbad : Fld
  other : Fld
  repeats : Fld
  gap : Fld
  restart : Fld

/-- The counters of the receiving lane: `BZ_SAPRXk_*` in a crown, `TZ_SAP_RX_*` in a leaf (R148). -/
def Node.rxCounts (n : Node) (k : Nat) : RxCounts :=
  if n.crown then ⟨BZ_SAPRXk_CRCBAD_COUNT k, BZ_SAPRXk_OTHER_COUNT k, BZ_SAPRXk_REPEAT_COUNT k, BZ_SAPRXk_GAP_COUNT k, BZ_SAPRXk_RESTART_COUNT k⟩
  else ⟨TZ_SAP_RX_CRCBAD_COUNT, TZ_SAP_RX_OTHER_COUNT, TZ_SAP_RX_REPEAT_COUNT, TZ_SAP_RX_GAP_COUNT, TZ_SAP_RX_RESTART_COUNT⟩

/-- The receiver's state for a source and class, when it has one. -/
def findRx (l : List RxState) (src cls : Nat) : Option RxState := l.find? (fun s => s.src == src && s.cls == cls)

/-- The receiver's states with one replaced or added. -/
def putRx (l : List RxState) (s : RxState) : List RxState :=
  if l.any (fun x => x.src == s.src && x.cls == s.cls)
  then l.map (fun x => if x.src == s.src && x.cls == s.cls then s else x) else l ++ [s]

/-- Splits a stream into whole records and the bytes left over (R137). -/
def splitRecords (fuel : Nat) (l : List Byte) : List (Nat × List Byte) × List Byte :=
  match fuel with
  | 0 => ([], l)
  | m + 1 =>
    let len := field l 0 3
    if l.length < 4 ∨ l.length < 4 + len then ([], l)
    else
      let (rs, r) := splitRecords m (l.drop (4 + len))
      ((field l 3 1, (l.drop 4).take len) :: rs, r)

/-- Whether a KIND is reserved (R138; 0x00 is taken as reserved, log entry 12). -/
def kindReserved (k : Nat) : Bool := k == 0 || k > 0x12

/-- The bytes a frame delivers to its stream; none when its payload does not decode (R156). -/
def Frame.raw (f : Frame) : Option (List Byte) := if f.comp then riceDecode f.payload f.rlen else some f.payload

/-- Delivers a frame's raw bytes: with resync set, bytes before FOFF are discarded; whole records are delivered, a
reserved KIND is skipped and counted (R138, R148). A replayed frame's time messages are discarded (R147). -/
def Node.deliver (n : Node) (lane : Nat) (f : Frame) (s : RxState) : Node × RxState :=
  match f.raw with
  | none => (n.count (n.rxCounts lane).other, { s with resync := true, part := [] })
  | some raw =>
    let stream := if s.resync then (if f.foff = 0xFFFF then [] else raw.drop f.foff) else s.part ++ raw
    let (rs, rest) := splitRecords (stream.length + 1) stream
    let bad := (rs.filter (fun r => kindReserved r.1)).length
    let good := rs.filter (fun r => !kindReserved r.1 && !(f.replay && r.1 == 5))
    let n := n.inc (n.rxCounts lane).other bad
    ({ n with delivered := n.delivered ++ good.map (fun r => (lane, r.1, r.2)) },
      { s with part := rest, resync := if f.foff != 0xFFFF then false else s.resync })

/-- The state the frame is judged against: made at the first frame of a source, afresh after a change of BOOT, and
counted as a restart then (R148). -/
def Node.rxKnow (n : Node) (lane : Nat) (f : Frame) : Node × RxState :=
  match findRx n.rx f.src f.cls with
  | none => (n, ⟨f.src, f.cls, f.boot, f.seq, f.roff, true, n.ns, lane, []⟩)
  | some s =>
    if f.boot ≠ s.boot
    then (n.count (n.rxCounts lane).restart, { s with boot := f.boot, next := 0, roff := 0, resync := false, part := [], heard := n.ns, lane := lane })
    else (n, { s with heard := n.ns, lane := lane })

/-- A frame judged against its source's state (R148): repeat, gap, heartbeat or delivery. The last component is true
when the frame was delivered. -/
def Node.rxJudge (n : Node) (lane : Nat) (f : Frame) : Node × Bool :=
  let (n, s) := n.rxKnow lane f
  let d := seqDiff f.seq s.next
  if d < 0 then ({ n.count (n.rxCounts lane).repeats with rx := putRx n.rx s }, false)
  else
    let n := if d > 0 then n.inc (n.rxCounts lane).gap d.toNat else n
    let n := if d > 0 ∧ f.cls < 3 then { n with missed := n.missed.set (fun _ => 0) lane (n.missed.get (fun _ => 0) lane + d.toNat) } else n
    let s := if d > 0 ∨ f.roff ≠ s.roff then { s with resync := true, part := [] } else s
    if f.hb then ({ n with rx := putRx n.rx { s with next := f.seq, roff := f.roff } }, false)
    else
      let (n, s) := n.deliver lane f s
      ({ n with rx := putRx n.rx { s with next := (f.seq + 1) % 2 ^ 32, roff := (f.roff + f.rlen) % 2 ^ 32 } }, true)

/-- FCHK, format and node-word tests of a received frame (R148, R18); none when the frame is discarded. -/
def Node.rxAccept (n : Node) (lane : Nat) (l : List Byte) : Node × Option Frame :=
  let f := Frame.parse l
  if !fchkGood l then (n.count (n.rxCounts lane).crcbad, none)
  else if f.format ≠ 2 then (n.count (n.rxCounts lane).other, none)
  else if n.crown && nodeMalformed f.src then ((n.count (n.rxCounts lane).other).count BZ_NODE_BAD_COUNT, none)
  else (n, some f)

end Sys2Proof.Machine
end

