-- ==== Sys2Proof/Machine/Ring.lean ====
section
/-! DEFINITION. A block's own Ring log (spec/07_ring_log.md, R165 to R177): the record, writing, sending, reading and
clearing it, as every unit that logs an event calls it. -/

namespace Sys2Proof.Machine

/-- The bytes of a Ring log record without its CRC (Table 7.1). -/
def RingRec.front (r : RingRec) : List Byte :=
  le 2 (36 + r.body.length) ++ byte r.typ ++ byte (r.qual + 4 * b2n r.opbase) ++ le 4 r.seq ++ twBytes r.stamp
    ++ le 5 r.opsec ++ le 3 r.pcc ++ r.body

/-- The bytes of a Ring log record (R165). -/
def RingRec.bytes (r : RingRec) : List Byte := r.front ++ le 4 (crc32c r.front)

/-- The length of a Ring log record. -/
def RingRec.len (r : RingRec) : Nat := 36 + r.body.length

/-- The Ring log record that bytes spell; none when its CRC fails or its length does not match (R165). -/
def RingRec.parse (l : List Byte) : Option RingRec :=
  let len := field l 0 2
  if len < 36 ∨ l.length ≠ len ∨ crc32c (l.take (len - 4)) ≠ field l (len - 4) 4 then none
  else some
    { typ := field l 2 1, qual := field l 3 1 % 4, opbase := bitOf (field l 3 1) 2, seq := field l 4 4,
      stamp := twOf ((l.drop 8).take 16), opsec := field l 24 5, pcc := field l 29 3, body := (l.drop 32).take (len - 36),
      cleared := false }

/-- The ring's size: 64 KiB in a leaf, 1 MiB in a crown (R169, R172). -/
def Node.ringSize (n : Node) : Nat := if n.crown then 1048576 else 65536

/-- The newest records that fit the ring: the oldest are removed, whole (R169). -/
def fitRing (size : Nat) (l : List RingRec) : List RingRec :=
  (l.foldr (fun r a => if a.2 + r.len ≤ size then (r :: a.1, a.2 + r.len) else (a.1, size + 1)) ([], 0)).1

/-- OPSEC of a record written now (R167). -/
def Node.opsec (n : Node) : Nat :=
  let loc := n.ring.localNs / nsPerSec
  (if n.ring.opbase || n.crown then n.ring.base + loc else loc) % 2 ^ 40

/-- The Sap record that carries a Ring log record in C5 (R170, KIND 0x0A). -/
def RingRec.toSap (r : RingRec) : Rec :=
  { kind := 0x0A, cls := 5, body := r.bytes,
    stamp := ⟨r.stamp, match r.qual with | 0 => .locked | 1 => .notLocked | 2 => .fault | _ => .preStep⟩,
    stampAt := 8, qualAt := some (3, 0), crcTail := true }

/-- Hands ring records to the packer while C5 takes them, each once, SEQs compared modulo 2^32; a cleared record is not sent (R158, R170, R177). -/
def Node.ringPump (fuel : Nat) (n : Node) : Node :=
  match fuel with
  | 0 => n
  | m + 1 =>
    match n.ring.recs.find? (fun r => decide (seqDiff r.seq n.ring.unsent ≥ 0)) with
    | none => n
    | some r =>
      if r.cleared then Node.ringPump m { n with ring := { n.ring with unsent := (r.seq + 1) % 2 ^ 32 } }
      else match n.offer (n.key n.weightLane 5) r.toSap none with
        | (true, n) =>
          let n := ((n.upLanes 5).filter (· != n.weightLane)).foldl (fun n k => n.post k r.toSap) n
          Node.ringPump m { n with ring := { n.ring with unsent := (r.seq + 1) % 2 ^ 32 } }
        | (false, n) => n

/-- Whether the leaf writes records of a type (R166): types 0x01, 0x02, 0x0B and 0x0C cannot be disabled. -/
def Node.logs (n : Node) (typ : Nat) : Bool :=
  n.crown || [0x01, 0x02, 0x0B, 0x0C].contains typ || bitOf (n.g TZ_RLOG_TYPE_EN_EN) typ

/-- Writes a record with a given stamp into the ring (R165 to R170). -/
def Node.logAt (n : Node) (typ : Nat) (st : Stamp) (body : List Byte) : Node :=
  if !n.logs typ then n
  else
    let r : RingRec :=
      { typ := typ, qual := st.qual.code, opbase := n.ring.opbase || n.crown, seq := n.ring.head, stamp := st.t,
        opsec := n.opsec, pcc := n.ring.pcc, body := body, cleared := false }
    let recs := fitRing n.ringSize (n.ring.recs ++ [r])
    let gone := n.ring.recs.take (n.ring.recs.length + 1 - recs.length)
    let lost := (gone.filter (fun x => decide (seqDiff x.seq n.ring.mirrored > 0))).length
    let tail := match recs with
      | [] => r.seq
      | x :: _ => x.seq
    let n := { n with ring := { n.ring with recs := recs, head := (n.ring.head + 1) % 2 ^ 32, tail := tail } }
    let n := if n.crown then n else n.inc TZ_RLOG_LOST_COUNT lost
    n.ringPump 64

/-- Writes a record stamped now. -/
def Node.log (n : Node) (typ : Nat) (body : List Byte) : Node := n.logAt typ n.stamp body

/-- The result of reading one SEQ (R173): 0 OK, 1 GONE, 2 NOTYET, 3 CLEARED, with the record. SEQs compare modulo 2^32 (R165). -/
def Node.ringRead (n : Node) (s : Nat) : Nat × Option RingRec :=
  if seqDiff s n.ring.tail < 0 then (1, none)
  else if seqDiff s n.ring.head ≥ 0 then (2, none)
  else match n.ring.recs.find? (fun r => r.seq == s) with
    | none => (1, none)
    | some r => if r.cleared then (3, none) else (0, some r)

/-- CLEAR and HEARTWOOD records, which no clear marks and no mirror removes (R171, R177). -/
def RingRec.guarded (r : RingRec) : Bool := r.typ == 0x0C || r.typ == 0x0B

/-- CLEAR at the target (R177): records up to HIGH_SEQ of the named power cycle are marked, and one CLEAR record gives
the count; none when PCC does not match or HIGH_SEQ is at or above HEAD. The ring holds one power cycle, the records before its RESTORE
among them (R169). `ticket` is bytes 0 to 39 of the ticket. -/
def Node.ringClear (n : Node) (high pcc : Nat) (ticket digest : List Byte) : Option Node :=
  if pcc ≠ n.ring.pcc ∨ seqDiff high n.ring.head ≥ 0 then none
  else
    let hit := fun (r : RingRec) => decide (seqDiff r.seq high ≤ 0) && !r.guarded && !r.cleared
    let cnt := (n.ring.recs.filter hit).length
    let n := { n with ring := { n.ring with recs := n.ring.recs.map (fun r => if hit r then { r with cleared := true } else r) } }
    some (n.log 0x0C (ticket ++ digest ++ le 4 cnt))

/-- A DATA reply to a READ (R174): records from `first` on, up to `count` and 16 KiB, passing over records cleared or
gone; RESULT of the first record not sent (OK where the next DATA goes on with it), 0xFF when all were sent. -/
def Node.ringData (n : Node) (first count : Nat) : List (List Byte) :=
  let want := (List.range (min count 1024)).map (fun i => (first + i) % 2 ^ 32)
  let step := fun (a : List (List Byte) × List Byte × Nat × Nat) (s : Nat) =>
    let (done, cur, start, res) := a
    match n.ringRead s with
    | (0, some r) =>
      if res ≠ 0xFF then (done ++ [byte 0x41 ++ byte res ++ zeros 2 ++ le 4 start ++ cur], r.bytes, s, 0xFF)
      else if cur.length + r.len > 16384 then (done ++ [byte 0x41 ++ byte 0 ++ zeros 2 ++ le 4 start ++ cur], r.bytes, s, 0xFF)
      else (done, cur ++ r.bytes, start, 0xFF)
    | (e, _) => if res = 0xFF then (done, cur, start, e) else (done, cur, start, res)
  let (done, cur, start, res) := want.foldl step ([], [], first, 0xFF)
  done ++ [byte 0x41 ++ byte res ++ zeros 2 ++ le 4 start ++ cur]

/-- A bulk record (KIND 0x0C) in C7 toward the parent. -/
def Node.bulkUp (n : Node) (body : List Byte) : Node :=
  n.post n.weightLane { kind := 0x0C, cls := 7, body := body, stamp := ⟨0, .locked⟩, stampAt := 0, qualAt := none, crcTail := false }

/-- A bulk record (KIND 0x0C) in C7 on a given lane. -/
def Node.bulkOn (n : Node) (lane : Nat) (body : List Byte) : Node :=
  n.post lane { kind := 0x0C, cls := 7, body := body, stamp := ⟨0, .locked⟩, stampAt := 0, qualAt := none, crcTail := false }

end Sys2Proof.Machine
end

