-- ==== Sys2Proof/Machine/TimeUnit.lean ====
section
/-! DEFINITION. The time unit of a leaf or crown (spec/02_time.md, R32 to R57, R510, R511): the exchange, the discipline
loop, bound and fault, the step, root sources, edge capture and pulse trains, written once over the node. -/

namespace Sys2Proof.Machine

/-! ### Reports (R151) -/

/-- The TSTATUS body of the node itself (Table 6.5). SOURCE_CLASS, which R49 has copied to C1 reports and to which Table 6.5 gives no place, goes into
the reserved byte 23 (log entry 97). -/
def Node.tstatusBody (n : Node) : List Byte :=
  let b := n.tb
  twBytes n.now ++ le 4 n.src
    ++ byte (n.g (TIME_STATUS_STATE b) + 8 * b2n n.stepped + 16 * b2n n.tfault + 32 * n.g (TIME_STATUS_UPHOLD b))
    ++ byte n.qual.code ++ byte (n.g (TIME_STATUS_HOPS b)) ++ byte n.time.source ++ le 4 (n.g (TIME_BOUND_BOUND b))
    ++ le 4 (n.g (TIME_OFFSET_OFFSET b)) ++ le 4 (n.g (TIME_STEP_FRAC_FRAC b)) ++ le 4 (n.g (TIME_STEP_NS_NSEC b))
    ++ le 4 (n.g (TIME_STEP_SEC_SEC b)) ++ le 4 (n.g (TIME_STEP_SEC_HI_SEC_HI b))

/-- A TSTATUS record about the node itself in a class (C1, or C0 as the time alarm, R151). -/
def Node.tstatusRec (n : Node) (cls : Nat) : Rec :=
  { kind := 6, cls := cls, body := n.tstatusBody, stamp := n.stamp, stampAt := 0, qualAt := some (21, 0), crcTail := false }

/-- The node sends a TSTATUS record about itself (R151). A SOLO crown or a root, and a crown in host mode, delivers it at its host interface
(R26). -/
def Node.tellStatus (n : Node) (r : Rec) : Node :=
  let top := n.crown && (n.g BZ_STRAP_ROLE == 0 || n.g BZ_STRAP_ROLE == 3)
  let n := if top || (n.crown && n.g BZ_MODE_STAT_MODE == 1) then n.emit (.word "host" r.bytes) else n
  if top then n else n.postUp r

/-- A TSTATUS because of an event: sent, and a leaf writes it into its Ring log as TYPE 0x03 (R151, Table 7.2). -/
def Node.report (n : Node) (cls : Nat) : Node :=
  let r := n.tstatusRec cls
  let n := n.tellStatus r
  if n.crown then n else n.logAt 0x03 r.stamp r.body

/-- STATE, STEPPED and UPHOLD as one code: a change of it is an event of R151. -/
def Node.timeCode (n : Node) : Nat :=
  n.g (TIME_STATUS_STATE n.tb) + 8 * b2n n.stepped + 16 * n.g (TIME_STATUS_UPHOLD n.tb)

/-- Reports a change of STATE, STEPPED or UPHOLD since the last report (R151). -/
def Node.reportChange (n : Node) : Node :=
  if n.timeCode = n.time.reported then n
  else ({ n with time := { n.time with reported := n.timeCode } } : Node).report 1

/-! ### Bound and fault (R45, R46) -/

/-- FAULT follows BOUND > RADIO_TOL; a leaf reports each change in C0 (R46, R151). -/
def Node.refault (n : Node) : Node :=
  let f := n.g (TIME_BOUND_BOUND n.tb) > n.g (TIME_RADIO_TOL_TOL n.tb)
  if f = n.tfault then n
  else
    let n := n.s (TIME_STATUS_FAULT n.tb) (b2n f)
    if n.crown then n else n.report 0

/-- BOUND takes a value, and FAULT follows. -/
def Node.setBound (n : Node) (v : Nat) : Node := (n.s (TIME_BOUND_BOUND n.tb) (min v 0xFFFFFFFF)).refault

/-- BOUND after a valid exchange (Table 2.3): the parent's bound, |OFFSET| and the hop, in 0.1 ns, rounded up. The hop is
0.8 ns in a leaf and 1.08 ns in a crown; a root adds none. `hop` is in 0.01 ns. -/
def boundOf (parent : Nat) (off : Int) (hop : Nat) : Nat :=
  if parent ≥ 0xFFFFFFFF then 0xFFFFFFFF
  else min 0xFFFFFFFF (ceilDiv ((parent * 10 + hop) * fracPerNs + off.natAbs * 100) (10 * fracPerNs))

/-- The hop of the profile, in 0.01 ns (Table 2.3). -/
def Node.hop (n : Node) : Nat := if n.crown then 108 else 80

/-- BOUND in HOLDOVER (Table 2.3): B_e + (STAB + 5) × 10^-9 × t, in 0.1 ns, rounded up. -/
def holdBound (be stab t : Nat) : Nat := min 0xFFFFFFFF (be + ceilDiv ((stab + 5) * t * 10) 1000000000)

/-! ### Pulse trains (R54 to R56, R510, R511) -/

/-- Train `i`. -/
def Node.train (n : Node) (i : Nat) : Train := n.time.trains.get (fun _ => Train.none) i

/-- The node with a train replaced. -/
def Node.setTrain (n : Node) (i : Nat) (t : Train) : Node :=
  { n with time := { n.time with trains := n.time.trains.set (fun _ => Train.none) i t } }

/-- The output of a train goes to its active level or leaves it: `tm_pulse` follows, rising to the active level with POL = 0 (R54). -/
def Node.ptDrive (n : Node) (i : Nat) (high : Bool) : Node :=
  let t := n.train i
  if t.high = high then n
  else (n.setTrain i { t with high := high }).emit (.word "tm_pulse" (byte i ++ byte (b2n (high != n.flag (TZ_TIME_PTn_CTRL_POL i)))))

/-- E_k of a train (R54). -/
def Train.edge (t : Train) (k : Nat) : Nat := t.start + k * t.period

/-- The first edge number whose E_k is at or after a time. -/
def Train.firstFrom (t : Train) (x : Nat) : Nat := if x ≤ t.start then 0 else ceilDiv (x - t.start) t.period

/-- The shadow START, PERIOD and WIDTH of a train, in 2^-32 ns. -/
def Node.ptStart (n : Node) (i : Nat) : Nat :=
  ((n.g (TZ_TIME_PTn_START_SHI_SEC_HI i) * 2 ^ 32 + n.g (TZ_TIME_PTn_START_SLO_SEC_LO i)) * nsPerSec
    + n.g (TZ_TIME_PTn_START_NS_NSEC i)) * fracPerNs
def Node.ptPeriod (n : Node) (i : Nat) : Nat := n.g (TZ_TIME_PTn_PERIOD_NS_NS i) * fracPerNs + n.g (TZ_TIME_PTn_PERIOD_FR_FRAC i)
def Node.ptWidth (n : Node) (i : Nat) : Nat := n.g (TZ_TIME_PTn_WIDTH_NS i) * fracPerNs

/-- The three checks on PERIOD and WIDTH (R55). -/
def Node.ptShapeBad (n : Node) (i : Nat) : Bool :=
  decide (n.ptWidth i = 0) || decide (n.ptWidth i ≥ n.ptPeriod i) || decide (n.ptPeriod i < 100 * fracPerNs)

/-- ERR sets, ARM clears, the pending take-over goes and nothing else changes (R55). -/
def Node.ptErr (n : Node) (i : Nat) : Node :=
  let n := (n.s (TZ_TIME_PTn_CTRL_ERR i) 1).s (TZ_TIME_PTn_CTRL_ARM i) 0
  n.setTrain i { n.train i with pend := none, waits := false }

/-- A write of 1 to ARM (R55). -/
def Node.ptArm (n : Node) (i : Nat) : Node :=
  if n.ptStart i < n.now + 64 * fracPerNs || n.ptShapeBad i then n.ptErr i
  else
    let waits := !n.stepped && !n.flag (TIME_CTRL_FREE_RUN_OK n.tb)
    (n.s (TZ_TIME_PTn_CTRL_ARM i) 1).setTrain i { n.train i with pend := some (n.ptStart i), waits := waits }

/-- The take-over of a train whose time has come (R55): the grid is set from the latched START and the PERIOD and WIDTH
shadows, ACTIVE follows ENABLE, or the checks fail and the old grid stays. An inactive edge of the old grid still pending is kept and comes before
the new grid's first edge (log entry 104). -/
def Node.ptTakeover (n : Node) (i : Nat) : Node :=
  let t := n.train i
  match t.pend with
  | none => n
  | some st =>
    if t.waits || n.now < st then n
    else if n.ptShapeBad i then n.ptErr i
    else
      let en := n.g (TZ_TIME_PTn_CTRL_ENABLE i)
      let n := (n.s (TZ_TIME_PTn_CTRL_ARM i) 0).s (TZ_TIME_PTn_CTRL_ACTIVE i) en
      n.setTrain i { t with grid := true, start := st, period := n.ptPeriod i, width := n.ptWidth i, next := 0, pend := none,
                            stopAt := none }

/-- The next edge of a train when its time has come (R54): the inactive edge, or the active edge of E_k; a stopped or
disabled train, and one with FSTOP = 1 while FAULT = 1, passes over the active edge (R56, R510). A stop once reached stands for every E_k, whatever a
step brings back (R511). -/
def Node.ptEdge (n : Node) (i : Nat) : Node :=
  let t := n.train i
  match t.off with
  | some x =>
    if n.now ≥ x then (n.setTrain i { t with off := none }).ptDrive i false else n
  | none =>
    if !t.grid || n.now < t.edge t.next then n
    else
      let en := n.flag (TZ_TIME_PTn_CTRL_ENABLE i)
      let stopped := match t.stopAt with
        | none => !en
        | some k => t.next ≥ k
      if stopped then
        (n.s (TZ_TIME_PTn_CTRL_ACTIVE i) 0).setTrain i { t with next := t.next + 1, stopAt := t.stopAt.map (fun _ => 0) }
      else if n.flag (TZ_TIME_PTn_CTRL_FSTOP i) && n.tfault then n.setTrain i { t with next := t.next + 1 }
      else ((n.s (TZ_TIME_PTn_CTRL_ACTIVE i) 1).setTrain i { t with next := t.next + 1, off := some (t.edge t.next + t.width) }).ptDrive i true

/-- A write of ENABLE (R510). -/
def Node.ptEnable (n : Node) (i : Nat) (v : Bool) : Node :=
  let t := n.train i
  let was := n.flag (TZ_TIME_PTn_CTRL_ENABLE i)
  let n := n.s (TZ_TIME_PTn_CTRL_ENABLE i) (b2n v)
  if v = was || !t.grid then n
  else if !v then
    let n := if t.next = 0 || !n.flag (TZ_TIME_PTn_CTRL_ACTIVE i) then n.s (TZ_TIME_PTn_CTRL_ACTIVE i) 0 else n
    n.setTrain i { t with stopAt := some t.next }
  else if t.stopAt = some t.next && n.flag (TZ_TIME_PTn_CTRL_ACTIVE i) then n.setTrain i { t with stopAt := none }
  else n.setTrain i { t with stopAt := none, next := max t.next (t.firstFrom (n.now + 64 * fracPerNs)) }

/-- What the step does to a train (R55, R511): a waiting take-over is judged and armed, one whose time is reached takes
place, and a grid goes on from the first E_k at or after the stepped word; a stop under way ends with the period the step cuts off. -/
def Node.ptStep (n : Node) (i : Nat) : Node :=
  let t := n.train i
  let n := match t.pend with
    | none => n
    | some st => if t.waits then (if st < n.now + 64 * fracPerNs then n.ptErr i else n.setTrain i { t with waits := false }) else n
  let n := n.ptTakeover i
  let t := n.train i
  if t.grid then (n.setTrain i { t with next := t.firstFrom n.now, off := none, stopAt := t.stopAt.map (fun _ => 0) }).ptDrive i false else n

/-! ### The step (R43, R47) -/

/-- The step: the word moves by Δ in one cycle, Δ is recorded and STEPPED sets; held records are corrected (R43, R47),
trains follow (R511). -/
def Node.stepBy (n : Node) (d : Int) : Node :=
  let b := n.tb
  let w := (n.time.word : Int) + d * 2 ^ 16
  let f := (d % (fracPerNs : Int)).toNat
  let ns := (d / (fracPerNs : Int))
  let n := { n with time := { n.time with word := w.toNat } }
  let n := n.s (TIME_STEP_FRAC_FRAC b) f
  let n := n.s (TIME_STEP_NS_NSEC b) (ns % (nsPerSec : Int)).toNat
  let sec := unsgn 64 (ns / (nsPerSec : Int))
  let n := (n.s (TIME_STEP_SEC_SEC b) (sec % 2 ^ 32)).s (TIME_STEP_SEC_HI_SEC_HI b) (sec / 2 ^ 32)
  let n := n.s (TIME_STATUS_STEPPED b) 1
  let n := n.release d
  if n.crown then n else (List.range 4).foldl Node.ptStep n

/-! ### The discipline loop (R40 to R44) -/

/-- STATE takes a value (Table 2.2). -/
def Node.setTState (n : Node) (v : Nat) : Node := n.s (TIME_STATUS_STATE n.tb) v

/-- RATE takes a value (40 bits, signed). -/
def Node.setRate (n : Node) (r : Int) : Node :=
  let v := unsgn 40 r
  (n.s (TIME_RATE_LO_RATE_LO n.tb) (v % 2 ^ 32)).s (TIME_RATE_HI_RATE_HI n.tb) (v / 2 ^ 32)

/-- `lim` of R44: RATE_LIM ppm × 2^48 / 10^6, rounded toward zero; 0 or above 200 acts as 200. -/
def Node.rateLim (n : Node) : Int :=
  let l := n.g (TIME_CTRL_RATE_LIM n.tb)
  (((if l = 0 ∨ l > 200 then 200 else l) * 2 ^ 48 / 1000000 : Nat) : Int)

/-- One update of RATE (R44). `period` is in ns. -/
def Node.rateUpdate (n : Node) (off : Int) (period : Nat) : Node :=
  let e := divZero (off * 2 ^ 16) period
  let lim := n.rateLim
  let i0 := n.time.integral + e / 2 ^ (n.g (TIME_CTRL_KI_SHIFT n.tb))
  let i := clampInt i0 lim
  let r0 := i + e / 2 ^ (n.g (TIME_CTRL_KP_SHIFT n.tb))
  let r := clampInt r0 lim
  let n := ({ n with time := { n.time with integral := i } } : Node).setRate r
  n.s (TIME_STATUS_RATE_SAT n.tb) (b2n (i != i0 || r != r0))

/-- OFFSET as its register shows it (Table 2.7), rounded toward minus infinity (log entry 99). -/
def Node.showOffset (n : Node) (off : Int) : Node :=
  n.s (TIME_OFFSET_OFFSET n.tb) (unsgn 32 (satInt 32 (off / 2 ^ 16)))

/-- 0.2 ns in units of 2^-32 ns times 10: the bound of LOCKED is |OFFSET| × 10 ≤ this (Table 2.2). -/
def lockBound : Nat := 2 * fracPerNs

/-- The runs of Table 2.2 and the moves between ACQUIRE and LOCKED they cause; each move starts both runs afresh (log entry 102). -/
def Node.lockRuns (n : Node) (off : Int) : Node :=
  let inside := decide (off.natAbs * 10 ≤ lockBound)
  let t : TimeUnit := { n.time with within := if inside then n.time.within + 1 else 0, beyond := if inside then 0 else n.time.beyond + 1 }
  let n := { n with time := t }
  let st := n.g (TIME_STATUS_STATE n.tb)
  if st = 1 ∧ n.stepped ∧ t.within ≥ 16 then
    ({ n with time := { t with within := 0, beyond := 0 } } : Node).setTState 2
  else if st = 2 ∧ t.beyond ≥ 16 then
    ({ n with time := { t with within := 0, beyond := 0 } } : Node).setTState 1
  else n

/-- What a valid exchange or edge does after its OFFSET is known (R42 to R45): FREE and HOLDOVER go to ACQUIRE, the step
is taken when its run is complete, RATE is updated, BOUND recomputed. `need` is the length of the run the step needs,
`ok` whether this one counts toward it, `t1` its parent time in whole ns, from which the period is formed (log entry 98), `parent` the bound and `hop` the
hop of Table 2.3. The exchange that leaves FREE counts toward the run, which a change of parent does not break (log entry 100); entering ACQUIRE and the
step start the runs of Table 2.2 afresh (log entry 102); B_e is BOUND as rounded up (log entry 103). -/
def Node.discipline (n : Node) (off : Int) (need : Nat) (ok : Bool) (t1 parent hop : Nat) : Node :=
  let st := n.g (TIME_STATUS_STATE n.tb)
  let n := n.showOffset off
  let n := if st = 0 ∨ st = 3 then
      ({ n with time := { n.time with within := 0, beyond := 0 } } : Node).setTState 1 else n
  let period := match n.time.lastT1 with
    | none => 0
    | some p => t1 - p
  let run := if ok then n.time.stepRun + 1 else 0
  let n := { n with time := { n.time with stepRun := run, lastValid := some n.ns, lastT1 := some t1 } }
  if n.stepped then
    let n := if n.time.held then n else if period = 0 then n else n.rateUpdate off period
    let n := n.lockRuns off
    let b := boundOf parent off hop
    ({ n with time := { n.time with boundE := b } } : Node).setBound b
  else if run ≥ need then
    let n := n.stepBy off
    let b := boundOf parent 0 hop
    ({ n with time := { n.time with boundE := b, within := 0, beyond := 0 } } : Node).setBound b
  else n.setBound 0xFFFFFFFF

/-- HOLDOVER is entered (Table 2.2): RATE = I, no proportional term; the entry is counted. -/
def Node.enterHoldover (n : Node) : Node :=
  let n := (n.setTState 3).setRate n.time.integral
  let n := n.count (TIME_HOLDS_COUNT n.tb)
  n.reportChange

/-- Whether HOLDOVER is due (Table 2.2, R41): STEPPED, in ACQUIRE or LOCKED, and four periods without a valid exchange,
or the time parent's lane down for 1 µs, or RATE held for more than four periods. `pps` puts 1.5 s without a valid edge
in the place of the four periods. -/
def Node.holdoverDue (n : Node) (pps : Bool) : Bool :=
  let st := n.g (TIME_STATUS_STATE n.tb)
  let since := match n.time.lastValid with
    | none => n.ns
    | some t => n.ns - t
  let p := n.time.parent
  let laneDown := p < 72 && n.selfWord.isNone && !n.up p && (n.lane p).since + 1000 ≤ n.ns
  n.stepped && (st == 1 || st == 2) &&
    (if pps then decide (since ≥ 1500000000)
     else (n.time.period != 0 && decide (since ≥ 4 * n.time.period)) || laneDown
       || (n.time.held && n.time.period != 0 && decide (n.time.heldAt + 4 * n.time.period < n.ns)))

/-- BOUND in HOLDOVER, recomputed every 1 µs (R45). -/
def Node.holdoverBound (n : Node) : Node :=
  if n.g (TIME_STATUS_STATE n.tb) = 3 then
    let t := match n.time.lastValid with
      | none => n.ns
      | some t => n.ns - t
    n.setBound (holdBound n.time.boundE (n.g (TIME_STAB_STAB n.tb)) t)
  else n

/-! ### The exchange (R37 to R41) -/

/-- A time message at the head of the next C1 frame of a lane (R143), and the frame closed for it. -/
def Node.sendTime (n : Node) (lane : Nat) (body : List Byte) : Node :=
  let k := n.key lane 1
  let c := n.q k
  (n.setQ k { c with heads := c.heads ++ [envelope 5 body] }).closeFrame k true

/-- The time parent or its lane changes (R41): DELAY_AVG restarts and RATE is held until it is rebuilt, where the new parent is one of exchanges (R50: a
root on PPS follows its edges at once); never a step. UPHOLD follows the new parent's last TSYNC (R42). The run of R43 goes on (log entry 100). -/
def Node.reparent (n : Node) (lane : Nat) : Node :=
  if lane = n.time.parent then n
  else
    let t : TimeUnit := { n.time with
      parent := lane, davgN := 0, davgSum := 0, davg := 0, delayRej := 0, rebuilt := 0, heldAt := n.ns,
      held := n.stepped && decide (lane < 0x7F), syncT1 := none }
    let n := { n with time := t }
    let n := if n.crown then n.s BZ_TIME_SRC_LANE lane else n
    (n.s (TIME_STATUS_UPHOLD n.tb) (b2n (decide (lane < 0x7F) && n.time.uphold.get (fun _ => false) lane))).reportChange

/-- The lane a leaf takes time from (R41): lane 0, lane 1 while lane 0 is down; a self leaf's internal path is its lane 0. -/
def Node.leafTimeLane (n : Node) : Nat :=
  if n.selfWord.isSome ∨ n.up 0 then 0 else if n.up 1 then 1 else n.time.parent

/-- A leaf follows R41. -/
def Node.leafParent (n : Node) : Node := n.reparent n.leafTimeLane

/-- The TSYNC body a parent sends (Table 2.1). -/
def Node.tsyncBody (n : Node) (seq t1 : Nat) : List Byte :=
  let b := n.tb
  byte 1 ++ byte (n.g (TIME_STATUS_STATE b) * 32 + 16 * b2n n.stepped + 8 * n.g (TIME_STATUS_UPHOLD b) + n.time.leap * 2)
    ++ le 2 seq ++ le 4 n.src ++ twBytes t1 ++ le 4 (n.g (TIME_BOUND_BOUND b)) ++ le 2 n.time.utc
    ++ byte (n.g (TIME_STATUS_HOPS b)) ++ zeros 1

/-- Whether PERIOD has passed since the last exchange a parent started on a lane (R37, Table 2.7). -/
def Node.exchangeDue (n : Node) (lane : Nat) : Bool := match n.time.started.get (fun _ => none) lane with
  | none => true
  | some t => decide (t + 125000 * 2 ^ n.g BZ_TIME_XPER_PERIOD ≤ n.ns)

/-- The sample-port stamp of a symbol received (R185): the start of its cycle, the symbol's start position under R183 with the slots that wraps of PI have
shifted, and PI/128 of a sample period. -/
def Node.portStamp (n : Node) (k : Nat) (p : PortTime) : Nat :=
  let x := (n.lane k).rx
  (((n.now - p.ago + p.sym * fracPerNs / baud (n.g (BK_STAT_MODE (n.lb k))) : Nat) : Int) + (x.slot * 128 + x.pi) * fracPerNs / (128 * samplesPerNs)).toNat

/-- The stamp of a time message received (R35, R190): of the marker symbol named, else of the Bark frame whose CWI 0 came with TSM = 1; a self leaf's internal
path has no lane, and its message is stamped as it comes. -/
def Node.rxStamp (n : Node) (k : Nat) (rx : Option PortTime) : Nat := match rx with
  | some p => n.portStamp k p - n.latRx k
  | none => (if n.selfWord.isSome then n.now else (n.lane k).rx.tsmAt.getD n.now) - n.latRx k

/-- A parent starts an exchange on a lane (R37): TSYNC, into which the framer puts the corrected stamp t1 of its frame (R35). -/
def Node.startExchange (n : Node) (lane : Nat) : Node :=
  let seq := n.time.nextSeq.get (fun _ => 0) lane
  let old := (n.time.served.get (fun _ => none) lane).getD ⟨0, 0, nodeNone, 0, false, 0, false⟩
  let t : TimeUnit := { n.time with
    nextSeq := n.time.nextSeq.set (fun _ => 0) lane ((seq + 1) % 2 ^ 16),
    started := n.time.started.set (fun _ => none) lane (some n.ns),
    served := n.time.served.set (fun _ => none) lane (some { old with seq := seq, t1 := 0 }) }
  ({ n with time := t } : Node).sendTime lane (n.tsyncBody seq 0)

/-- A child takes a sound TSYNC on a lane (R38, R40, R42): it stamps t2, follows UPHOLD when the lane is its time parent's, keeps
the exchange and answers with TDELAY, into which the framer puts its own stamp t3. The exchange period is what two TSYNCs in a row show (log entry 101). -/
def Node.tsyncTaken (n : Node) (lane : Nat) (msg : List Byte) (rx : Option PortTime) (bad : Bool) : Node :=
  let fl := field msg 1 1
  let t1 := twOf ((msg.drop 8).take 16)
  let t2 := n.rxStamp lane rx
  let st := fl / 32
  let e : Exchange :=
    { seq := field msg 2 2, t1 := t1, t2 := t2, t3 := 0, at_ := n.ns, pState := st, pStepped := bitOf fl 4,
      pUphold := bitOf fl 3, pBound := field msg 24 4, hops := field msg 30 1, bad := bad }
  let mine := lane = n.time.parent
  let n := if mine && (n.time.open_.get (fun _ => none) lane).isSome
    then ({ n with time := { n.time with delayRej := 0 } } : Node).count (TIME_XBAD_COUNT n.tb) else n
  let per := match n.time.syncT1 with
    | none => n.time.period
    | some p => if mine then (t1 / fracPerNs) - p else n.time.period
  let t : TimeUnit := { n.time with open_ := n.time.open_.set (fun _ => none) lane (some e) }
  let t : TimeUnit := if mine then { t with syncT1 := some (t1 / fracPerNs), period := per } else t
  let t : TimeUnit := if mine ∧ !bad then { t with utc := field msg 28 2, leap := fl / 2 % 4 } else t
  let t : TimeUnit := if bad then t else { t with uphold := t.uphold.set (fun _ => false) lane (st == 3 || bitOf fl 3) }
  let n := { n with time := t }
  let n := if mine ∧ !bad then (n.s (TIME_STATUS_UPHOLD n.tb) (b2n (st == 3 || bitOf fl 3))).reportChange else n
  let node := if n.crown then n.src else if n.flag TZ_NODE_VALID then n.src else nodeNone
  n.sendTime lane (byte 2 ++ byte (n.g (TIME_STATUS_STATE n.tb) * 32 + 16 * b2n n.stepped) ++ le 2 e.seq ++ le 4 node
    ++ twBytes 0 ++ twBytes t2 ++ zeros 8)

/-- TSYNC at a child: at a crown its parent's node word is judged first (R18). -/
def Node.takeTsync (n : Node) (lane : Nat) (msg : List Byte) (f : TimeFrame) : Node :=
  n.judged [field msg 4 4] [] (·.tsyncTaken lane msg f.marker f.bad)

/-- A parent takes a sound TDELAY on a lane (R38): it stamps t4, returns it in TRESP, and keeps the child's state and its offset
measured from t2 (R151). -/
def Node.tdelayTaken (n : Node) (lane : Nat) (msg : List Byte) (rx : Option PortTime) : Node :=
  match n.time.served.get (fun _ => none) lane with
  | none => n
  | some v =>
    if field msg 2 2 ≠ v.seq then n
    else
      let t4 := n.rxStamp lane rx
      let t3 := twOf ((msg.drop 8).take 16)
      let t2 := twOf ((msg.drop 24).take 16)
      let off := divZero (((v.t1 : Int) - t2) + ((t4 : Int) - t3)) 2
      let fl := field msg 1 1
      let v' : Served := { v with node := field msg 4 4, state := fl / 32, stepped := bitOf fl 4, offset := off, known := true }
      let n := { n with time := { n.time with served := n.time.served.set (fun _ => none) lane (some v') } }
      n.sendTime lane (byte 3 ++ zeros 1 ++ le 2 v.seq ++ zeros 4 ++ twBytes t4 ++ zeros 8)

/-- TDELAY at a parent: the child's node word, or NONE, is judged first (R18, R19); one whose frame R39 rejects makes the exchange one that the child
counts invalid, and is not answered. -/
def Node.takeTdelay (n : Node) (lane : Nat) (msg : List Byte) (f : TimeFrame) : Node :=
  if f.bad then n else n.judged [] [field msg 4 4] (·.tdelayTaken lane msg f.marker)

/-- DELAY_AVG after one more valid delay (R39): the mean of the first four, then a running mean of weight 1/16, each rounded down (log entry 99). -/
def TimeUnit.addDelay (t : TimeUnit) (d : Nat) : TimeUnit :=
  if t.davgN < 4 then
    let s := t.davgSum + d
    { t with davgN := t.davgN + 1, davgSum := s, davg := if t.davgN + 1 = 4 then s / 4 else 0, delayRej := 0 }
  else { t with davg := (t.davg * 15 + d) / 16, delayRej := 0 }

/-- A child takes TRESP on a lane (R39, R40): the exchange is judged, and a valid one on the time-parent lane disciplines
the unit; a rejected one is counted in XBAD. One of another SEQ belongs to no exchange that is open. Before two TSYNCs have shown the exchange period, no
TRESP is late (log entry 101). A root that is a time child uses PARENT_BOUND and the crown's hop (log entry 103). -/
def Node.takeTresp (n : Node) (lane : Nat) (msg : List Byte) (bad : Bool) : Node :=
  match n.time.open_.get (fun _ => none) lane with
  | none => n
  | some e =>
    if field msg 2 2 ≠ e.seq then n
    else
      let t4 := twOf ((msg.drop 8).take 16)
      let delay := divZero (((e.t2 : Int) - e.t1) + ((t4 : Int) - e.t3)) 2
      let off := divZero (((e.t1 : Int) - e.t2) + ((t4 : Int) - e.t3)) 2
      let n := { n with time := { n.time with open_ := n.time.open_.set (fun _ => none) lane none } }
      if lane ≠ n.time.parent then n
      else
        let late := n.time.period != 0 && decide (e.at_ + n.time.period < n.ns)
        let far := n.time.davgN ≥ 4 && decide ((delay - n.time.davg).natAbs > fracPerNs)
        if e.bad ∨ bad ∨ late then ({ n with time := { n.time with delayRej := 0 } } : Node).count (TIME_XBAD_COUNT n.tb)
        else if far then
          let r := n.time.delayRej + 1
          let t : TimeUnit := if r ≥ 16 then { n.time with davgN := 0, davgSum := 0, davg := 0, delayRej := 0 } else { n.time with delayRej := r }
          ({ n with time := t } : Node).count (TIME_XBAD_COUNT n.tb)
        else
          let n := { n with time := n.time.addDelay delay.toNat }
          let n := n.s (TIME_DELAY_DELAY_AVG n.tb) (min (n.time.davg / 2 ^ 16) 0xFFFFFFFF)
          let n := n.discipline off 4 e.pStepped (e.t1 / fracPerNs) e.pBound n.hop
          let rb := n.time.rebuilt + 1
          let n := { n with time := { n.time with rebuilt := rb, held := n.time.held && rb < 4 } }
          (n.s (TIME_STATUS_HOPS n.tb) (min 255 (e.hops + 1))).reportChange

/-! ### Capture (R33, R52, R53) -/

/-- A read of NOW0 latches the whole word for the privilege level (R33). -/
def Node.captureNow (n : Node) (priv : Nat) : Node :=
  { n with time := { n.time with latch := n.time.latch.set (fun _ => 0) priv n.now } }

/-- The capture FIFO of an input. -/
def Node.capFifo (n : Node) (i : Nat) : List CapEntry := n.time.fifo.get (fun _ => []) i

/-- CAP_LAT of an input, in 2^-32 ns (Table 2.7). -/
def Node.capLat (n : Node) (i : Nat) : Nat :=
  psFrac (if i % 2 = 1 then n.g (TIME_CAP_LATm_LAT_ODD n.tb (i / 2)) else n.g (TIME_CAP_LATm_LAT_EVEN n.tb (i / 2)))

/-- Stores a capture stamp, or drops and counts it when the FIFO is full (R53). -/
def Node.capStore (n : Node) (i : Nat) : Node :=
  let q := n.capFifo i
  if q.length ≥ 16 then
    let n := { n with time := { n.time with dropped := n.time.dropped.set (fun _ => false) i true } }
    let n := n.count (TIME_CAP_DROP_COUNT n.tb)
    n.s (TIME_CAP_STAT_OVF n.tb) (n.g (TIME_CAP_STAT_OVF n.tb) ||| 2 ^ i)
  else
    let e : CapEntry := ⟨⟨n.now - n.capLat i, n.qual⟩, n.time.dropped.get (fun _ => false) i⟩
    { n with time := { n.time with fifo := n.time.fifo.set (fun _ => []) i (q ++ [e]),
                                   dropped := n.time.dropped.set (fun _ => false) i false } }

/-- One synchronised sample of a capture input (R52): the first after a reset, a clock return or a rise of EN gives the
present level and no stamp; an edge of the kind FALL selects is stamped. -/
def Node.capSample (n : Node) (i : Nat) (lv : Bool) : Node :=
  if !bitOf (n.g (TIME_CAP_CTRL_EN n.tb)) i then n
  else
    let old := n.time.level.get (fun _ => none) i
    let n := { n with time := { n.time with level := n.time.level.set (fun _ => none) i (some lv) } }
    let fall := bitOf (n.g (TIME_CAP_CTRL_FALL n.tb)) i
    match old with
    | none => n
    | some o => if o ≠ lv ∧ lv = !fall then n.capStore i else n

/-- A read of W3 removes the head entry (R53). -/
def Node.capPop (n : Node) (i : Nat) : Node :=
  { n with time := { n.time with fifo := n.time.fifo.set (fun _ => []) i ((n.capFifo i).drop 1) } }

/-- AVAIL, the inputs whose FIFO is not empty (Table 2.7). -/
def Node.capAvail (n : Node) : Nat :=
  (List.range 8).foldl (fun a i => a + if (n.capFifo i).isEmpty then 0 else 2 ^ i) 0

/-! ### Root sources (R48 to R51) -/

/-- A time-of-day message after its preamble (R49): held for the next edge; bad framing, CRC or VALID = 0 counts as
absent. -/
def Node.takeTod (n : Node) (l : List Byte) : Node :=
  let m := l.drop 2
  let good := l.length = 18 ∧ l.take 2 = byte 0x55 ++ byte 0xD5 ∧ crcOf 0 (m.take 14) = field m 14 2 ∧ bitOf (field m 10 1) 0
  if good then
    { n with time := { n.time with tod := some ⟨field m 0 8, field m 8 2, field m 10 1, field m 11 1⟩ } }
  else { n with time := { n.time with tod := none } }

/-- SEC names the edge at this stamp: OFFSET is (SEC, 0, 0) minus the stamp (R48). -/
def ppsOffset (sec stamp : Nat) : Int := ((sec * nsPerSec * fracPerNs : Nat) : Int) - (stamp : Int)

/-- An edge falls within 1 s ± 2 µs of another. -/
def secondApart (p stamp : Nat) : Bool := decide (((stamp : Int) - (p : Int) - ((nsPerSec * fracPerNs : Nat) : Int)).natAbs ≤ 2000 * fracPerNs)

/-- A PPS edge falls within 1 s ± 2 µs of the previous valid edge; one that more than 1.5 s parts from it is taken as the first is (R48;
log entry 89). -/
def Node.ppsPlaced (n : Node) (stamp : Nat) : Bool := match n.time.validStamp with
  | none => true
  | some p => secondApart p stamp || decide (p + 3 * nsPerSec * fracPerNs / 2 < stamp)

/-- LEAP_ADD and LEAP_SUB of a time-of-day message as TSYNC places them (Tables 2.1, 2.4). -/
def Tod.leap (d : Tod) : Nat := 2 * b2n (bitOf d.flags 1) + b2n (bitOf d.flags 2)

/-- A root disciplines to a PPS edge (R48): valid when it is placed well and a message names it; without a message it serves for rate only, where
it comes 1 s ± 2 µs after the edge used last (log entry 109), and counts in TODBAD. -/
def Node.ppsDiscipline (n : Node) (stamp : Nat) : Node :=
  match n.time.tod with
  | some d =>
    if !n.ppsPlaced stamp then n
    else
      let seq := n.time.edgeAt.isSome && d.sec == n.time.edgeSec + 1
      let run := if seq then n.time.stepRun else 0
      let n := { n with time := { n.time with tod := none, utc := d.utc, leap := d.leap, source := d.source, edgeAt := some n.ns,
                                              edgeSec := d.sec, stepRun := run } }
      let off := ppsOffset d.sec stamp
      let was := n.stepped
      let n := n.discipline off 3 true (d.sec * nsPerSec) (n.g BZ_TIME_PPS_TOL_TOL) 0
      let st := if !was && n.stepped then ((stamp : Int) + n.delta).toNat else stamp
      let n := { n with time := { n.time with edgeStamp := some st, validStamp := some st } }
      (n.s (TIME_STATUS_HOPS n.tb) 0).reportChange
  | none =>
    let n := n.count BZ_TIME_TODBAD_COUNT
    match n.time.edgeStamp with
    | none => n
    | some p =>
      if !secondApart p stamp then n
      else
        let sec := n.time.edgeSec + 1
        let n := { n with time := { n.time with edgeSec := sec, edgeStamp := some stamp } }
        if n.stepped then n.rateUpdate (ppsOffset sec stamp) nsPerSec else n

/-- PPS_DIFF: own PPS minus own time, in 2^-16 ns, saturating (R50); the edge, whose second the own time names, is the one before the next
(R48). -/
def Node.ppsDiff (n : Node) (stamp : Nat) : Node :=
  let sec := (stamp + nsPerSec * fracPerNs / 2) / (nsPerSec * fracPerNs)
  let n := n.s BZ_TIME_PPS_DIFF_DIFF (unsgn 32 (satInt 32 (ppsOffset sec stamp / 2 ^ 16)))
  { n with time := { n.time with tod := none, edgeAt := some n.ns, edgeSec := sec, edgeStamp := some stamp, validStamp := some stamp } }

/-- A SOLO crown's time set by host software (R51): the SET registers become the word, as the step; the unit enters
LOCKED with PARENT_BOUND = 0xFFFF_FFFF. -/
def Node.timeSet (n : Node) : Node :=
  if n.stepped then n
  else
    let w : Nat := ((n.g (BZ_TIME_SETw_WORD 3) * 2 ^ 32 + n.g (BZ_TIME_SETw_WORD 2)) * nsPerSec + n.g (BZ_TIME_SETw_WORD 1)) * fracPerNs
      + n.g (BZ_TIME_SETw_WORD 0)
    let n := n.stepBy ((w : Int) - n.now)
    let n := (n.setTState 2).setBound 0xFFFFFFFF
    ({ n with time := { n.time with boundE := 0xFFFFFFFF, lastValid := some n.ns } } : Node).reportChange

/-- The time unit's reset (R42, R43, R481): every register of its scope and the unit at reset. -/
def Node.timeReset (n : Node) : Node :=
  let n := n.resetRegs (if n.crown then .cTime else .lTime)
  { n with time := TimeUnit.reset }

/-- The time unit's reset while the packer runs: a rise of FAULT and a change of STATE, STEPPED or UPHOLD are told as any other is (R46, R151). -/
def Node.timeResetTold (n : Node) : Node :=
  let was := n.tfault
  let code := n.timeCode
  let n := n.timeReset
  let n := if !n.crown && n.tfault != was then n.report 0 else n
  if n.timeCode = code then n else n.report 1

end Sys2Proof.Machine
end

