-- ==== Sys2Proof/Machine/Bark.lean ====
section
/-! DEFINITION. Bark lanes (spec/08_bark_links.md, R180 to R209): attempts, service, control blocks, mode changes and
the Sap byte stream of a lane, of a leaf or a crown. -/

namespace Sys2Proof.Machine

/-! ### Ends, states and modes -/

/-- Whether this end of lane `k` leads (Table 8.1). -/
def Node.leads (n : Node) (k : Nat) : Bool :=
  n.crown && (k < 64 || k == 66 || k == 67 || ((k == 70 || k == 71) && n.flag (BK_CTRL_LEAD_FLEX (n.lb k))))

/-- Whether lane `k` exists (R180). -/
def Node.hasLane (n : Node) (k : Nat) : Bool := if n.crown then k < 72 else k == 0 || (k == 1 && n.flag TZ_BK_CFG_LANES2)

/-- STATE of a lane (Table 8.6a). -/
def Node.laneState (n : Node) (k : Nat) : Nat := n.g (BK_STAT_STATE (n.lb k))

/-- MODE of a lane (Table 8.2). -/
def Node.laneMode (n : Node) (k : Nat) : Nat := n.g (BK_STAT_MODE (n.lb k))

/-- Whether this end of the lane transmits in its present STATE; else it is silent (Table 8.6a, R183). -/
def Node.transmits (n : Node) (k : Nat) : Bool := match n.laneState k with
  | 4 => n.leads k
  | 6 => !n.leads k
  | 7 | 8 | 9 | 10 | 11 => true
  | _ => false

/-- The transmitter at the start of a step or mode: symbols begin afresh at a word boundary (R183); the Sap stream and control blocks go with it where the step
carries none, and the record of codes sent where it is silent. -/
def LaneTx.begin_ (x : LaneTx) (framed sends : Bool) : LaneTx :=
  { x with sent := 0, syms := [], buf := [], words := [], last := 0, hist := if sends then x.hist else [], items := if framed then x.items else [],
           cur := if framed then x.cur else [], blocks := if framed then x.blocks else [] }

/-- The lane in a new STATE, from now on; in service exactly in UP (R200). From TRIAL on the symbol stream runs through UP and MODE_CHANGE. -/
def Node.enter (n : Node) (k st : Nat) : Node :=
  let on := decide (8 ≤ n.laneState k) && n.laneState k != 9 && (st == 10 || st == 11)
  let n := (n.s (BK_STAT_STATE (n.lb k)) st).s (BK_STAT_IN_SERVICE (n.lb k)) (if st = 10 then 1 else 0)
  let n := n.setLane k { n.lane k with since := n.ns }
  if on then n else (n.onTx k (·.begin_ (st == 8) (n.transmits k))).onRx k (fun x => { x with slot := 0 })

/-- ESNR_REQ of a mode in 0.1 dB (Table 8.2). -/
def esnrReq (m : Nat) : Int := if m ≤ 1 then 120 else 175

/-- The sender's node word in control blocks and training frames, NONE when it has none (R191, R192). -/
def Node.ownWord (n : Node) : Nat :=
  if n.crown then (if n.g BZ_NODE_WORD = 0 then nodeNone else n.g BZ_NODE_WORD)
  else if n.flag TZ_NODE_VALID then n.src else nodeNone

/-- The capability word of this end (Table 8.6; block version 4.2). -/
def Node.capLocal (n : Node) (k : Nat) : Nat :=
  let b := n.lb k
  0xF * 2 ^ 28 + n.g (BK_CTRL_CEIL b) * 2 ^ 25 + n.g (BK_CTRL_MARGIN b) * 2 ^ 19 + b2n n.crown * 2 ^ 18
    + b2n (!n.crown && n.flag TZ_BK_CFG_LANES2) * 2 ^ 17 + (if n.crown then 0 else k % 2) * 2 ^ 16 + 4 * 2 ^ 12 + 2 * 2 ^ 8

/-- A LANE record of the Ring log (TYPE 0x05): event 0 up, 1 down, 2 retrain, 3 mode change. -/
def Node.laneLog (n : Node) (k event : Nat) : Node := n.log 0x05 (byte k ++ byte event ++ byte (n.laneMode k) ++ zeros 1)

/-- The lane a leaf's class travels on: its LANE while that lane is in service, else the other (R145). -/
def Node.leafLane (n : Node) (cls : Nat) : Nat :=
  if !n.flag TZ_BK_CFG_LANES2 then 0
  else
    let w := n.g (TZ_SAPQk_CTRL_LANE cls)
    if n.up w || !n.up (1 - w) then w else 1 - w

/-- The keys of the strict classes that travel on a lane. -/
def Node.strictOn (n : Node) (k : Nat) : List Nat :=
  if n.crown then [8 * k, 8 * k + 1, 8 * k + 2] else [0, 1, 2].filter (fun c => (n.q c).lane == k)

/-! ### Attempts (R193, R195, R197, R205) -/

/-- LQ.ESNR while there is no measurement (R201). -/
def Node.noEsnr (n : Node) (k : Nat) : Node := n.s (BK_LQ_ESNR (n.lb k)) 0x8000

/-- The number of an echo search engine of lanes 64 to 71 or a free one for a downlink (R205). -/
def Node.freeEngine (n : Node) (k : Nat) : Option Nat :=
  if k ≥ 64 then some (k - 64)
  else (lowest 8 (fun e => !bitOf (n.g BZ_BK_ENG_BUSY) (e + 8))).map (· + 8)

/-- The lane gives its engine back (R205). -/
def Node.dropEngine (n : Node) (k : Nat) : Node :=
  match (n.lane k).engine with
  | none => n
  | some e =>
    let n := n.setLane k { n.lane k with engine := none }
    if n.crown then n.s BZ_BK_ENG_BUSY (putBits (n.g BZ_BK_ENG_BUSY) e e 0) else n

/-- The lane takes engine `e` (R205). -/
def Node.takeEngine (n : Node) (k e : Nat) : Node :=
  let n := n.setLane k { n.lane k with engine := some e }
  if n.crown then n.s BZ_BK_ENG_BUSY (putBits (n.g BZ_BK_ENG_BUSY) e e 1) else n

/-- What an attempt starts with: a SESSION drawn at random, TRAIN mode, nothing heard, TXFIR latched (R192, R193, R197, R203); the states scrambler and PRBS31
start from are free values (log entry 105). -/
def Node.newAttempt (n : Node) (k : Nat) : Node :=
  let (v, n) := n.draw 16
  let (scr, n) := n.draw 58
  let (prbs, n) := n.draw 31
  let n := (n.onTx k (fun x => { x with scr := scr, prbs := prbs, fir := (n.word (BK_TXFIR_PRE (n.lb k)).off).toNat })).noEsnr k
  let n := (n.s (BK_STAT_MODE (n.lb k)) 0).count (BK_TRAIN_CNT_COUNT (n.lb k))
  n.setLane k { n.lane k with
    session := v, own := n.capLocal k, probed := false, candidates := [], trial := 0, trialEsnr := none, farEsnr := none, trialUnc := 0, verdict := none, settled := false, failed := false }

/-- A lead with its engine starts to probe (R193, R205). -/
def Node.probe (n : Node) (k e : Nat) : Node := ((n.takeEngine k e).newAttempt k).enter k 4

/-- Lanes that train: those that exist (R180), and in SOLO role no up, peer or flex lane (R15). -/
def Node.trains (n : Node) (k : Nat) : Bool := n.hasLane k && !(n.crown && decide (64 ≤ k) && n.g BZ_STRAP_ROLE == 0)

/-- A new attempt: a lead goes to WAIT_ENGINE, and straight on where its engine is its own; a follow end listens (R200,
R205). -/
def Node.startAttempt (n : Node) (k : Nat) : Node :=
  if !n.trains k then n
  else if !n.leads k then n.enter k 3
  else if k ≥ 64 then n.probe k (k - 64)
  else n.enter k 2

/-- The attempt fails: TRAIN_FAIL and LAST_FAIL, a lead waits in FAIL_WAIT, a follow end listens again (R197). -/
def Node.failAttempt (n : Node) (k cause : Nat) : Node :=
  let b := n.lb k
  let n := (((n.dropEngine k).noEsnr k).count (BK_TRAIN_FAIL_COUNT b)).s (BK_STAT_LAST_FAIL b) cause
  let n := (n.s (BK_STAT_MODE b) 0).setLane k { n.lane k with settled := true, failed := true }
  n.enter k (if n.leads k then 12 else 3)

/-- The lane comes up in a mode: counters of its stay are fresh, the Ring log records it (R196, R200). -/
def Node.laneUp (n : Node) (k mode : Nat) : Node :=
  let n := (n.s (BK_STAT_MODE (n.lb k)) mode).setLane k { n.lane k with
    settled := true, degraded := 0, degrade := false, recent := [], asked := none, target := none, kaSeq := 0, kaAt := n.ns, kaHeard := none, farNoUp := false, farAbsent := false, carried := false, winCw := 0, winUnc := 0, winErr := 0, winAt := n.ns, part := [], hunting := true }
  (n.enter k 10).laneLog k 0

/-- The candidate list and M once the far end's capability word is known (R195). -/
def Node.agree (n : Node) (k far node : Nat) : Node :=
  let b := n.lb k
  let own := (n.lane k).own
  let ok := fun m => bitOf own (27 + m) && bitOf far (27 + m) && m ≤ bitsOf own 27 25 && m ≤ bitsOf far 27 25
  let n := (n.s (BK_CAP_FAR_CAP b) far).s (BK_NODE_FAR_NODE b) node
  n.setLane k { n.lane k with candidates := [4, 3, 2, 1].filter ok, margin := max (bitsOf own 24 19) (bitsOf far 24 19) }

/-- The candidate on trial. -/
def Lane.candidate (l : Lane) : Nat := l.candidates.getD l.trial 0

/-- A trial begins (R196). -/
def Node.beginTrial (n : Node) (k : Nat) : Node :=
  let n := n.setLane k { n.lane k with trialEsnr := none, farEsnr := none, trialUnc := 0, verdict := none, winCw := 0, winUnc := 0, winErr := 0, winAt := n.ns }
  (n.s (BK_STAT_MODE (n.lb k)) (n.lane k).candidate).enter k 8

/-- The length of a step in ns (Table 8.6a); a follow end's LEAD_PROBE runs from the COUNTDOWN it joined at. -/
def Node.stepNs (n : Node) (k : Nat) : Nat :=
  match n.laneState k with
  | 4 => if n.leads k then 2097152 else 128 * (n.lane k).countdown
  | 5 => 65536
  | 6 => 2097152
  | 7 => 524288
  | 9 => 300032
  | _ => 0

/-- Whether two windows of 32 samples have no sample in common. -/
def echoApart (a b : Nat) : Bool := decide (a + 32 ≤ b) || decide (b + 32 ≤ a)

/-- The windows clusters are placed on (R198): starts that are multiples of 8 with 32 samples up to delay 66,047, greatest energy first, no two with
a sample in common, none more than `floor` dB below the greatest, at most 8; of equal energies the lower delay (log entry 85). -/
def echoClusters (floor : Nat) (echo : List (Nat × Nat)) : List Nat :=
  let ws := sortBy (fun (a b : Nat × Nat) => decide (b.2 < a.2) || (a.2 == b.2 && decide (a.1 ≤ b.1)))
    (echo.filter (fun w => w.1 % 8 == 0 && decide (w.1 + 32 ≤ 66048) && decide (w.2 > 0)))
  let top := (ws.headD (0, 0)).2
  ws.foldl (fun l w => if decide (l.length < 8) && l.all (echoApart w.1) && decide (top ^ 10 ≤ w.2 ^ 10 * 10 ^ floor) then l ++ [w.1] else l) []

/-- The correlation of samples received with codes sent, newest first of each, over delays of 0 to 66,047 samples (R198). -/
def echoCorr (sent got : List Int) : List Int := (List.range 66048).map (fun d => (List.zipWith (· * ·) got (sent.drop d)).foldl (· + ·) 0)

/-- The energy of every window of 32 samples that starts at a multiple of 8 (R198). -/
def echoEnergies (corr : List Int) : List (Nat × Nat) :=
  (List.range 8253).map (fun i => (8 * i, ((corr.drop (8 * i)).take 32).foldl (fun a c => a + c.natAbs * c.natAbs) 0))

/-- Codes as signed samples about the silent code. -/
def sentSamples (l : List Nat) : List Int := l.map (fun c => (c : Int) - 32)

/-- The echo search at the end of a step in which this end alone probed, on the receive words of its last cycles (R198): clusters, and taps from the
correlation. With no words it finds no echo (log entry 107). -/
def Node.echoSearch (n : Node) (k : Nat) (adc : List Nat) : Node :=
  let b := n.lb k
  let got := (adc.flatMap adcSamples).reverse
  let corr := if adc.isEmpty then [] else echoCorr (sentSamples (n.lane k).tx.hist) got
  let cs := if adc.isEmpty then [] else echoClusters (n.g (BK_EC_CTRL_FLOOR b)) (echoEnergies corr)
  let n := n.onRx k (fun x => { x with taps := cs.flatMap (fun d => (List.range 32).map (fun i => Config.tapInit (corr.getD (d + i) 0) got.length)) })
  (List.range 8).foldl (fun (n : Node) c =>
    (n.s (BK_EC_CLUSc_EN b c) (b2n (decide (c < cs.length)))).s (BK_EC_CLUSc_DELAY b c) (cs.getD c 0)) n

/-- One received sample through the canceller (R198, R199): the convolution of the codes sent, `sent` newest first from this sample on, with the taps is taken
off; with a step 2^-MU the taps follow what is left (log entry 107). -/
def LaneRx.cancel (x : LaneRx) (delays : List Nat) (mu : Option Nat) (sent : List Int) (s : Int) : LaneRx :=
  let refs := delays.flatMap (fun d => (List.range 32).map (fun i => sent.getD (d + i) 0))
  let e := s - (List.zipWith (· * ·) x.taps refs).foldl (· + ·) 0 / 2 ^ 32
  let taps := match mu with
    | none => x.taps
    | some m => List.zipWith (fun t r => t + e * r * 2 ^ (32 - m)) x.taps refs
  { x with taps := taps, powIn := x.powIn + s.natAbs * s.natAbs, powOut := x.powOut + e.natAbs * e.natAbs }

/-- The gain code follows the RMS of `cnt` samples of total power `pow`: a step toward 20 to 32 codes (R184; log entry 106). -/
def gainStep (gain pow cnt : Nat) : Nat := if pow < 400 * cnt then min 63 (gain + 1) else if pow > 1024 * cnt then gain - 1 else gain

/-- Clock recovery moves PI by one step, across the wrap by shifting the slot index (R184). -/
def LaneRx.piStep (x : LaneRx) (up : Bool) : LaneRx :=
  if up then (if x.pi = 127 then { x with pi := 0, slot := x.slot + 1 } else { x with pi := x.pi + 1 })
  else if x.pi = 0 then { x with pi := 127, slot := x.slot - 1 } else { x with pi := x.pi - 1 }

/-- The receive words that came with a frame or codeword (R182): the canceller runs and, from EXCHANGE on, adapts unless FREEZE holds it; gain follows; PI moves
by at most one step per 8 words, whichever way clock recovery takes it (R184, R198, R199; log entry 106). -/
def Node.takeAdc (n : Node) (k : Nat) (adc : List Nat) : Node :=
  if adc.isEmpty then n
  else
    let b := n.lb k
    let samples := adc.flatMap adcSamples
    let sent := sentSamples (n.lane k).tx.hist
    let delays := (numsWhere 8 (fun c => n.flag (BK_EC_CLUSc_EN b c))).map (fun c => n.g (BK_EC_CLUSc_DELAY b c))
    let mu := if n.flag (BK_EC_CTRL_FREEZE b) || decide (n.laneState k < 7) then none else some (n.g (BK_EC_CTRL_MU b))
    let old := (n.lane k).rx
    let (x, _) := samples.foldl (fun (a : LaneRx × Nat) s => (a.1.cancel delays mu (sent.drop (a.2 - 1)) s, a.2 - 1)) (old, samples.length)
    let x := { x with gain := gainStep old.gain (x.powIn - old.powIn) samples.length, words := old.words + adc.length }
    if x.words < 8 then n.onRx k (fun _ => x)
    else
      let (v, n) := n.draw 2
      n.onRx k (fun _ => { (if v = 1 then x.piStep true else if v = 2 then x.piStep false else x) with words := 0 })

/-- TRAIN_STEP_END (R193, R195, R198): the step's length has passed and the lane goes on. -/
def Node.stepEnd (n : Node) (k : Nat) (adc : List Nat) : Node :=
  if (n.lane k).since + n.stepNs k > n.ns then n
  else match n.laneState k with
  | 4 => (if n.leads k then n.echoSearch k adc else n).enter k 5
  | 5 => n.enter k 6
  | 6 =>
    let n := if n.leads k then n else n.echoSearch k adc
    if n.leads k && !(n.lane k).probed then n.failAttempt k 1 else (n.dropEngine k).enter k 7
  | 7 => if (n.lane k).candidates.isEmpty then n.failAttempt k 3 else n.beginTrial k
  | 9 => n.beginTrial k
  | _ => n

/-- PROBE_HEARD (R193): a listening follow end that locks while COUNTDOWN ≥ 4,096 joins the attempt. -/
def Node.probeHeard (n : Node) (k session countdown : Nat) : Node :=
  let n := n.s (BK_STAT_SIGNAL (n.lb k)) 1
  if n.laneState k = 3 ∧ 4096 ≤ countdown ∧ countdown < 16384 then
    let n := n.newAttempt k
    (n.setLane k { n.lane k with farSession := session, countdown := countdown }).enter k 4
  else n

/-- Whether 128 bytes are a training frame whose pattern and CRC hold (R192). -/
def trainGood (l : List Byte) : Bool :=
  decide (l.length = 128) && decide ((l.take 8) = (le 8 markerPattern).reverse) && decide (crc32c ((l.drop 8).take 112) = field l 120 4)

/-- A training frame this end sends (Table 8.5): type, candidate, COUNTDOWN and the 96 bytes of PRBS31. -/
def Node.trainFrame (n : Node) (k typ mode countdown : Nat) (prbs : List Byte) : List Byte :=
  let body := byte typ ++ byte (b2n (n.leads k) + 2 * (mode % 8)) ++ le 2 (n.lane k).session ++ le 2 countdown ++ zeros 2
    ++ le 4 (n.lane k).own ++ le 4 n.ownWord ++ (prbs ++ zeros 96).take 96
  (le 8 markerPattern).reverse ++ body ++ le 4 (crc32c body) ++ zeros 4

/-- A training frame whose pattern, CRC and node word hold (R192, R193, R195): a lead that hears another lead in LEAD_PROBE
fails with 2; a follow PROBE frame in FOLLOW_PROBE makes it valid; an EXCH frame gives the far end's capability. -/
def Node.trainingTaken (n : Node) (k : Nat) (l : List Byte) : Node :=
  let lead := bitOf (field l 9 1) 0
  let session := field l 10 2
  match field l 8 1, n.laneState k with
  | 1, 4 => if n.leads k && lead && session ≠ (n.lane k).session then n.failAttempt k 2 else n
  | 1, 6 => if n.leads k && !lead then n.setLane k { n.lane k with probed := true, farSession := session } else n
  | 2, 7 => n.agree k (field l 16 4) (field l 20 4)
  | _, _ => n

/-- TRAINING_FRAME (R192): judged by its pattern and CRC, and at a crown by its node word (R18). -/
def Node.trainingFrame (n : Node) (k : Nat) (l : List Byte) (adc : List Nat) : Node :=
  let n := n.takeAdc k adc
  if !trainGood l then n else (n.s (BK_STAT_SIGNAL (n.lb k)) 1).judged [] [field l 20 4] (·.trainingTaken k l)

/-- The lead's verdict of a trial (R196). -/
def Node.verdictOf (n : Node) (k : Nat) : Nat :=
  let l := n.lane k
  let need := esnrReq l.candidate + l.margin
  match l.trialEsnr, l.farEsnr with
  | some a, some b => if a ≥ need ∧ b ≥ need ∧ l.trialUnc = 0 then l.candidate else 0
  | _, _ => 0

/-- TRIAL_VERDICT (R196): at 1.0 ms both ends act on the lead's verdict. -/
def Node.trialVerdict (n : Node) (k : Nat) : Node :=
  let l := n.lane k
  if n.laneState k ≠ 8 ∨ l.since + 1000000 > n.ns then n
  else
    let pass := l.candidate ≠ 0 ∧ l.verdict = some l.candidate
    if pass then n.laneUp k l.candidate
    else
      let n := n.setLane k { l with trial := l.trial + 1 }
      if l.trial + 1 < l.candidates.length then (n.s (BK_STAT_MODE (n.lb k)) 0).enter k 9 else n.failAttempt k 4

/-! ### Leaving service (R200, R203) -/

/-- DOWN (R200): counted and logged, silent for 1 ms; the strict classes' replay stores freeze (R147). -/
def Node.laneDown (n : Node) (k event : Nat) : Node :=
  let n := (n.strictOn k).foldl Node.freezeStore n
  let n := (n.count (BK_DOWN_CNT_COUNT (n.lb k))).laneLog k event
  let n := n.setLane k { n.lane k with part := [], hunting := true, asked := none, target := none, degrade := false, recent := [], carried := false }
  (((n.s (BK_STAT_MODE (n.lb k)) 0).dropEngine k).noEsnr k).enter k 1

/-- Whether the lane is UP or changing its mode: the states DOWN takes it out of. -/
def Node.serving (n : Node) (k : Nat) : Bool := n.laneState k == 10 || n.laneState k == 11

/-- LANE_DOWN (R200): 0 loss of signal for 2 µs, 1 four missed markers, 2 eight of the last 64 codewords. -/
def Node.laneDownBy (n : Node) (k cause : Nat) : Node :=
  let n := if cause = 0 then n.s (BK_STAT_SIGNAL (n.lb k)) 0 else n
  if !n.serving k then n
  else if cause = 0 then (n.laneDown k 1).s (BK_STAT_LAST_FAIL (n.lb k)) 6
  else if cause = 1 then n.laneDown k 1
  else if ((n.lane k).recent.filter (· == true)).length ≥ 8 then n.laneDown k 1
  else n

/-- SILENT_END (R200): after 1 ms a new attempt. -/
def Node.silentEnd (n : Node) (k : Nat) : Node :=
  if n.laneState k = 1 ∧ (n.lane k).since + 1000000 ≤ n.ns then n.startAttempt k else n

/-- LANE_EN_WRITE (R203): 0 silences the lane into OFF, 1 from OFF starts an attempt. -/
def Node.laneEn (n : Node) (k : Nat) (en : Bool) : Node :=
  let n := n.s (BK_CTRL_EN (n.lb k)) (b2n en)
  if en then (if n.laneState k = 0 then n.startAttempt k else n)
  else
    let n := if n.serving k then n.laneDown k 1 else n.dropEngine k
    (n.s (BK_STAT_MODE (n.lb k)) 0).enter k 0

/-- RETRY (R197): a failed lead starts again after RETRY_MS. -/
def Node.retry (n : Node) (k : Nat) : Node :=
  let ms := max 1 (n.g (BK_RETRY_RETRY_MS (n.lb k)))
  if n.laneState k = 12 ∧ (n.lane k).since + ms * 1000000 ≤ n.ns then n.startAttempt k else n

/-! ### Control blocks (R191, R202, R203) -/

/-- A control block (Table 8.4). -/
def Node.block (n : Node) (k op mode : Nat) (esnr : Int) (root absent noUp : Bool) : List Byte :=
  byte op ++ byte (mode % 8 + 8 * b2n root + 16 * b2n absent + 32 * b2n noUp) ++ le 2 (unsgn 16 esnr) ++ le 4 n.ownWord
    ++ le 4 (n.lane k).own ++ le 4 (n.lane k).kaSeq ++ zeros 48

/-- ESNR as LQ shows it. -/
def Node.lqEsnr (n : Node) (k : Nat) : Int := sgn 16 (n.g (BK_LQ_ESNR (n.lb k)))

/-- A control block goes to the lane's next CTRL codeword (R190, R191). -/
def Node.putBlock (n : Node) (k : Nat) (b : List Byte) : Node := (n.emit (.control k b)).onTx k (fun x => { x with blocks := x.blocks ++ [b] })

/-- Sends a control block with no path bits. -/
def Node.sendBlock (n : Node) (k op mode : Nat) : Node := n.putBlock k (n.block k op mode (n.lqEsnr k) false false false)

/-- KEEPALIVE_SEND (R191, R196): every KA_US µs while UP; in TRIAL the ESNR measured at 0.8 ms, and the lead's verdict
from 0.9 ms. `root`, `absent` and `noUp` are the path bits the sender's state gives; the measured ESNR is the fraction's. -/
def Node.keepaliveSend (n : Node) (k : Nat) (num den : Nat) (root absent noUp : Bool) : Node :=
  let l := n.lane k
  let ka := max 1 (n.g (BK_CTRL_KA_US (n.lb k))) * 1000
  let send := fun (n : Node) (m : Nat) (e : Int) =>
    let n := n.setLane k { n.lane k with kaSeq := ((n.lane k).kaSeq + 1) % 2 ^ 32, kaAt := n.ns }
    n.putBlock k (n.block k 1 m e root absent noUp)
  if n.laneState k = 10 then (if l.kaAt + ka ≤ n.ns then send n (n.laneMode k) (n.lqEsnr k) else n)
  else if n.laneState k ≠ 8 then n
  else if l.since + 900000 ≤ n.ns then
    if n.leads k then
      let v := n.verdictOf k
      send (n.setLane k { l with verdict := some v }) v (l.trialEsnr.getD (-32768))
    else n
  else if l.since + 800000 ≤ n.ns then
    let (e, n) := if num = 0 then (let (v, n) := n.draw 16; (sgn 16 v, n)) else (esnrOf l.candidate num den, n)
    send (n.setLane k { n.lane k with trialEsnr := some e }) l.candidate e
  else n

/-- A sound KEEPALIVE (R191): the far end's node word and path bits; in TRIAL its ESNR, and from 0.9 ms the lead's
verdict. -/
def Node.keepaliveTaken (n : Node) (k : Nat) (b : List Byte) : Node :=
  let l := n.lane k
  let x := field b 1 1
  if n.laneState k = 8 then
    if !n.leads k && l.since + 900000 ≤ n.ns then n.setLane k { l with verdict := some (x % 8) }
    else n.setLane k { l with farEsnr := some (sgn 16 (field b 2 2)) }
  else if n.serving k then
    let n := n.s (BK_NODE_FAR_NODE (n.lb k)) (field b 4 4)
    n.setLane k { l with
      kaHeard := some n.ns, farNoUp := bitOf x 5, carried := l.carried && bitOf x 5, farAbsent := bitOf x 4, rootAt := if bitOf x 3 then some n.ns else l.rootAt }
  else n

/-- KEEPALIVE received (R191): the sender's node word, or NONE, is judged first (R18, R19). -/
def Node.keepalive (n : Node) (k : Nat) (b : List Byte) : Node := n.judged [] [field b 4 4] (·.keepaliveTaken k b)

/-- RETRAIN_WRITE (R203): four RETRAIN blocks, then DOWN; the time they take on the lane is left out (log entry 108). -/
def Node.retrainWrite (n : Node) (k : Nat) : Node :=
  if !n.serving k then n
  else
    let n := (List.range 4).foldl (fun (n : Node) _ => n.sendBlock k 5 (n.laneMode k)) n
    n.laneDown k 2

/-- RETRAIN received (R203): DOWN at once. -/
def Node.retrain (n : Node) (k : Nat) : Node := if n.serving k then n.laneDown k 2 else n

/-! ### Step-down (R202) -/

/-- The next lower mode in the candidate list. -/
def Node.lower (n : Node) (k : Nat) : Option Nat := (n.lane k).candidates.find? (fun m => m < n.laneMode k)

/-- The lane enters MODE_CHANGE toward a target. -/
def Node.beginChange (n : Node) (k m : Nat) (far : Bool) : Node :=
  let n := n.setLane k { n.lane k with asked := none, target := some m, changeAt := n.ns, farSent := far, txDone := false, rxDone := false, degrade := false, degraded := 0 }
  n.enter k 11

/-- MODE_REQ sent (R202): a degraded lane asks for the next lower candidate; none lower, it stays in UP. -/
def Node.modeReqSend (n : Node) (k : Nat) : Node :=
  if n.laneState k = 10 ∧ (n.lane k).degrade ∧ (n.lane k).asked = none then
    match n.lower k with
    | none => n
    | some m => (n.setLane k { n.lane k with asked := some m }).sendBlock k 2 m
  else n

/-- MODE_REQ received (R202): answered with MODE_ACK unless this end's own request stands: the lower target, and on
equal targets the lead's. A target that is no candidate below the present mode is no step-down: a lane in service never rises (R204). -/
def Node.modeReq (n : Node) (k m : Nat) : Node :=
  let mine : Bool := match (n.lane k).asked with
    | none => false
    | some a => a < m || (a == m && n.leads k)
  if n.laneState k ≠ 10 ∨ mine ∨ !(n.lane k).candidates.contains m ∨ m ≥ n.laneMode k then n
  else (n.sendBlock k 3 m).beginChange k m false

/-- MODE_ACK received (R202): answered with MODE_GO. -/
def Node.modeAck (n : Node) (k m : Nat) : Node :=
  if n.laneState k = 10 ∧ (n.lane k).asked = some m then (n.sendBlock k 4 m).beginChange k m true else n

/-- MODE_GO received (R202): the receiver expects the new mode from the 16th frame boundary after it. -/
def Node.modeGo (n : Node) (k m : Nat) : Node :=
  if n.laneState k = 11 ∧ (n.lane k).target = some m then n.setLane k { n.lane k with farSent := true } else n

/-- MODE_SWITCH (R202): the 16th frame boundary: the transmitter switches, or the receiver expects the new mode. -/
def Node.modeSwitch (n : Node) (k : Nat) (tx : Bool) : Node :=
  let l := n.lane k
  match n.laneState k, l.target with
  | 11, some m =>
    if tx then ((n.setLane k { l with txDone := true }).onTx k (·.begin_ true true)).s (BK_STAT_MODE (n.lb k)) m
    else if l.farSent then n.setLane k { l with rxDone := true } else n
  | _, _ => n

/-- MODE_LOCKED (R202): four consecutive markers locked in the new mode: UP, counted and logged. -/
def Node.modeLocked (n : Node) (k : Nat) : Node :=
  let l := n.lane k
  match n.laneState k, l.target with
  | 11, some m =>
    if l.rxDone then
      let n := ((n.s (BK_STAT_MODE (n.lb k)) m).count (BK_DEGRADE_CNT_COUNT (n.lb k))).setLane k { l with target := none, recent := [] }
      (n.enter k 10).laneLog k 3
    else n
  | _, _ => n

/-- MODE_CHANGE_TIMEOUT (R202): more than 500 µs takes the lane DOWN. -/
def Node.modeTimeout (n : Node) (k : Nat) : Node :=
  if n.laneState k = 11 ∧ (n.lane k).changeAt + 500000 < n.ns then (n.laneDown k 1).s (BK_STAT_LAST_FAIL (n.lb k)) 5 else n

/-! ### Link quality (R201, R202) -/

/-- LQ_WINDOW_END: the window's figures, and whether the lane must step down. The mean square slicer error is the
fraction `num`/`den`; at 0 the figure is a free value (log entry 3). ERLE is the power of the samples over that of what the canceller left; with no sample in
the window it stands (R199; log entry 107). -/
def Node.lqEnd (n : Node) (k num den : Nat) : Node :=
  let b := n.lb k
  let l := n.lane k
  let win := max 1 (n.g (BK_DEG_LQ_MS b)) * 1000000
  if !(n.laneState k == 8 || n.laneState k == 10) || l.winAt + win > n.ns then n
  else
    let (e, n) := if num = 0 ∨ den = 0 then (let (v, n) := n.draw 16; (sgn 16 v, n)) else (esnrOf (n.laneMode k) num den, n)
    let n := (n.s (BK_LQ_ESNR b) (unsgn 16 e)).s (BK_LQ_NLOG_SER b) (nlogSer l.winCw (l.winErr + 16 * l.winUnc))
    let n := if l.rx.powIn = 0 then n else n.s (BK_ERLE_ERLE b) (if l.rx.powOut = 0 then 0xFFFF else min 0xFFFF (floorLog l.rx.powIn l.rx.powOut).toNat)
    let low := e < esnrReq (n.laneMode k) + l.margin - n.g (BK_DEG_DEG_HYST b)
    let d := if low then l.degraded + 1 else 0
    let hit := n.laneState k == 10 && (d ≥ max 1 (n.g (BK_DEG_DEG_N b)) || l.winUnc ≥ max 1 (n.g (BK_DEG_UNC_DEG b)))
    n.setLane k { l with degraded := d, degrade := hit || l.degrade, winCw := 0, winUnc := 0, winErr := 0, winAt := n.ns, rx := { l.rx with powIn := 0, powOut := 0 } }

/-! ### The Sap byte stream (R189, R190) -/

/-- Takes whole Sap frames off a stream: between frames 0x00 is skipped, and a first byte other than 0x02 ends the
stream. The frames, the bytes of a frame in progress, and whether the stream was lost. -/
def sapFrames (fuel : Nat) (l : List Byte) : List (List Byte) × List Byte × Bool :=
  match fuel, l with
  | 0, l => ([], l, false)
  | _, [] => ([], [], false)
  | m + 1, b :: r =>
    if b = 0 then sapFrames m r
    else if b ≠ 2 then ([], [], true)
    else
      let len := 28 + field (b :: r) 2 2
      if (b :: r).length < 4 ∨ (b :: r).length < len then ([], b :: r, false)
      else
        let (fs, p, bad) := sapFrames m ((b :: r).drop len)
        ((b :: r).take len :: fs, p, bad)

/-- What a codeword brought: Sap frames completed, or a control block. -/
inductive Brought where
  | frames (l : List (List Byte))
  | block (b : List Byte)
  | nothing

/-- A discarded codeword: counted, the frame in progress dropped (R189). -/
def Node.lostCodeword (n : Node) (k : Nat) : Node :=
  (n.count (BK_FEC_UNCORR_COUNT (n.lb k))).setLane k { n.lane k with part := [], hunting := true }

/-- CODEWORD_RECEIVE (R189, R190): decoded, counted, its bytes or block taken; CWI 0 with TSM = 1 keeps the stamp of its Bark frame's first marker symbol; 8 of the last 64 uncorrectable take the
lane DOWN (R200). -/
def Node.codeword (n : Node) (k : Nat) (w : CodewordHeard) : Node × Brought :=
  let n := n.takeAdc k w.adc
  let b := n.lb k
  let l := n.lane k
  if !(n.serving k || n.laneState k == 8) then (n, .nothing)
  else
    let (st, c) := Codeword.decode w.symbols l.descr
    let bad := c.isNone
    let n := (n.s (BK_STAT_SIGNAL b) 1).count (BK_FEC_CW_COUNT b)
    let measured := n.laneState k == 8 && l.since + 600000 ≤ n.ns && n.ns < l.since + 800000
    let n := n.setLane k { l with
      descr := st, winCw := l.winCw + 1, winUnc := l.winUnc + b2n bad, trialUnc := l.trialUnc + b2n (bad && measured), recent := (bad :: l.recent).take 64 }
    match c with
    | none =>
      let n := n.lostCodeword k
      (if n.serving k && ((n.lane k).recent.filter (· == true)).length ≥ 8 then n.laneDown k 1 else n, .nothing)
    | some (c, e) =>
      let n := (n.inc (BK_FEC_CORR_COUNT b) e).setLane k { n.lane k with winErr := (n.lane k).winErr + e }
      let n := if c.typ = 0 ∧ c.cwi = 0 ∧ c.tsm then n.onRx k (fun x => { x with tsmAt := w.marker.map (n.portStamp k) }) else n
      if c.typ = 1 then (n, .block (c.payload.take 64))
      else if c.typ ≠ 0 then (n.lostCodeword k, .nothing)
      else if (n.lane k).hunting && c.soff = 0x3FF then (n, .nothing)
      else
        let bytes := if (n.lane k).hunting then c.payload.drop c.soff else (n.lane k).part ++ c.payload
        let (fs, p, lost) := sapFrames (bytes.length + 1) bytes
        (n.setLane k { n.lane k with part := p, hunting := lost }, .frames fs)

/-- A received control block acts by its OP; others are reserved and ignored (Table 8.4). -/
def Node.takeBlock (n : Node) (k : Nat) (b : List Byte) : Node :=
  let m := field b 1 1 % 8
  n.judged [] [field b 4 4] fun n => match field b 0 1 with
    | 1 => n.keepaliveTaken k b
    | 2 => n.modeReq k m
    | 3 => n.modeAck k m
    | 4 => n.modeGo k m
    | 5 => n.retrain k
    | _ => n

/-- A leaf lane's L-LINK reset is released (R207): its registers at reset and, with EN = 1, LISTEN. -/
def Node.leafLaneReset (n : Node) (k : Nat) (run : Bool) : Node :=
  let b := n.lb k
  let n := { n with regs := n.regs.filter (fun e => !(decide (b ≤ e.1) && decide (e.1 < b + 0x100))) }
  let n := n.setLane k { Lane.reset with since := n.ns }
  if run && n.hasLane k && n.flag (BK_CTRL_EN b) then n.startAttempt k else n

/-- The settings of a write to a lane's CTRL (R203); LEAD_FLEX stands on a crown's lanes 70 and 71 alone (R180). -/
def Node.laneSettings (n : Node) (k v : Nat) : Node :=
  let b := n.lb k
  let n := ((n.s (BK_CTRL_CEIL b) (bitsOf v 28 26)).s (BK_CTRL_MARGIN b) (bitsOf v 25 20)).s (BK_CTRL_KA_US b) (bitsOf v 15 8)
  if n.crown && (k == 70 || k == 71) then (n.s (BK_CTRL_LEAD_FLEX b) (bitsOf v 29 29)).s (BK_STAT_LEAD b) (bitsOf v 29 29) else n

/-- A write to a lane's CTRL (R203): its settings, then EN, then RETRAIN. Without its clock the lane only keeps the bits. -/
def Node.laneCtrlWrite (n : Node) (k v : Nat) (dead : Bool) : Node :=
  let n := n.laneSettings k v
  if dead then n.s (BK_CTRL_EN (n.lb k)) (bitsOf v 31 31)
  else
    let n := n.laneEn k (bitOf v 31)
    if bitOf v 30 then n.retrainWrite k else n

end Sys2Proof.Machine
end

