-- ==== Sys2Proof/Machine/GuardState.lean ====
section
/-! DEFINITION. The sensor hub, watch units, guards and the V/f port behind their registers
(spec/04_sensors_guards_ageing.md, R94 to R113). -/

namespace Sys2Proof.Machine

/-- A guard record before its TRIP_SEQ is assigned (Table 4.7). -/
structure GuardRec where
  typ : Nat
  stamp : Stamp
  injected : Bool
  radio : Bool
  /-- Watch unit, V/f domain or 0xFF. -/
  unit : Nat
  chan : Nat
  value : Nat
  actions : Nat
  guard : Nat
  depth : Nat
  coalesced : Nat
  deriving DecidableEq, Repr

/-- A watch unit behind its registers; TRIPPED is the register bit (R97 to R99, R107). -/
structure Watch where
  /-- The CTRL, THR and HP words in force (R98). -/
  ctrl : Nat
  thr : Nat
  hp : Nat
  /-- A write waits for the next sample of the unit's channel. -/
  dirty : Bool
  trip : Nat
  clear : Nat
  injected : Bool
  /-- A REFUSED or PARTIAL result left the unit's DEPTH above the steps in force (R111). -/
  short : Bool
  /-- The state in the unit's last record, the end of its holdoff in ns, and transitions not recorded (R107). -/
  lastState : Bool
  holdUntil : Option Nat
  coalesced : Nat
  /-- The last transition, when no record of it was sent. -/
  last : Option GuardRec
  deriving DecidableEq, Repr

def Watch.reset : Watch := ⟨0, 0x7FFF8000, 0x101, false, 0, 0, false, false, false, none, 0, none⟩

/-- An outstanding V/f request (R109): its target, TAG, and the L-TIME moment of its transfer in ns, none while it is
presented and not yet taken. -/
structure VfOut where
  steps : Nat
  tag : Nat
  word : Nat
  sentAt : Option Nat
  deriving DecidableEq, Repr

/-- A V/f domain behind its registers (R110, R111). -/
structure VfDom where
  out : Option VfOut
  crown : Nat
  soft : Nat
  /-- The target of the last request answered REFUSED or PARTIAL. -/
  refused : Option Nat
  /-- A timed-out request to be sent again: target and the L-TIME moment in ns (R111). -/
  resend : Option (Nat × Nat)
  deriving DecidableEq, Repr

def VfDom.reset : VfDom := ⟨none, 0, 0, none, none⟩

/-- The sensor and guard unit (R94 to R113). -/
structure Guards where
  watch : Tab Watch
  /-- Fence latches are register bits; this is the synchronised work-class input, radio until the first sample (R103). -/
  wclass : Tab Bool
  /-- Straps `grd_safe[g]`, one bit each, and whether the outputs are forced to them (R112). -/
  safe : Nat
  forced : Bool
  /-- TRIP and CLEAR records awaiting the packer, and the slots of FENCE_CLR and VF_RESULT (R108). -/
  queue : List GuardRec
  fenceSlot : Tab (Option GuardRec)
  vfSlot : Tab (Option GuardRec)
  vf : Tab VfDom
  vfTag : Nat
  /-- The last RATE window boundary taken, in µs (R97). -/
  winUs : Option Nat
  /-- v_start of each channel in the present window (R97). -/
  start : Tab (Option Nat)
  /-- L-TIME time that has run, in ns (R111). -/
  ltNs : Nat
  deriving DecidableEq, Repr

/-- The unit after the L-AON reset: nothing tripped, every class radio (R103, R112, R113). -/
def Guards.reset : Guards :=
  { watch := [], wclass := [], safe := 0, forced := false, queue := [], fenceSlot := [], vfSlot := [], vf := [], vfTag := 0,
    winUs := none, start := [], ltNs := 0 }

end Sys2Proof.Machine
end

