-- ==== Sys2Proof/Machine/HeartState.lean ====
section
/-! DEFINITION. The Heartwood partition behind its registers (spec/15_heartwood.md, R373 to R397). -/

namespace Sys2Proof.Machine

/-- What an account has been charged (R376 to R380): whole quantities of the span, its energy with the fraction carried, in
2^-48 nJ, and its weight in the sub-interval in progress. -/
structure Account where
  busy : Nat
  stall : Nat
  hold : Nat
  bytes : Nat
  energy : Nat
  reqDone : Nat
  untracked : Nat
  weight : Nat
  /-- Something was charged in the span. -/
  charged : Bool
  deriving DecidableEq, Repr

/-- An account nothing has been charged to. -/
def Account.zero : Account := ⟨0, 0, 0, 0, 0, 0, 0, 0, false⟩

/-- An entry of the request table (R378). -/
structure ReqEntry where
  slot : Nat
  tenant : Nat
  req : Nat
  engines : List Nat
  /-- HWD cycle of the first charged cycle's sub-interval, and at which the entry closed. -/
  tOpen : Nat
  tClose : Nat
  busy : Nat
  stall : Nat
  hold : Nat
  bytes : Nat
  energy : Nat
  weight : Nat
  /-- Order of the last charge: the least is the least recent. -/
  last : Nat
  splitBefore : Bool
  splitAfter : Bool
  reopened : Bool
  empty : Bool
  /-- An end has come for it in this sub-interval (R377). -/
  ending : Bool
  deriving DecidableEq, Repr

/-- A record in the store: its HSEQ, type and bytes (R386). -/
structure HeartRec where
  hseq : Nat
  typ : Nat
  bytes : List Byte
  deriving DecidableEq, Repr

/-- An event not yet a record: EVT, CODE and DATA, and what stood at its moment (R382, R392). -/
structure HeartEvent where
  evt : Nat
  code : Nat
  seal_ : Nat
  ctr : Nat
  data : List Byte
  cycle : Nat
  interval : Nat
  flags : Nat
  opsec : Nat
  pcc : Nat
  /-- Its HSEQ, once it is a record. -/
  hseq : Option Nat
  deriving DecidableEq, Repr

/-- A METER, CLOSE, CHECKPOINT or SEAL record of a span that has closed and that waits for space in the store (R386): its head's fields, what follows
the head before CHAIN and SIG, and the table entry a CLOSE still holds (8,192: none). -/
structure HeartDue where
  typ : Nat
  flags : Nat
  opsec : Nat
  pcc : Nat
  first : Nat
  nint : Nat
  body : List Byte
  slot : Nat
  deriving DecidableEq, Repr

/-- The configuration a SET_CONFIG carries (Table 15.5): its 272 payload bytes. -/
abbrev HeartConfig := List Byte

/-- The partition (R373). -/
structure Heart where
  /-- Powered and out of reset with its ROM verified. -/
  up : Bool
  /-- Node time of the release of its reset, in ns: HWD cycle 0 (R375). -/
  startNs : Nat
  /-- Next sub-interval and interval to end. -/
  sub : Nat
  interval : Nat
  /-- OPSEC and PCC as a restore gave them; whether one has succeeded since the reset (R394). -/
  opsecBase : Nat
  pcc : Nat
  restored : Bool
  /-- OPSEC latched by a read of HW_OPSEC_LO. -/
  latch : Nat
  /-- Accounts by tenant; 0xFFFE IDLE, 0xFFFF UNTENANTED. -/
  accounts : Tab Account
  /-- Open entries, and entries closed and not yet emitted (R378). -/
  open_ : List ReqEntry
  closed : List ReqEntry
  /-- Pairs whose last entry was closed: true where a split closed it (R378). -/
  past : List (Nat × Nat × Bool)
  charges : Nat
  /-- HWD cycle of the last power pair, and the sub-interval's energy in 2^-48 nJ (R379). -/
  pairAt : Option Nat
  energy : Nat
  /-- The span in progress: first interval, intervals so far, and its flags (R381). -/
  spanFirst : Nat
  spanLen : Nat
  gap : Bool
  range : Bool
  clk : Bool
  /-- BROKEN for the whole span; SEALED held throughout it so far (R388). -/
  brokenSpan : Bool
  sealedSpan : Bool
  /-- A seal-state change or a configuration took effect in the span (R384). -/
  ckptDue : Bool
  /-- Die totals (Table 15.3): BUSY, STALL, HOLD, BYTES, energy in 2^-48 nJ, REQ_DONE. -/
  totals : Nat × Nat × Nat × Nat × Nat × Nat
  /-- The record store, oldest first; HSEQ of the next record; the next HSEQ to present; events waiting for space. -/
  store : List HeartRec
  hseq : Nat
  next : Nat
  waiting : List HeartEvent
  /-- Records of closed spans that wait for space, and the HSEQ from which events are new to the leaf's Ring log. -/
  due : List HeartDue
  logNext : Nat
  /-- CHAIN of the latest SEAL and the first HSEQ not yet sealed (R383). -/
  chain : List Byte
  sealFrom : Nat
  /-- The records from it on, joined (R383). -/
  unsealed : List Byte
  /-- OTP: fuse counts, configuration slots used, authority key, the die's public key (R387, R389). -/
  sealCnt : Nat
  unsealCnt : Nat
  tamperCnt : Nat
  clearCnt : Nat
  slots : List HeartConfig
  authority : Option (List Byte)
  pk : List Byte
  /-- The seal state in force (R387, R390). -/
  sealed : Nat
  /-- A configuration accepted and waiting for the next interval boundary (R390). -/
  pending : Option HeartConfig
  /-- The 256-entry event log, oldest first (R392). -/
  log : List HeartEvent
  deriving DecidableEq, Repr

/-- A Heartwood never powered: its OTP unburned but for the authority key, as the integrator left it (log entry 23). -/
def Heart.reset : Heart :=
  { up := false, startNs := 0, sub := 0, interval := 0, opsecBase := 0, pcc := 0, restored := false, latch := 0, accounts := [],
    open_ := [], closed := [], past := [], charges := 0, pairAt := none, energy := 0, spanFirst := 0, spanLen := 0, gap := false,
    range := false, clk := false, brokenSpan := false, sealedSpan := false, ckptDue := false, totals := (0, 0, 0, 0, 0, 0),
    store := [], hseq := 0, next := 0, waiting := [], due := [], logNext := 0, chain := zeros 64, sealFrom := 0, unsealed := [], sealCnt := 0, unsealCnt := 0,
    tamperCnt := 0, clearCnt := 0, slots := [], authority := Config.heartAuthority, pk := [], sealed := 0, pending := none, log := [] }

end Sys2Proof.Machine
end

