-- ==== Sys2Proof/Machine/TapState.lean ====
section
/-! DEFINITION. The leaf's audit tap behind its registers (spec/13_audit.md, R316 to R327, R333, R340). -/

namespace Sys2Proof.Machine

/-- A selected sample, or one in the replay table: descriptor, context, T_DESC and its SAMPLE_SEQ (R323, R333). -/
structure Sample where
  desc : List Byte
  ctx : List Byte
  stamp : Stamp
  seq : Nat
  deriving DecidableEq, Repr

/-- What a fetch is for. -/
inductive FetchFor where
  | sample
  | replay
  | digest (slot : Nat)
  deriving DecidableEq, Repr

/-- The fetch in progress (R325): the 64-byte units still to issue, those outstanding by ID, the bytes received. -/
structure Fetch where
  what : FetchFor
  todo : List Nat
  /-- Outstanding: ID and the unit's place in the order. -/
  out : List (Nat × Nat)
  /-- Units received, by place. -/
  got : Tab (List Byte)
  count : Nat
  issued : Nat
  /-- When the last request left, in L-HOST cycles counted as ns (log entry 21). -/
  lastAt : Nat
  /-- Operand bytes handed to the packer so far. -/
  sent : Nat
  start : Stamp
  deriving DecidableEq, Repr

/-- A pending ABANDON record (R323). -/
structure Abandon where
  engine : Nat
  reason : Nat
  stamp : Stamp
  seq : Nat
  tile : Nat
  count : Nat
  deriving DecidableEq, Repr

/-- The audit tap (R316 to R348). -/
structure AuditTap where
  seed : Nat
  /-- Boost of each engine: threshold and tiles left (R321). -/
  boost : Tab (Nat × Nat)
  queue : List Sample
  fetch : Option Fetch
  /-- The sample being worked on. -/
  cur : Option Sample
  /-- Records waiting for C3 (R158). -/
  outbox : List Rec
  abandons : List Abandon
  /-- The last 16 completed samples (R333). -/
  table : List Sample
  /-- Replays waiting, by SAMPLE_SEQ; the one in progress, and whether the engine has completed it. -/
  replays : List Nat
  replay : Option Sample
  ran : Bool
  sseq : Nat
  /-- Per weight slot: when the next pass is due, in canopy seconds (R340). -/
  wdue : Tab (Option Nat)
  deriving DecidableEq, Repr

def AuditTap.reset : AuditTap :=
  { seed := 0, boost := [], queue := [], fetch := none, cur := none, outbox := [], abandons := [], table := [], replays := [],
    replay := none, ran := false, sseq := 0, wdue := [] }

end Sys2Proof.Machine
end

