-- ==== Sys2Proof/Machine/LeafState.lean ====
section
/-! DEFINITION. The leaf: what it shares with a crown, and its own units. -/

namespace Sys2Proof.Machine

/-- A Tezen leaf (R20 to R27). -/
structure Leaf extends Node where
  twigs : Tab Twig
  reader : Reader
  guards : Guards
  trace : TraceUnit
  tap : AuditTap
  heart : Heart
  boot : LeafBoot
  crc : Tab CrcUnit
  deriving DecidableEq, Repr

/-- A leaf with every unit at reset. -/
def Leaf.reset : Leaf :=
  { Node.reset false with
    twigs := [], reader := Reader.reset, guards := Guards.reset, trace := TraceUnit.reset, tap := AuditTap.reset,
    heart := Heart.reset, boot := LeafBoot.reset, crc := [] }

end Sys2Proof.Machine
end

