-- ==== Sys2Proof/Machine/LeafOps.lean ====
section
/-! DEFINITION. The named operations of a leaf over what it shares with a crown, and what a step of its time unit does
to its other units (R47, R81, R82, R89). -/

namespace Sys2Proof.Machine

/-- An operation on what the leaf shares with a crown. -/
def Leaf.on (l : Leaf) (f : Node → Node) : Leaf := { l with toNode := f l.toNode }

/-- A register field set. -/
def Leaf.s (l : Leaf) (f : Fld) (v : Nat) : Leaf := l.on (·.s f v)

/-- A saturating count. -/
def Leaf.inc (l : Leaf) (f : Fld) (k : Nat) : Leaf := l.on (·.inc f k)

/-- One more in a saturating count. -/
def Leaf.count (l : Leaf) (f : Fld) : Leaf := l.on (·.count f)

/-- Something leaves at a port. -/
def Leaf.emit (l : Leaf) (o : Out) : Leaf := l.on (·.emit o)

/-- A record handed to the packer by a source the spec gives no waiting place (log entry 14). -/
def Leaf.post (l : Leaf) (r : Rec) : Leaf := l.on (·.post 0 r)

/-- A Ring log record stamped now. -/
def Leaf.log (l : Leaf) (typ : Nat) (body : List Byte) : Leaf := l.on (·.log typ body)

/-- A free value and the leaf after drawing it. -/
def Leaf.draw (l : Leaf) (w : Nat) : Nat × Leaf := (Config.free l.fresh % 2 ^ w, l.on (fun n => { n with fresh := n.fresh + 1 }))

/-! ### Twigs and groups -/

/-- Twig `t`. -/
def Leaf.twig (l : Leaf) (t : Nat) : Twig := l.twigs.get (fun _ => Twig.reset) t

/-- Whether the packer takes nothing because L-SAP is in reset or has no clock. -/
def Leaf.sapHeld (l : Leaf) : Bool := bitOf l.boot.held 2 || bitOf l.boot.held 0 || bitOf l.boot.failed 2

/-- The leaf with a Twig replaced; what its counters and bins held until now is kept for reads on their way: a loop is at most 511 cycles long (R61, R80). -/
def Leaf.setTwig (l : Leaf) (t : Nat) (w : Twig) : Leaf :=
  let old := l.twigs.get (fun _ => Twig.reset) t
  let past := if old.ctr = w.ctr ∧ old.bins = w.bins then w.past
    else (l.toNode.ns, old.ctr, old.bins) :: w.past.filter (fun e => decide (l.toNode.ns < e.1 + 512))
  { l with twigs := l.twigs.set (fun _ => Twig.reset) t { w with past := past } }

/-- A Twig as its chain stage captured it `ago` ns before now (R80). -/
def Leaf.twigAt (l : Leaf) (t ago : Nat) : Twig :=
  let w := l.twigs.get (fun _ => Twig.reset) t
  match (w.past.filter (fun e => decide (l.toNode.ns < e.1 + ago))).getLast? with
  | none => w
  | some e => { w with ctr := e.2.1, bins := e.2.2 }

/-- A change to the reader. -/
def Leaf.onReader (l : Leaf) (f : Reader → Reader) : Leaf := { l with reader := f l.reader }

/-- The reset settings of a group (R85). -/
def GroupCfg.init (g : Nat) : GroupCfg := if g = 0 then ⟨true, 1000, 0⟩ else ⟨false, 0, 0⟩

/-- The settings of a group in force. -/
def Reader.group (r : Reader) (g : Nat) : GroupCfg := r.groups.get GroupCfg.init g

/-- Whether a PERIOD is in its range (R77). -/
def periodOk (p : Nat) : Bool := decide (5 ≤ p) && decide (p ≤ 16000000)

/-- Whether a group runs. -/
def GroupCfg.runs (c : GroupCfg) : Bool := c.en && periodOk c.period

/-- The first time PHASE + m × PERIOD, in µs, at or after a moment in 2^-32 ns (R77, R79, R82). -/
def GroupCfg.dueFrom (c : GroupCfg) (t : Nat) : Nat :=
  let us := ceilDiv t (1000 * fracPerNs)
  let ph := c.phase % c.period
  if us ≤ ph then ph - (ph - us) / c.period * c.period else ph + ceilDiv (us - ph) c.period * c.period

/-- The next due time of every running group from the present word (R79, R82); none while EN = 0. -/
def Leaf.redue (l : Leaf) : Leaf :=
  let t := l.toNode.now
  l.onReader (fun r => (List.range 8).foldl (fun r g =>
    let c := r.group g
    { r with due := r.due.set (fun _ => none) g (if c.runs && l.toNode.flag TZ_SAP_CTRL_EN then some (c.dueFrom t) else none) }) r)

/-! ### What a step of the word does to the leaf's other units -/

/-- The stamp moved onto canopy time (R47, R89). -/
def Stamp.corrected (s : Stamp) (d : Int) : Stamp :=
  if s.qual = .preStep then ⟨((s.t : Int) + d).toNat, .notLocked⟩ else s

/-- The step seen by the reader (R81, R82, R89): a sweep in progress notes it, last and latched readings are corrected,
due times are computed afresh. -/
def Leaf.afterStep (l : Leaf) : Leaf :=
  let d := l.toNode.delta
  let fix := fun (t : Tab Reading) => t.map (fun e => (e.1, { e.2 with stamp := e.2.stamp.corrected d }))
  let l := l.onReader (fun r =>
    { r with
      sweep := r.sweep.map (fun s => { s with stepIn := true, delta := d })
      last := fix r.last
      latch := fix r.latch })
  l.redue

/-- An operation on the time unit; the leaf's other units follow when it takes the step. -/
def Leaf.onTime (l : Leaf) (f : Node → Node) : Leaf :=
  let was := l.toNode.stepped
  let l := l.on f
  if !was && l.toNode.stepped then l.afterStep else l

end Sys2Proof.Machine
end

