-- ==== Sys2Proof/Machine/Guard.lean ====
section
/-! DEFINITION. Sensor samples, watch units, guard lines, guard records and the V/f port
(spec/04_sensors_guards_ageing.md, R94 to R113). -/

namespace Sys2Proof.Machine

/-- Watch unit `w` and V/f domain `d`. -/
def Leaf.watch (l : Leaf) (w : Nat) : Watch := l.guards.watch.get (fun _ => Watch.reset) w
def Leaf.setWatch (l : Leaf) (w : Nat) (x : Watch) : Leaf :=
  { l with guards := { l.guards with watch := l.guards.watch.set (fun _ => Watch.reset) w x } }
def Leaf.vfDom (l : Leaf) (d : Nat) : VfDom := l.guards.vf.get (fun _ => VfDom.reset) d
def Leaf.setVf (l : Leaf) (d : Nat) (x : VfDom) : Leaf :=
  { l with guards := { l.guards with vf := l.guards.vf.set (fun _ => VfDom.reset) d x } }
def Leaf.onGuards (l : Leaf) (f : Guards → Guards) : Leaf := { l with guards := f l.guards }

/-! ### Settings in force of a unit (R97, R98, R100) -/

def Watch.en (x : Watch) : Bool := bitOf x.ctrl 31
def Watch.mode (x : Watch) : Nat := bitsOf x.ctrl 28 26
def Watch.chan (x : Watch) : Nat := bitsOf x.ctrl 23 18
def Watch.guard (x : Watch) : Nat := bitsOf x.ctrl 17 15
def Watch.actR (x : Watch) : Nat := bitsOf x.ctrl 14 12
def Watch.actT (x : Watch) : Nat := bitsOf x.ctrl 11 9
def Watch.depth (x : Watch) : Nat := bitsOf x.ctrl 8 6
def Watch.hyst (x : Watch) : Nat := bitsOf x.hp 31 16
def Watch.persist (x : Watch) : Nat := max 1 (bitsOf x.hp 15 8)
def Watch.clrPersist (x : Watch) : Nat := max 1 (bitsOf x.hp 7 0)

/-- TRIPPED of a unit. -/
def Leaf.tripped (l : Leaf) (w : Nat) : Bool := l.toNode.flag (TZ_WUw_STAT_TRIPPED w)

/-- A 16-bit value in its channel's number form (R95, R97): comparator channels are unsigned. -/
def Leaf.chanInt (l : Leaf) (c v : Nat) : Int :=
  if decide (c < 56) && l.toNode.flag (TZ_SENc_CFG_SIGNED c) then sgn 16 v else ((v % 2 ^ 16 : Nat) : Int)

/-- The work class in force on a guard: radio when true (R103). -/
def Leaf.radio (l : Leaf) (g : Nat) : Bool :=
  if l.toNode.flag (TZ_GRDg_CTRL_WCLASS_SRC g) then l.toNode.flag (TZ_GRDg_CTRL_WCLASS g)
  else l.guards.wclass.get (fun _ => true) g

/-- What a tripped unit does: 1 THROTTLE, 2 STRETCH, 3 PRUNE, 4 RELIEF, 0 RECORD (Table 4.3, R100, R104). -/
def Leaf.action (l : Leaf) (w : Nat) : Nat :=
  let x := l.watch w
  let r := l.radio x.guard
  let a := if r then x.actR else x.actT
  let a := if a > 4 then 0 else a
  if r && a == 4 then 3 else a

/-- The tripped units on a guard. -/
def Leaf.onGuard (l : Leaf) (g : Nat) : List Nat := numsWhere 32 (fun w => l.tripped w && (l.watch w).guard == g)

/-- The V/f domain of a guard. -/
def Leaf.vfOf (l : Leaf) (g : Nat) : Nat := l.toNode.g (TZ_GRDg_CTRL_VF_DOM g)

/-- A tenant-class RELIEF unit that a REFUSED or PARTIAL result left short throttles too (R111). -/
def Leaf.reliefThrottle (l : Leaf) (w : Nat) : Bool := l.action w == 4 && (l.watch w).short

/-- The units left short by their domain's results (R111): short from a REFUSED or PARTIAL result, while tripped and while DEPTH exceeds
the steps in force. -/
def Leaf.reliefShort (l : Leaf) : Leaf :=
  (List.range 32).foldl (fun (l : Leaf) w =>
    let x := l.watch w
    let d := l.vfOf x.guard
    let on := l.tripped w && decide (x.depth > l.toNode.g (TZ_VFd_STAT_APPLIED d))
      && (x.short || (l.action w == 4 && l.toNode.flag (TZ_VFd_STAT_FAILED d)))
    if on = x.short then l else l.setWatch w { x with short := on }) l

/-- The units that throttle a guard, and its depth (R101). -/
def Leaf.throttlers (l : Leaf) (g : Nat) : List Nat := (l.onGuard g).filter (fun w => l.action w == 1 || l.reliefThrottle w)
def Leaf.depthOf (l : Leaf) (g : Nat) : Nat := (l.throttlers g).foldl (fun a w => max a (l.watch w).depth) 0
def Leaf.acting (l : Leaf) (g a : Nat) : Bool := (l.onGuard g).any (fun w => l.action w == a)

/-- The fence line of a guard at the port (R101, R112). -/
def Leaf.fenceLine (l : Leaf) (g : Nat) : Bool :=
  if l.guards.forced then bitOf l.guards.safe g else l.toNode.flag (TZ_GRDg_STAT_FENCE g)

/-! ### Records (R106 to R108) -/

/-- The actions byte of a guard, with RELIEF_FAILED of its domain. -/
def Leaf.actions (l : Leaf) (g : Nat) : Nat :=
  b2n (!(l.throttlers g).isEmpty) + 2 * b2n (l.acting g 2) + 4 * b2n (l.toNode.flag (TZ_GRDg_STAT_FENCE g)) + 8 * b2n (l.acting g 4)
    + 16 * b2n (l.toNode.flag (TZ_VFd_STAT_FAILED (l.vfOf g)))

/-- The body of a guard record with its TRIP_SEQ (Table 4.7). -/
def GuardRec.body (r : GuardRec) (seq : Nat) : List Byte :=
  twBytes r.stamp.t ++ byte r.typ ++ byte (r.stamp.qual.code + 4 * b2n r.injected + 8 * b2n r.radio) ++ byte r.unit ++ byte r.chan
    ++ le 2 r.value ++ byte r.actions ++ byte (r.guard + 8 * r.depth) ++ le 4 (min r.coalesced (2 ^ 32 - 1)) ++ le 4 seq

/-- The Sap record of a guard record. -/
def GuardRec.toRec (r : GuardRec) (seq : Nat) : Rec :=
  { kind := 4, cls := 0, body := r.body seq, stamp := r.stamp, stampAt := 0, qualAt := some (17, 0), crcTail := false }

/-- Sends a record that C0 can take now: TRIP_SEQ is assigned, and the Ring log keeps TRIP and FENCE_CLR as TYPE 0x04 and
VF_RESULT as TYPE 0x0A (R106, Table 7.2). -/
def Leaf.sendGuard (l : Leaf) (r : GuardRec) : Leaf :=
  let seq := (l.toNode.g TZ_GRD_SEQ_SEQ + 1) % 2 ^ 32
  let l := (l.s TZ_GRD_SEQ_SEQ seq).on (fun n => n.append 0 (r.toRec seq))
  if r.typ = 0x10 ∨ r.typ = 0x13 then l.on (·.logAt 0x04 r.stamp (r.body seq))
  else if r.typ = 0x12 then l.on (·.logAt 0x0A r.stamp (r.body seq))
  else l

/-- Hands waiting guard records to C0 while it takes them, and while L-SAP is out of reset: the queue first, then the slots (R108; log entry 19). -/
def Leaf.pumpGuard (fuel : Nat) (l : Leaf) : Leaf :=
  match fuel with
  | 0 => l
  | m + 1 =>
    if l.sapHeld || !l.toNode.fits 0 32 then l
    else match l.guards.queue with
      | r :: rest => Leaf.pumpGuard m ((l.onGuards (fun g => { g with queue := rest })).sendGuard r)
      | [] => match l.guards.fenceSlot with
        | (g, some r) :: _ => Leaf.pumpGuard m ((l.onGuards (fun x => { x with fenceSlot := x.fenceSlot.set (fun _ => none) g none })).sendGuard r)
        | _ => match l.guards.vfSlot with
          | (d, some r) :: _ => Leaf.pumpGuard m ((l.onGuards (fun x => { x with vfSlot := x.vfSlot.set (fun _ => none) d none })).sendGuard r)
          | _ => l

/-- The queue with its oldest record of a unit removed, and what that record counted. -/
def takeOldest (q : List GuardRec) (w : Nat) : Option (Nat × List GuardRec) :=
  match q with
  | [] => none
  | r :: t => if r.unit = w then some (r.coalesced + 1, t) else (takeOldest t w).map (fun x => (x.1, r :: x.2))

/-- Adds to COALESCED of the first record of a unit. -/
def addCoalesced (q : List GuardRec) (w k : Nat) : List GuardRec :=
  match q with
  | [] => []
  | r :: t => if r.unit = w then { r with coalesced := r.coalesced + k } :: t else r :: addCoalesced t w k

/-- A TRIP or CLEAR record enters the queue of 64; when it is full an older record of the same unit, else of the first unit
that has two, folds into that unit's next (R108). -/
def enqueueGuard (q : List GuardRec) (r : GuardRec) : List GuardRec :=
  if q.length < 64 then q ++ [r]
  else match takeOldest q r.unit with
    | some (k, q) => if q.any (fun x => x.unit == r.unit) then addCoalesced q r.unit k ++ [r] else q ++ [{ r with coalesced := r.coalesced + k }]
    | none => match q.find? (fun x => (q.filter (fun y => y.unit == x.unit)).length ≥ 2) with
      | some x => match takeOldest q x.unit with
        | some (k, q) => addCoalesced q x.unit k ++ [r]
        | none => q
      | none => q

/-- Starts the record of a unit's transition, and its holdoff (R107). -/
def Leaf.recordUnit (l : Leaf) (w : Nat) (r : GuardRec) : Leaf :=
  let x := l.watch w
  let r := { r with coalesced := x.coalesced }
  let l := l.setWatch w { x with
    lastState := r.typ == 0x10, coalesced := 0, last := none, holdUntil := some (l.toNode.ns + l.toNode.g TZ_GRD_HOLDOFF_US * 1000) }
  (l.onGuards (fun g => { g with queue := enqueueGuard g.queue r })).pumpGuard 80

/-- A transition of a unit: recorded, or counted while its holdoff runs (R106, R107). `value` is the completing sample. -/
def Leaf.transition (l : Leaf) (w value : Nat) (trip : Bool) : Leaf :=
  let x := l.watch w
  let g := x.guard
  let back := if x.chan < 56 then 9 else 8
  let r : GuardRec :=
    { typ := if trip then 0x10 else 0x11, stamp := ⟨l.toNode.now - back * fracPerNs, l.toNode.qual⟩, injected := x.injected, radio := l.radio g,
      unit := w, chan := x.chan, value := value, actions := l.actions g, guard := g, depth := l.depthOf g, coalesced := 0 }
  let x := if trip then x else { x with injected := false }
  match x.holdUntil with
  | some t =>
    if l.toNode.ns < t then l.setWatch w { x with coalesced := x.coalesced + 1, last := some r }
    else (l.setWatch w x).recordUnit w r
  | none => (l.setWatch w x).recordUnit w r

/-! ### Lines, targets and requests (R101, R102, R109 to R111) -/

/-- The target of a domain and its SRC (R110). -/
def Leaf.vfTarget (l : Leaf) (d : Nat) : Nat × Nat :=
  let cap := l.toNode.g TZ_VF_CTRL_MAX_STEPS
  let grd := (numsWhere 32 (fun w => l.tripped w && l.action w == 4 && l.vfOf (l.watch w).guard == d)).foldl
    (fun a w => max a (l.watch w).depth) 0
  let a := min grd cap
  let b := min (l.vfDom d).crown cap
  let c := min (l.vfDom d).soft cap
  if a ≥ b ∧ a ≥ c then (a, 0) else if b ≥ c then (b, 1) else (c, 2)

/-- KIND of a request: RELEASE for target 0, else RELIEF_KIND of the lowest guard mapped to the domain (R110). -/
def Leaf.vfKind (l : Leaf) (d target : Nat) : Nat :=
  if target = 0 then 2
  else match lowest 8 (fun g => l.vfOf g == d) with
    | some g => l.toNode.g (TZ_GRDg_CTRL_RELIEF_KIND g)
    | none => 0

/-- A domain calls for a request (R110, R111). -/
def Leaf.vfCalls (l : Leaf) (d : Nat) : Bool :=
  let v := l.vfDom d
  let t := (l.vfTarget d).1
  v.out.isNone && v.resend.isNone && t != l.toNode.g (TZ_VFd_STAT_APPLIED d) && v.refused != some t

/-- Presents the request of a domain: the word is held until it transfers (R109). -/
def Leaf.vfPresent (l : Leaf) (d : Nat) : Leaf :=
  let (t, src) := l.vfTarget d
  let kind := l.vfKind d t
  let tag := l.guards.vfTag
  let word := d * 2 ^ 29 + kind * 2 ^ 27 + src * 2 ^ 24 + t * 2 ^ 16 + tag
  let l := l.setVf d { l.vfDom d with out := some ⟨t, tag, word, none⟩ }
  let l := (l.s (TZ_VFd_STAT_PENDING d) 1).s (TZ_VFd_STAT_KIND d) kind
  l.onGuards (fun g => { g with vfTag := (tag + 1) % 2 ^ 16 })

/-- A request waits at the port. -/
def Leaf.vfPort (l : Leaf) : Option Nat :=
  lowest 8 (fun d => match (l.vfDom d).out with | some o => o.sentAt.isNone | none => false)

/-- The domain's status follows its target, and the lowest domain that calls is presented when the port is free (R109,
R110); none while the outputs are forced (R112). -/
def Leaf.vfUpdate (l : Leaf) : Leaf :=
  let l := (List.range 8).foldl (fun l d =>
    let t := (l.vfTarget d).1
    let v := l.vfDom d
    let v := if v.refused.isSome && v.refused != some t then { v with refused := none } else v
    let v := match v.resend with
      | some (u, _) => if u = t then v else { v with resend := none }
      | none => v
    (l.setVf d v).s (TZ_VFd_STAT_TARGET d) t) l
  if l.guards.forced || l.vfPort.isSome then l
  else match lowest 8 l.vfCalls with
    | some d => l.vfPresent d
    | none => l

/-- Guard status after any change (R101, R102, R104, R112): a tripped PRUNE unit sets its latch; the lines, RELIEF and
RADIO bits, and the V/f targets follow. -/
def Leaf.guardLines (l : Leaf) : Leaf :=
  let l := l.reliefShort
  let l := (List.range 8).foldl (fun l g =>
    let l := if l.acting g 3 then l.s (TZ_GRDg_STAT_FENCE g) 1 else l
    let safe := bitOf l.guards.safe g
    let f := l.guards.forced
    let l := l.s (TZ_GRDg_STAT_STRETCH g) (b2n (!f && l.acting g 2))
    let l := l.s (TZ_GRDg_STAT_THROTTLE g) (b2n (if f then safe else !(l.throttlers g).isEmpty))
    let l := l.s (TZ_GRDg_STAT_DEPTH g) (if f then (if safe then 7 else 0) else l.depthOf g)
    let l := l.s (TZ_GRDg_STAT_RELIEF g) (b2n (l.acting g 4))
    let l := l.s (TZ_GRDg_STAT_SAFE g) (b2n safe)
    l.s (TZ_GRDg_STAT_RADIO g) (b2n (l.radio g))) l
  l.vfUpdate

/-! ### Trips and clears (R97 to R99) -/

/-- What one unit makes of a sample or a window: the leaf, and the changes of TRIPPED so far (unit, completing value, tripped). -/
abbrev UnitChanges := Leaf × List (Nat × Nat × Bool)

/-- A unit trips: TRIPPED sets and the trip is counted. -/
def Leaf.tripUnit (l : Leaf) (w : Nat) (injected : Bool) : Leaf :=
  let l := l.setWatch w { l.watch w with trip := 0, clear := 0, injected := injected }
  (l.s (TZ_WUw_STAT_TRIPPED w) 1).count (TZ_WUw_TRIPS_COUNT w)

/-- A unit clears. -/
def Leaf.clearUnit (l : Leaf) (w : Nat) : Leaf :=
  (l.setWatch w { l.watch w with trip := 0, clear := 0 }).s (TZ_WUw_STAT_TRIPPED w) 0

/-- The changes of one cycle act together, and each unit then records its own (R101, R106). -/
def Leaf.settle (x : UnitChanges) : Leaf :=
  x.2.foldl (fun (l : Leaf) e => l.transition e.1 e.2.1 e.2.2) x.1.guardLines

/-- A trip or a clear of one unit decided in this cycle. -/
def Leaf.trips (x : UnitChanges) (w v : Nat) (injected : Bool) : UnitChanges := (x.1.tripUnit w injected, x.2 ++ [(w, v, true)])
def Leaf.clears (x : UnitChanges) (w v : Nat) : UnitChanges := (x.1.clearUnit w, x.2 ++ [(w, v, false)])

/-- Whether a value is beyond the thresholds of modes 0 to 2, and whether it is back inside (Table 4.2). -/
def Leaf.beyond (l : Leaf) (x : Watch) (v : Nat) : Bool :=
  let i := l.chanInt x.chan v
  let up := l.chanInt x.chan (bitsOf x.thr 31 16)
  let lo := l.chanInt x.chan (bitsOf x.thr 15 0)
  match x.mode with
  | 0 => decide (i > up)
  | 1 => decide (i < lo)
  | 2 => decide (i > up) || decide (i < lo)
  | _ => false
def Leaf.inside (l : Leaf) (x : Watch) (v : Nat) : Bool :=
  let i := l.chanInt x.chan v
  let up := l.chanInt x.chan (bitsOf x.thr 31 16) - x.hyst
  let lo := l.chanInt x.chan (bitsOf x.thr 15 0) + x.hyst
  match x.mode with
  | 0 => decide (i ≤ up)
  | 1 => decide (i ≥ lo)
  | 2 => decide (i ≤ up) && decide (i ≥ lo)
  | _ => false

/-- A unit evaluates a sample of its channel (R97). -/
def Leaf.evaluate (j : UnitChanges) (w v : Nat) : UnitChanges :=
  let l := j.1
  let x := l.watch w
  let on := l.tripped w
  if !x.en then j
  else if x.mode = 3 then
    let st := (l.guards.start.get (fun _ => none) x.chan).getD v
    let d := (v + 2 ^ 16 - st) % 2 ^ 16
    if !on && decide (d > bitsOf x.thr 31 16) then Leaf.trips j w v false else j
  else if x.mode > 3 then (if on then Leaf.clears j w v else j)
  else if on then
    let k := if l.inside x v then x.clear + 1 else 0
    if k ≥ x.clrPersist then Leaf.clears j w v else (l.setWatch w { x with clear := k }, j.2)
  else
    let k := if l.beyond x v then x.trip + 1 else 0
    if k ≥ x.persist then Leaf.trips j w v false else (l.setWatch w { x with trip := k }, j.2)

/-- The settings written for a unit take effect with a sample of its new channel (R98). -/
def Leaf.adopt (l : Leaf) (w c : Nat) : Leaf :=
  let x := l.watch w
  let n := l.toNode
  let ctrl := (n.word (TZ_WUw_CTRL w)).toNat
  if x.dirty && bitsOf ctrl 23 18 == c then
    l.setWatch w { x with ctrl := ctrl, thr := (n.word (TZ_WUw_THR w)).toNat, hp := (n.word (TZ_WUw_HP w)).toNat, dirty := false }
  else l

/-- A sample of a channel (R94, R95, R97, R98): stored, then evaluated by every unit on the channel, whose changes act together. A
comparator sample is 0 or 1. -/
def Leaf.sample (l : Leaf) (c v : Nat) : Leaf :=
  let v := if c < 56 then v % 2 ^ 16 else v % 2
  if c ≥ 64 then l
  else
    let l := (l.s (TZ_SENc_VAL_VALID c) 1).s (TZ_SENc_VAL_VALUE c) v
    let l := if (l.guards.start.get (fun _ => none) c).isNone
      then l.onGuards (fun g => { g with start := g.start.set (fun _ => none) c (some v) }) else l
    let l := (List.range 32).foldl (fun l w => l.adopt w c) l
    Leaf.settle ((numsWhere 32 (fun w => (l.watch w).chan == c)).foldl (fun j w => Leaf.evaluate j w v) (l, []))

/-- A RATE window boundary (R97): each RATE unit judges the closing d, and v_start restarts from the channels' latest values.
One boundary is taken once. -/
def Leaf.rateWindow (l : Leaf) : Leaf :=
  let us := l.toNode.nowUs
  if us % 2 ^ (l.toNode.g TZ_SEN_CTRL_RATE_WIN) ≠ 0 ∨ l.guards.winUs = some us then l
  else
    let val := fun (l : Leaf) (c : Nat) =>
      if l.toNode.flag (TZ_SENc_VAL_VALID c) then some (l.toNode.g (TZ_SENc_VAL_VALUE c)) else none
    let l := Leaf.settle ((List.range 32).foldl (fun (j : UnitChanges) w =>
      let l := j.1
      let x := l.watch w
      if !x.en || x.mode != 3 || !l.tripped w then j
      else
        match val l x.chan, l.guards.start.get (fun _ => none) x.chan with
          | some v, some st =>
            let d := (v + 2 ^ 16 - st) % 2 ^ 16
            let k := if d + x.hyst ≤ bitsOf x.thr 31 16 then x.clear + 1 else 0
            if k ≥ x.clrPersist then Leaf.clears j w v else (l.setWatch w { x with clear := k }, j.2)
          | _, _ => j) (l, []))
    l.onGuards (fun g => { g with winUs := some us, start := (List.range 64).foldl (fun t c => t.set (fun _ => none) c (val l c)) [] })

/-- A write to a register of a watch unit (R98): it waits for the next sample of the channel, both counts restart, and EN = 0
clears TRIPPED at once with a CLEAR record, whose completing sample the spec does not give (a free value). `r` is 0 CTRL,
1 THR, 2 HP. -/
def Leaf.writeUnit (l : Leaf) (w r v : Nat) : Leaf :=
  let off := if r = 0 then TZ_WUw_CTRL w else if r = 1 then TZ_WUw_THR w else TZ_WUw_HP w
  let l := l.on (·.write off v)
  let x := l.watch w
  let off_ := r == 0 && !bitOf v 31
  let l := l.setWatch w { x with trip := 0, clear := 0, dirty := true, ctrl := if off_ then putBits x.ctrl 31 31 0 else x.ctrl }
  if off_ && l.tripped w then
    let (c, l) := l.draw 16
    Leaf.settle (Leaf.clears (l, []) w c)
  else l

/-- Whether a request's privilege suffices for FENCE_CLR and INJECT; a refusal is counted (R102). -/
def Leaf.grdPriv (l : Leaf) (priv : Nat) : Bool := decide (priv ≥ l.toNode.g TZ_GRD_PRIV_LEVEL)

/-- A write to TZ_GRD_INJECT (R99). The completing sample is the channel's latest value (log entry 20). -/
def Leaf.inject (l : Leaf) (go : Bool) (w priv : Nat) : Leaf :=
  if !l.grdPriv priv then l.count TZ_GRD_REJ_COUNT
  else if !go || !(l.watch w).en || l.tripped w then l
  else Leaf.settle (Leaf.trips (l, []) w (l.toNode.g (TZ_SENc_VAL_VALUE (l.watch w).chan)) true)

/-- A write to TZ_GRD_FENCE_CLR (R102, R108). -/
def Leaf.fenceClr (l : Leaf) (mask priv : Nat) : Leaf :=
  if !l.grdPriv priv then l.count TZ_GRD_REJ_COUNT
  else (List.range 8).foldl (fun l g =>
    if !bitOf mask g || !l.toNode.flag (TZ_GRDg_STAT_FENCE g) || l.acting g 3 then l
    else
      let l := (l.s (TZ_GRDg_STAT_FENCE g) 0).guardLines
      let old := match l.guards.fenceSlot.get (fun _ => none) g with
        | some (o : GuardRec) => o.coalesced + 1
        | none => 0
      let r : GuardRec :=
        { typ := 0x13, stamp := l.toNode.stamp, injected := false, radio := l.radio g, unit := 0xFF, chan := 0xFF, value := 0,
          actions := l.actions g, guard := g, depth := l.depthOf g, coalesced := old }
      (l.onGuards (fun x => { x with fenceSlot := x.fenceSlot.set (fun _ => none) g (some r) })).pumpGuard 80) l

/-- A synchronised sample of a guard's work-class input (R103). -/
def Leaf.wclassInput (l : Leaf) (g : Nat) (radio : Bool) : Leaf :=
  (l.onGuards (fun x => { x with wclass := x.wclass.set (fun _ => true) g radio })).guardLines

/-- The macro ties a guard's work-class input to tenant: guards 0 to 3 of a crown's self leaf (R269). -/
def Leaf.tied (l : Leaf) (g : Nat) : Bool := l.toNode.selfWord.isSome && decide (g < 4)

/-- The tied inputs as the synchroniser samples them after a reset. -/
def Leaf.tiedInputs (l : Leaf) : Leaf :=
  (List.range 4).foldl (fun (l : Leaf) g => if l.tied g && l.guards.wclass.get (fun _ => true) g then l.wclassInput g false else l) l

/-- The end of a unit's holdoff (R107). -/
def Leaf.holdoffEnd (l : Leaf) (w : Nat) : Leaf :=
  let x := l.watch w
  match x.holdUntil with
  | none => l
  | some t =>
    if l.toNode.ns < t then l
    else match x.last with
      | some r =>
        if l.tripped w != x.lastState then (l.setWatch w { x with coalesced := x.coalesced - 1 }).recordUnit w r
        else l.setWatch w { x with holdUntil := none }
      | none => l.setWatch w { x with holdUntil := none }

/-! ### The V/f port (R109 to R111) -/

/-- TMO in ns; 0 acts as 1 µs (R111). -/
def Leaf.vfTmo (l : Leaf) : Nat := max 1 (l.toNode.g TZ_VF_CTRL_TMO) * 1000

/-- The presented request transfers (R109), or a timed-out one is sent again when its time has come (R111). -/
def Leaf.vfTransfer (l : Leaf) : Leaf :=
  let now := l.guards.ltNs
  let l := (List.range 8).foldl (fun l d => match (l.vfDom d).resend with
    | some (_, t) => if t ≤ now then l.setVf d { l.vfDom d with resend := none, refused := none } else l
    | none => l) l
  let l := l.vfUpdate
  if l.guards.forced then l
  else match l.vfPort with
    | none => l
    | some d => match (l.vfDom d).out with
      | none => l
      | some o => ((l.setVf d { l.vfDom d with out := some { o with sentAt := some now } }).emit (.word "vf_req" (le 4 o.word))).vfUpdate

/-- The VF_RESULT record of a domain (R106, R108, R111). -/
def Leaf.vfRecord (l : Leaf) (d result steps : Nat) : Leaf :=
  let g := lowest 8 (fun g => l.vfOf g == d)
  let old := match l.guards.vfSlot.get (fun _ => none) d with
    | some (o : GuardRec) => o.coalesced + 1
    | none => 0
  let fail := 16 * b2n (l.toNode.flag (TZ_VFd_STAT_FAILED d))
  let r : GuardRec :=
    { typ := 0x12, stamp := l.toNode.stamp, injected := false, radio := match g with | some g => l.radio g | none => false, unit := d,
      chan := 0xFF, value := steps % 256 + 256 * result, actions := match g with | some g => l.actions g | none => fail,
      guard := g.getD 0, depth := match g with | some g => l.depthOf g | none => 0, coalesced := old }
  (l.onGuards (fun x => { x with vfSlot := x.vfSlot.set (fun _ => none) d (some r) })).pumpGuard 80

/-- The result of a request, from a response or a timeout. -/
def Leaf.vfResult (l : Leaf) (d result steps : Nat) (o : VfOut) : Leaf :=
  let l := l.setVf d { l.vfDom d with out := none, refused := if result = 0 then none else some o.steps }
  let l := ((l.s (TZ_VFd_STAT_PENDING d) 0).s (TZ_VFd_STAT_APPLIED d) steps).s (TZ_VFd_STAT_FAILED d) (b2n (result != 0))
  (l.guardLines).vfRecord d result steps

/-- A response word (Table 4.8, R111): lost while L-TIME has failed (`lost`); one whose TAG is not outstanding is counted. -/
def Leaf.vfResponse (l : Leaf) (word : Nat) (lost : Bool) : Leaf :=
  let d := bitsOf word 31 29
  let res := bitsOf word 28 27
  if lost then l
  else match (l.vfDom d).out with
    | some o =>
      if o.sentAt.isSome && o.tag == bitsOf word 15 0 then l.vfResult d (if res = 3 then 2 else res) (bitsOf word 23 16) o
      else l.count TZ_VF_TMO_CNT_COUNT
    | none => l.count TZ_VF_TMO_CNT_COUNT

/-- A request's timeout (R111): treated as REFUSED, counted, and to be sent again after one more timeout. -/
def Leaf.vfTimeout (l : Leaf) (d : Nat) : Leaf :=
  match (l.vfDom d).out with
  | some o =>
    match o.sentAt with
    | some t =>
      if t + l.vfTmo ≤ l.guards.ltNs then
        let l := l.count TZ_VF_TMO_CNT_COUNT
        let l := l.setVf d { l.vfDom d with resend := some (o.steps, l.guards.ltNs + l.vfTmo) }
        l.vfResult d 2 (l.toNode.g (TZ_VFd_STAT_APPLIED d)) o
      else l
    | none => l
  | none => l

/-- A write to TZ_VF_REQ (Table 4.11). -/
def Leaf.vfSoft (l : Leaf) (word : Nat) : Leaf :=
  let d := bitsOf word 31 29
  match bitsOf word 28 27 with
  | 3 => l
  | 2 => (l.setVf d { l.vfDom d with soft := 0 }).vfUpdate
  | _ => (l.setVf d { l.vfDom d with soft := bitsOf word 23 16 }).vfUpdate

/-- A MARGIN command sets the crown re-plan target of a domain (R110). -/
def Leaf.vfMargin (l : Leaf) (d steps : Nat) : Leaf := (l.setVf (d % 8) { l.vfDom (d % 8) with crown := steps % 256 }).vfUpdate

/-- The L-TIME source fails: the outputs are forced to their straps, and no request is presented (R112). -/
def Leaf.guardsForce (l : Leaf) : Leaf :=
  let l := (List.range 8).foldl (fun l d => match (l.vfDom d).out with
    | some o => if o.sentAt.isNone then (l.setVf d { l.vfDom d with out := none }).s (TZ_VFd_STAT_PENDING d) 0 else l
    | none => l) l
  (l.onGuards (fun g => { g with forced := true })).guardLines

/-- L-TIME returns: persistence counts restart and the lines take their computed values (R112). -/
def Leaf.guardsFree (l : Leaf) : Leaf :=
  (l.onGuards (fun g => { g with
    forced := false, watch := (List.range 32).foldl (fun t w =>
      let x := t.get (fun _ => Watch.reset) w
      t.set (fun _ => Watch.reset) w { x with trip := 0, clear := 0 }) g.watch })).guardLines

/-- The L-AON reset of the unit (R112, R113): straps stay. -/
def Leaf.guardsReset (l : Leaf) : Leaf :=
  { l with guards := { Guards.reset with safe := l.guards.safe, ltNs := l.guards.ltNs } }

end Sys2Proof.Machine
end

