-- ==== Sys2Proof/Machine/Heartwood.lean ====
section
/-! DEFINITION. Heartwood metering (spec/15_heartwood.md, R373 to R395): charging, intervals, records, seal state and
the mailbox commands. -/

namespace Sys2Proof.Machine

/-- A change to the partition. -/
def Leaf.onHeart (l : Leaf) (f : Heart → Heart) : Leaf := { l with heart := f l.heart }

/-- The HWD cycle now: 10 ns each since the release of the Heartwood reset (R375). -/
def Leaf.hwd (l : Leaf) : Nat := (l.ns - l.heart.startNs) / 10

/-- The IDLE and UNTENANTED accounts (R382). -/
def acctIdle : Nat := 0xFFFE
/-- The account of engine cycles without a tenant. -/
def acctNone : Nat := 0xFFFF

/-! ### Seal state (R387) -/

/-- The seal state the fuse counts give (Table 15.4). -/
def Heart.derived (h : Heart) : Nat :=
  if h.tamperCnt > h.clearCnt ∨ h.tamperCnt ≥ 32 then 2 else if h.sealCnt > h.unsealCnt then 1 else 0

/-- CMD_CTR (R387). -/
def Heart.cmdCtr (h : Heart) : Nat := h.sealCnt + h.unsealCnt + h.clearCnt + h.slots.length

/-- OPSEC now: completed intervals on the restored base (R375, R394). -/
def Heart.opsec (h : Heart) : Nat := (h.opsecBase + h.interval) % 2 ^ 40

/-- FLAGS of a record of the span (Table 15.2). -/
def Heart.spanFlags (h : Heart) : Nat :=
  b2n h.restored + 2 * b2n (h.sealedSpan && h.sealed == 1) + 4 * b2n (h.brokenSpan || h.sealed == 2) + 8 * b2n h.gap
    + 16 * b2n h.clk + 32 * b2n (h.spanLen > 1) + 64 * b2n h.range

/-- FLAGS of an event (Table 15.2). -/
def Heart.eventFlags (h : Heart) : Nat := b2n h.restored + 2 * b2n (h.sealed == 1) + 4 * b2n (h.sealed == 2)

/-- A record head (Table 15.2). -/
def heartHead (typ flags len hseq opsec pcc interval nint : Nat) : List Byte :=
  byte typ ++ byte flags ++ le 2 len ++ le 4 hseq ++ le 5 opsec ++ le 3 pcc ++ le 4 interval ++ le 4 nint

/-! ### The store and the output path (R384 to R386) -/

/-- Bytes the store holds. -/
def Heart.fill (h : Heart) : Nat := h.store.foldl (fun a r => a + r.bytes.length) 0

/-- The visible registers of the partition (Table 15.6). -/
def Leaf.heartShow (l : Leaf) : Leaf :=
  let h := l.heart
  let l := (l.s HW_STAT_SEAL h.sealed).s HW_STAT_RESTORED (b2n h.restored)
  let l := (l.s HW_STAT_COARSE (b2n (h.spanLen > 0))).s HW_STAT_STORE (min 100 (h.fill * 100 / 524288))
  (l.s HW_INTERVAL_N h.interval).s HW_CMD_CTR_CTR h.cmdCtr

/-- The Sap record of a Heartwood record (R385): the record unchanged, then the leaf's trailer. -/
def HeartRec.toSap (r : HeartRec) (st : Stamp) : Rec :=
  { kind := 7, cls := 2, body := r.bytes ++ twBytes st.t ++ byte st.qual.code ++ zeros 3, stamp := st,
    stampAt := r.bytes.length, qualAt := some (r.bytes.length + 16, 0), crcTail := false }

/-- Presents stored records in order while the packer takes them; an EVENT also goes to the Ring log, once (R385). -/
def Leaf.heartPump (fuel : Nat) (l : Leaf) : Leaf :=
  match fuel with
  | 0 => l
  | m + 1 =>
    match l.heart.store.find? (fun r => decide (seqDiff r.hseq l.heart.next ≥ 0)) with
    | none => l
    | some r =>
      match l.toNode.offer 2 (r.toSap l.toNode.stamp) none with
      | (false, _) => l
      | (true, n) =>
        let after := (r.hseq + 1) % 2 ^ 32
        let new := r.typ == 3 && decide (seqDiff r.hseq l.heart.logNext ≥ 0)
        let l := { l with toNode := n, heart := { l.heart with next := after, logNext := if new then after else l.heart.logNext } }
        let l := l.s HW_HSEQ_SEQ r.hseq
        Leaf.heartPump m (if new then l.log 0x0B r.bytes else l)

/-- A record enters the store with the next HSEQ, and counts among those that the next SEAL covers. -/
def Heart.put (h : Heart) (typ : Nat) (bytes : List Byte) : Heart :=
  { h with store := h.store ++ [⟨h.hseq, typ, bytes⟩], hseq := (h.hseq + 1) % 2 ^ 32, unsealed := h.unsealed ++ bytes }

/-- The bytes of an EVENT record (Table 15.3). -/
def HeartEvent.bytes (e : HeartEvent) (hseq : Nat) : List Byte :=
  heartHead 3 e.flags 56 hseq e.opsec e.pcc e.interval 0 ++ byte e.evt ++ byte e.code ++ byte e.seal_ ++ zeros 1 ++ le 4 e.ctr
    ++ (e.data ++ zeros 16).take 16 ++ le 8 e.cycle

/-- Events that Heartwood keeps in its event log (R392): POWER_UP, RESTORED, SEAL, UNSEAL, CMD_REJECT, CONFIG, CLEAR_TAMPER. -/
def heartLogged (evt : Nat) : Bool := [1, 2, 3, 4, 7, 8, 0x0A].contains evt

/-- The log's entry of an event takes the HSEQ that the record got. -/
def numberEvent (e : HeartEvent) (q : Nat) (l : List HeartEvent) : List HeartEvent :=
  match l with
  | [] => []
  | x :: r => if x = e then { x with hseq := some q } :: r else x :: numberEvent e q r

/-- An event becomes an EVENT record in the store. -/
def Heart.putEvent (h : Heart) (e : HeartEvent) : Heart := { h.put 3 (e.bytes h.hseq) with log := numberEvent e h.hseq h.log }

/-- Bytes of a record of a closed span (Table 15.3). -/
def HeartDue.size (d : HeartDue) : Nat :=
  match d.typ with
  | 1 => 80
  | 2 => 96
  | 4 => 164
  | _ => 240

/-- Bytes of the store that a record may fill up to: 16 KiB is kept for EVENT and SEAL records (R386). -/
def HeartDue.limit (d : HeartDue) : Nat := if d.typ = 4 then 524288 else 507904

/-- A record of a closed span enters the store; a SEAL closes the chain over the records since the last, and SEAL and CHECKPOINT are signed
(R383). -/
def Heart.putDue (h : Heart) (d : HeartDue) : Heart :=
  let head := heartHead d.typ d.flags d.size h.hseq d.opsec d.pcc d.first d.nint
  let signed := fun (front : List Byte) => front ++ (Config.ed25519Sign h.pk front ++ zeros 64).take 64
  match d.typ with
  | 4 =>
    let chain := (Config.sha512 (h.chain ++ h.unsealed) ++ zeros 64).take 64
    let h' := h.put 4 (signed (head ++ le 4 h.sealFrom ++ le 4 ((h.hseq + 2 ^ 32 - h.sealFrom) % 2 ^ 32) ++ d.body ++ chain))
    { h' with chain := chain, sealFrom := h'.hseq, unsealed := [] }
  | 5 => h.put 5 (signed (head ++ d.body ++ h.chain))
  | _ => h.put d.typ (head ++ d.body)

/-- What waits enters the store in order while it has space: events first, then the records of closed spans (R386). -/
def Heart.letIn (fuel : Nat) (h : Heart) : Heart :=
  match fuel, h.waiting, h.due with
  | m + 1, e :: r, _ => if h.fill + 56 ≤ 524288 then Heart.letIn m ({ h with waiting := r }.putEvent e) else h
  | m + 1, [], d :: r => if h.fill + d.size ≤ d.limit then Heart.letIn m ({ h with due := r }.putDue d) else h
  | _, _, _ => h

/-- Rounds that suffice to let in everything that waits. -/
def Heart.waits (h : Heart) : Nat := h.waiting.length + h.due.length

/-- An event is written, and kept in the event log where R392 says so; a 257th displaces the log's oldest entry (log entry 25). -/
def Leaf.heartEvent (l : Leaf) (evt code : Nat) (data : List Byte) : Leaf :=
  let h := l.heart
  let e : HeartEvent :=
    { evt := evt, code := code, seal_ := h.sealed, ctr := h.cmdCtr, data := data, cycle := l.hwd, interval := h.interval,
      flags := h.eventFlags, opsec := h.opsec, pcc := h.pcc, hseq := none }
  let log := if heartLogged evt then h.log ++ [e] else h.log
  let l := l.onHeart (fun h => { h with log := log.drop (log.length - 256), waiting := h.waiting ++ [e] }.letIn (h.waits + 1))
  l.heartShow.heartPump 600

/-- HW_RELEASE (R386): the packer returns an HSEQ whose record it has taken and no longer queues; its space is free. -/
def Leaf.heartRelease (l : Leaf) (hseq : Nat) : Leaf :=
  let queued := (l.toNode.q 2).queue.any (fun e => e.rec_.kind == 7 && field e.rec_.body 4 4 == hseq)
  if !l.heart.up || decide (seqDiff hseq l.heart.next ≥ 0) || queued then l
  else
    let l := l.onHeart (fun h => { h with store := h.store.filter (fun r => r.hseq != hseq) }.letIn h.waits)
    l.heartShow.heartPump 600

/-- After an L-SAP or L-AON reset every unreleased record is presented again (R386). -/
def Leaf.heartAgain (l : Leaf) : Leaf :=
  let first := match l.heart.store with
    | [] => l.heart.next
    | r :: _ => r.hseq
  (l.onHeart (fun h => { h with next := first })).heartPump 600

/-! ### Charging (R376 to R378) -/

/-- An account. -/
def Heart.acct (h : Heart) (a : Nat) : Account := h.accounts.get (fun _ => Account.zero) a

/-- The partition with an account replaced. -/
def Heart.setAcct (h : Heart) (a : Nat) (x : Account) : Heart := { h with accounts := h.accounts.set (fun _ => Account.zero) a x }

/-- A cycle's quantity: 0 idle, 1 BUSY, 2 STALL, 3 HOLD (Table 15.1). -/
def quantity (state : Nat) : Nat := if state = 0 then 0 else if state = 1 then 1 else if state = 7 then 3 else 2

/-- An account charged with a cycle of a quantity. -/
def Account.cycle (x : Account) (q w : Nat) : Account :=
  let x := { x with weight := x.weight + w, charged := true }
  match q with
  | 2 => { x with stall := x.stall + 1 }
  | 3 => { x with hold := x.hold + 1 }
  | _ => { x with busy := x.busy + 1 }

/-- The weight of an engine (R380). -/
def Leaf.engWeight (l : Leaf) (e : Nat) : Nat := bitsOf (l.toNode.g (HW_ENG_Wn_W (e / 4))) (8 * (e % 4) + 7) (8 * (e % 4))

/-- The least recently charged open entry. -/
def leastRecent (l : List ReqEntry) : Option ReqEntry :=
  match l with
  | [] => none
  | e :: r => match leastRecent r with
    | none => some e
    | some x => if e.last ≤ x.last then some e else some x

/-- The table entry a closed request holds until its closure is emitted: none for a split one, whose entry is taken, and an EMPTY one. -/
def ReqEntry.holds (e : ReqEntry) : Nat := if e.splitAfter ∨ e.empty then 8192 else e.slot

/-- The numbers of the table entries in use: open ones, and closed ones not yet emitted (R378). -/
def Heart.slotsTaken (h : Heart) : List Nat := (h.open_.map ReqEntry.holds ++ h.closed.map ReqEntry.holds ++ h.due.map (·.slot)).filter (· < 8192)

/-- How many entries are in use. -/
def Heart.taken (h : Heart) : Nat := h.slotsTaken.length

/-- The lowest entry number not in use. -/
def Heart.freeSlot (h : Heart) : Nat :=
  let used := h.slotsTaken
  (lowest 8192 (fun i => !used.contains i)).getD 0

/-- Opens an entry for a pair, closing the least recently charged one when all 8,192 are taken; none when every entry is
closed and not yet emitted (R378). -/
def Heart.openEntry (h : Heart) (tenant req cyc : Nat) : Option Heart :=
  let before := h.past.find? (fun p => p.1 == tenant && p.2.1 == req)
  let new := fun (h : Heart) =>
    let e : ReqEntry :=
      { slot := h.freeSlot, tenant := tenant, req := req, engines := [], tOpen := cyc / 100000 * 100000, tClose := 0, busy := 0, stall := 0,
        hold := 0, bytes := 0, energy := 0, weight := 0, last := h.charges,
        splitBefore := before.any (fun p => p.2.2), splitAfter := false, reopened := before.any (fun p => !p.2.2),
        empty := false, ending := false }
    { h with open_ := h.open_ ++ [e] }
  if h.taken < 8192 then some (new h)
  else match leastRecent (h.open_.filter (fun e => !e.empty)) with
    | none => none
    | some v => some (new { h with
        open_ := h.open_.filter (fun e => e.empty || !(e.tenant == v.tenant && e.req == v.req))
        closed := h.closed ++ [{ v with splitAfter := true, tClose := cyc }]
        past := (v.tenant, v.req, true) :: h.past.filter (fun p => !(p.1 == v.tenant && p.2.1 == v.req)) })

/-- An entry charged with a cycle (R376). -/
def ReqEntry.charge (e : ReqEntry) (engine q w bytes last : Nat) : ReqEntry :=
  let e := { e with bytes := e.bytes + bytes, last := last, engines := if e.engines.contains engine then e.engines else engine :: e.engines }
  match q with
  | 0 => e
  | 1 => { e with busy := e.busy + 1, weight := e.weight + w }
  | 2 => { e with stall := e.stall + 1, weight := e.weight + w }
  | _ => { e with hold := e.hold + 1, weight := e.weight + w }

/-- HW_TAG_CYCLE (R376, R378): one L-HOST cycle of an engine, charged to one account, one quantity and its request. -/
def Leaf.tagCycle (l : Leaf) (engine state : Nat) (tvalid : Bool) (tenant req bytes : Nat) : Leaf :=
  let h := l.heart
  if !h.up then l
  else
    let q := quantity state
    let w := l.engWeight engine
    let a := if q = 0 then acctIdle else if tvalid then tenant else acctNone
    let h := h.setAcct a ((h.acct a).cycle q w)
    let b := if tvalid then tenant else a
    let h := if bytes = 0 then h else h.setAcct b { h.acct b with bytes := (h.acct b).bytes + bytes, charged := true }
    let h := { h with charges := h.charges + 1 }
    if req = 0 ∨ !tvalid then { l with heart := h }
    else
      let is := fun (e : ReqEntry) => e.tenant == tenant && e.req == req && !e.empty
      match if h.open_.any is then some h else h.openEntry tenant req l.hwd with
      | none => if q = 0 then { l with heart := h }
        else { l with heart := h.setAcct tenant { h.acct tenant with untracked := (h.acct tenant).untracked + 1, charged := true } }
      | some h => { l with heart := { h with open_ := h.open_.map (fun e => if is e then e.charge engine q w bytes h.charges else e) } }

/-- REQUEST_END (R377, R378): one request done; its entry closes at the sub-interval's end, and a pair without one gives an
EMPTY closure, whose T_OPEN the spec does not state (a free value). -/
def Leaf.requestEnd (l : Leaf) (tenant req : Nat) : Leaf :=
  let h := l.heart
  if !h.up then l
  else
    let h := h.setAcct tenant { h.acct tenant with reqDone := (h.acct tenant).reqDone + 1, charged := true }
    let is := fun (e : ReqEntry) => e.tenant == tenant && e.req == req && !e.empty
    if h.open_.any is then { l with heart := { h with open_ := h.open_.map (fun e => if is e then { e with ending := true } else e) } }
    else
      let (t, l) := l.draw 64
      let e : ReqEntry :=
        { slot := 8192, tenant := tenant, req := req, engines := [], tOpen := t, tClose := 0, busy := 0, stall := 0, hold := 0,
          bytes := 0, energy := 0, weight := 0, last := 0, splitBefore := false, splitAfter := false, reopened := false, empty := true,
          ending := true }
      { l with heart := { h with open_ := h.open_ ++ [e] } }

/-- POWER_SAMPLE (R379): a pair adds its energy; the first after a reset adds nothing. -/
def Leaf.powerSample (l : Leaf) (v i : Nat) : Leaf :=
  let h := l.heart
  if !h.up then l
  else
    let n := l.toNode
    let bad := v < n.g HW_VRANGE_VMIN || v > n.g HW_VRANGE_VMAX || i < n.g HW_IRANGE_IMIN || i > n.g HW_IRANGE_IMAX
    let h := { h with range := h.range || bad }
    match h.pairAt with
    | none => { l with heart := { h with pairAt := some l.hwd } }
    | some p =>
      let dc := l.hwd - p
      let g := n.g HW_GAP_GAP_MAX
      { l with heart := { h with
          pairAt := some l.hwd
          gap := h.gap || dc > g
          energy := h.energy + v * i * min dc g * n.g HW_CAL_PE_CAL_PE } }

/-! ### Sub-intervals and intervals (R375, R380, R384) -/

/-- The energy of a sub-interval divided among accounts and requests (R380); an entry that a split closed within it still
takes its share. -/
def Heart.divide (h : Heart) : Heart :=
  let total := h.accounts.foldl (fun a x => a + x.2.weight) 0
  let e := h.energy
  let share := fun (x : Nat × Account) => if x.1 = acctIdle ∨ total = 0 then 0 else e * x.2.weight / total
  let given := h.accounts.foldl (fun a x => a + share x) 0
  let w := fun t => (h.acct t).weight
  let part := fun (r : ReqEntry) => if w r.tenant = 0 ∨ total = 0 then 0 else (e * w r.tenant / total) * r.weight / w r.tenant
  let rs := h.open_.map (fun r => { r with energy := r.energy + part r, weight := 0 })
  let acc := h.accounts.map (fun x => (x.1, { x.2 with energy := x.2.energy + share x, weight := 0 }))
  let (b, s, ho, by_, te, r) := h.totals
  let cs := h.closed.map (fun r => { r with energy := r.energy + part r, weight := 0 })
  let h := { h with accounts := acc, open_ := rs, closed := cs, energy := 0, totals := (b, s, ho, by_, te + e, r) }
  let i := h.acct acctIdle
  h.setAcct acctIdle { i with energy := i.energy + (e - given) }

/-- Entries whose end has come close at the sub-interval's end (R377). -/
def Heart.closeEnded (h : Heart) (cyc : Nat) : Heart :=
  let ended := h.open_.filter (·.ending)
  { h with
    open_ := h.open_.filter (fun e => !e.ending)
    closed := h.closed ++ ended.map (fun e => { e with tClose := cyc })
    past := ended.map (fun e => (e.tenant, e.req, false)) ++ h.past.filter (fun p => !ended.any (fun e => p.1 == e.tenant && p.2.1 == e.req)) }

/-- SUBINTERVAL_END (R375, R380). -/
def Leaf.subEnd (l : Leaf) : Leaf :=
  let h := l.heart
  if !h.up || l.hwd < (h.sub + 1) * 100000 then l
  else { l with heart := { (h.divide.closeEnded ((h.sub + 1) * 100000)) with sub := h.sub + 1 } }

/-- A METER record's body (Table 15.3). -/
def Heart.meter (h : Heart) (t : Nat) : List Byte :=
  let x := h.acct t
  let idle := t == acctIdle
  le 2 t ++ zeros 2 ++ le 4 x.reqDone ++ le 8 x.busy ++ le 8 (if idle then 0 else x.stall) ++ le 8 (if idle then 0 else x.hold)
    ++ le 8 (if idle then 0 else x.bytes) ++ le 8 (x.energy / 2 ^ 48) ++ le 8 x.untracked

/-- A CLOSE record's body (Table 15.3). -/
def ReqEntry.close (e : ReqEntry) : List Byte :=
  le 8 e.req ++ le 2 e.tenant ++ byte (b2n e.splitBefore + 2 * b2n e.splitAfter + 4 * b2n e.reopened + 8 * b2n e.empty) ++ zeros 1
    ++ le 2 e.engines.length ++ zeros 2 ++ le 8 e.tOpen ++ le 8 e.tClose ++ le 8 e.busy ++ le 8 e.stall ++ le 8 e.hold ++ le 8 e.bytes
    ++ le 8 (e.energy / 2 ^ 48)

/-- A CHECKPOINT record's body, but for CHAIN and SIG (Table 15.3). -/
def Heart.checkpoint (h : Heart) : List Byte :=
  let (b, s, ho, by_, e, r) := h.totals
  (h.pk ++ zeros 32).take 32 ++ le 4 h.cmdCtr ++ byte h.sealed ++ zeros 3 ++ le 8 b ++ le 8 s ++ le 8 ho ++ le 8 by_ ++ le 8 (e / 2 ^ 48) ++ le 8 r

/-- The totals with a span's charges added: idle cycles are no engine BUSY (log entry 26). -/
def Heart.addTotals (h : Heart) : Heart :=
  let f := fun (g : Account → Nat) (idle : Bool) => h.accounts.foldl (fun a x => if x.1 = acctIdle ∧ !idle then a else a + g x.2) 0
  let (b, s, ho, by_, e, r) := h.totals
  { h with totals := (b + f (·.busy) false, s + f (·.stall) false, ho + f (·.hold) false, by_ + f (·.bytes) true, e, r + f (·.reqDone) false) }

/-- The records of the span that closes, in their order (R384): METER, CLOSE, CHECKPOINT when due, SEAL. -/
def Heart.spanRecords (h : Heart) : List HeartDue :=
  let make := fun (typ nint : Nat) (body : List Byte) (slot : Nat) => (⟨typ, h.spanFlags, h.opsec, h.pcc, h.spanFirst, nint, body, slot⟩ : HeartDue)
  let tenants := (h.accounts.filter (fun x => x.1 < 4096 && x.2.charged)).map (·.1)
  let rows := tenants ++ [acctIdle] ++ (if (h.acct acctNone).charged then [acctNone] else [])
  let closes := sortBy (fun a b => a.tClose < b.tClose || (a.tClose == b.tClose && a.slot ≤ b.slot)) h.closed
  rows.map (fun t => make 1 h.spanLen (h.meter t) 8192) ++ closes.map (fun e => make 2 0 e.close e.holds)
    ++ (if (h.spanFirst + h.spanLen) % 60 = 0 ∨ h.ckptDue then [make 5 h.spanLen h.addTotals.checkpoint 8192] else [])
    ++ [make 4 h.spanLen (byte h.sealed ++ zeros 3) 8192]

/-- The span closes (R384), and the next begins. -/
def Heart.closeSpan (h : Heart) : Heart :=
  let h := { h.addTotals with
    due := h.due ++ h.spanRecords
    closed := []
    accounts := (h.accounts.map (fun (x : Nat × Account) => (x.1, { Account.zero with energy := x.2.energy % 2 ^ 48, weight := x.2.weight }))).filter
      (fun x => x.2 != Account.zero)
    spanFirst := h.interval, spanLen := 0, gap := false, range := false, clk := false, brokenSpan := false, ckptDue := false }
  h.letIn h.waits

/-- The SL registers of a configuration (Table 15.5, R397). -/
def Leaf.heartConfig (l : Leaf) (c : HeartConfig) : Leaf :=
  let l := (l.s HW_CAL_PE_CAL_PE (field c 0 4)).on (fun n => (n.setWord HW_VRANGE (BitVec.ofNat 32 (field c 4 4))).setWord HW_IRANGE (BitVec.ofNat 32 (field c 8 4)))
  let l := l.s HW_GAP_GAP_MAX (field c 12 2)
  (List.range 64).foldl (fun (l : Leaf) n => l.s (HW_ENG_Wn_W n) (field c (16 + 4 * n) 4)) l

/-- The configuration in force, as a SET_CONFIG payload spells it. -/
def Leaf.heartConfigBytes (l : Leaf) : HeartConfig :=
  let w := fun off => le 4 (l.toNode.word off).toNat
  w HW_CAL_PE ++ w HW_VRANGE ++ w HW_IRANGE ++ le 2 (l.toNode.g HW_GAP_GAP_MAX) ++ zeros 2
    ++ (List.range 64).flatMap (fun n => w (HW_ENG_Wn n))

/-- What was accepted takes effect at an interval boundary (R390). -/
def Leaf.heartApply (l : Leaf) : Leaf :=
  let h := l.heart
  let changed := h.pending.isSome || h.sealed != h.derived
  let l := match h.pending with
    | none => l
    | some c => l.heartConfig c
  l.onHeart (fun h => { h with
    pending := none
    sealed := h.derived
    ckptDue := h.ckptDue || changed
    sealedSpan := if h.spanLen = 0 then h.derived == 1 else h.sealedSpan && h.derived == 1 })

/-- HW_INTERVAL_END (R384, R386): the span closes, or extends while the store holds 384 KiB or more; what was accepted
takes effect. -/
def Leaf.intervalEnd (l : Leaf) : Leaf :=
  let h := l.heart
  if !h.up || l.hwd < (h.interval + 1) * 100000000 || h.sub < (h.interval + 1) * 1000 then l
  else
    let h := { h with interval := h.interval + 1, spanLen := h.spanLen + 1 }
    let l := { l with heart := h }
    let l :=
      if h.fill ≥ 393216 then l
      else
        let l := l.s HW_TENANTS_COUNT (h.accounts.filter (fun x => x.1 < 4096 && x.2.charged)).length
        l.onHeart (fun h => { h.closeSpan with clk := l.toNode.g HW_STAT_OSC_OK == 0 })
    l.heartApply.heartShow.heartPump 20000

/-! ### Events from outside (R388, R391) -/

/-- TAMPER (R388): 1 tamper input, 2 supply glitch, 3 test mode, 4 debug access. -/
def Leaf.tamper (l : Leaf) (code : Nat) : Leaf :=
  let h := l.heart
  if !h.up then l
  else
    let burn := h.sealed == 1 && h.tamperCnt < 32
    let l := if burn then l.onHeart (fun h => { h with tamperCnt := h.tamperCnt + 1, sealed := 2, brokenSpan := true, ckptDue := true }) else l
    l.heartEvent 5 code []

/-- OSC_FAULT (R391): the event, and CLK on the span; `bad` is whether the oscillator deviates now. -/
def Leaf.oscFault (l : Leaf) (bad : Bool) : Leaf :=
  if !l.heart.up then l
  else
    let was := l.toNode.g HW_STAT_OSC_OK
    let l := l.s HW_STAT_OSC_OK (b2n (!bad))
    let l := if bad then l.onHeart (fun h => { h with clk := true }) else l
    if bad && was = 1 then l.heartEvent 9 0 [] else l

/-- The Heartwood reset: everything but OTP and the event log goes; while held the partition reads as unpowered (R373,
R381; log entry 25). -/
def Leaf.heartHold (l : Leaf) : Leaf :=
  let l := l.on (·.resetRegs .heart)
  l.onHeart (fun h => { Heart.reset with
    sealCnt := h.sealCnt, unsealCnt := h.unsealCnt, tamperCnt := h.tamperCnt, clearCnt := h.clearCnt, slots := h.slots, authority := h.authority, pk := h.pk, log := h.log })

/-- HW_RESET_RELEASE (R373, R389, R392, R397): ROM verified, counting starts, the newest configuration slot is in force,
POWER_UP is written; a failed check leaves the partition in reset. -/
def Leaf.heartStart (l : Leaf) (romOk : Bool) : Leaf :=
  let l := l.heartHold
  if !romOk then l
  else
    let l := l.onHeart (fun h => { h with
      up := true, startNs := l.ns, sealed := h.derived, sealedSpan := h.derived == 1, pk := if h.pk.isEmpty then Config.heartKey else h.pk })
    let l := match l.heart.slots.getLast? with
      | none => l
      | some c => l.heartConfig c
    l.heartEvent 1 0 []

/-! ### The mailbox (R389, R390, R393, R394) -/

/-- The fields GET_ID answers with. -/
def Leaf.heartId (l : Leaf) : List Byte :=
  let h := l.heart
  le 4 (l.toNode.g HW_ID_VERSION) ++ (h.pk ++ zeros 32).take 32 ++ byte h.sealed ++ zeros 3 ++ le 5 h.opsec ++ le 3 h.pcc ++ le 4 h.cmdCtr
    ++ (Config.sha512 Config.heartRom ++ zeros 32).take 32 ++ (Config.sha512 l.heartConfigBytes ++ zeros 32).take 32

/-- The answer stands in the response buffer (R393). -/
def Leaf.heartAnswer (l : Leaf) (result : Nat) (rsp : List Byte) : Leaf :=
  let l := (List.range 128).foldl (fun (l : Leaf) i => l.s (HW_MBX_RSP_DATA i) (field rsp (4 * i) 4)) l
  ((l.s HW_MBX_CTRL_RESULT result).s HW_MBX_CTRL_RLEN rsp.length).s HW_MBX_CTRL_BUSY 0

/-- Whether a command is authenticated (Table 15.5). -/
def heartAuth (cmd : Nat) : Bool := cmd == 0x10 || cmd == 0x20 || cmd == 0x21 || cmd == 0x22

/-- Whether a command is one of Table 15.5. -/
def heartKnown (cmd : Nat) : Bool := heartAuth cmd || (cmd ≥ 1 && cmd ≤ 4)

/-- The payload length of a command; the first index of READ_LOG may take 1 to 8 bytes (log entry 25). -/
def heartLenOk (cmd plen : Nat) : Bool :=
  match cmd with
  | 1 => plen == 0
  | 2 => plen == 16
  | 3 => plen == 240
  | 4 => plen ≥ 1 && plen ≤ 8
  | 0x10 => plen == 272
  | _ => plen == 0

/-- The seal state the fuses will give, on which a command is judged: what is already accepted counts (log entry 25). -/
def heartState (h : Heart) (cmd : Nat) : Bool :=
  match cmd with
  | 0x10 => h.derived == 0
  | 0x20 => h.derived == 0
  | 0x21 => h.derived == 1
  | 0x22 => h.derived == 2 && h.tamperCnt < 32
  | _ => true

/-- Whether the OTP counter a command needs is full: 32 fuses each, 8 configuration slots. -/
def heartFull (h : Heart) (cmd : Nat) : Bool :=
  match cmd with
  | 0x10 => h.slots.length ≥ 8
  | 0x20 => h.sealCnt ≥ 32
  | 0x21 => h.unsealCnt ≥ 32
  | 0x22 => h.clearCnt ≥ 32 || (h.sealCnt > h.unsealCnt && h.unsealCnt ≥ 32)
  | _ => false

/-- RESULT of an authenticated command (R389, in the order written). -/
def Leaf.heartJudge (l : Leaf) (c : List Byte) : Nat :=
  let h := l.heart
  let cmd := field c 0 1
  let plen := field c 2 2
  let signed := c.take (8 + plen)
  let ok := match h.authority with
    | none => false
    | some k => Config.ed25519Verify k (signed ++ (h.pk ++ zeros 32).take 32) ((c.drop (8 + plen)).take 64)
  if !heartLenOk cmd plen then 6
  else if !ok then 2
  else if field c 4 4 ≠ h.cmdCtr + 1 then 3
  else if !heartState h cmd then 4
  else if heartFull h cmd then 5
  else 0

/-- The effect of an accepted authenticated command: its fuse burns now, the rest at the next interval boundary (R390); CLEAR_TAMPER also
burns UNSEAL while SEAL_CNT exceeds UNSEAL_CNT. -/
def Heart.accept (h : Heart) (cmd : Nat) (payload : List Byte) : Heart :=
  match cmd with
  | 0x10 => { h with slots := h.slots ++ [payload], pending := some payload }
  | 0x20 => { h with sealCnt := h.sealCnt + 1 }
  | 0x21 => { h with unsealCnt := h.unsealCnt + 1 }
  | _ => { h with clearCnt := h.clearCnt + 1, unsealCnt := if h.sealCnt > h.unsealCnt then h.unsealCnt + 1 else h.unsealCnt }

/-- EVT of an accepted authenticated command (R392). -/
def heartEvt (cmd : Nat) : Nat :=
  match cmd with
  | 0x10 => 8
  | 0x20 => 3
  | 0x21 => 4
  | _ => 0x0A

/-- RESTORE (R394): the checkpoint is judged and continued, or refused. -/
def Leaf.heartRestore (l : Leaf) (c : List Byte) : Leaf :=
  let h := l.heart
  let p := (c.drop 8).take 240
  let refuse := fun (l : Leaf) (r : Nat) => (l.heartEvent 7 r (Config.sha512 (c.take 248))).heartAnswer r []
  if h.restored then refuse l 4
  else if (p.drop 24).take 32 ≠ (h.pk ++ zeros 32).take 32 ∨ !Config.ed25519Verify h.pk (p.take 176) (p.drop 176) then refuse l 7
  else
    let (b, s, ho, by_, e, r) := h.totals
    let f := fun i => field p (64 + 8 * i) 8
    let l := l.onHeart (fun h => { h with
      restored := true
      opsecBase := field p 8 5
      pcc := (field p 13 3 + 1) % 2 ^ 24
      totals := (b + f 0, s + f 1, ho + f 2, by_ + f 3, e + f 4 * 2 ^ 48, r + f 5) })
    (l.heartEvent 2 0 ((p.drop 112).take 16)).heartAnswer 0 []

/-- A command stands in the mailbox and GO is set (R390, R392, R393): judged in the order of the tables, answered, and
recorded. `c` is the command buffer. -/
def Leaf.heartCommand (l : Leaf) (c : List Byte) : Leaf :=
  let h := l.heart
  let cmd := field c 0 1
  let plen := field c 2 2
  let payload := (c.drop 8).take plen
  if !h.up then l
  else if !heartKnown cmd then l.heartAnswer 1 []
  else if heartAuth cmd then
    let r := l.heartJudge c
    if r ≠ 0 then (l.heartEvent 7 r (Config.sha512 (c.take (72 + plen)))).heartAnswer r []
    else
      let l := l.onHeart (fun h => h.accept cmd payload)
      (l.heartEvent (heartEvt cmd) cmd (Config.sha512 (c.take (72 + plen)))).heartAnswer 0 []
  else if !heartLenOk cmd plen then (if cmd = 3 then (l.heartEvent 7 6 (Config.sha512 (c.take (8 + plen)))).heartAnswer 6 [] else l.heartAnswer 6 [])
  else match cmd with
    | 1 => l.heartAnswer 0 l.heartId
    | 2 =>
      let body := l.heartId ++ payload ++ h.chain ++ le 4 h.sealCnt ++ le 4 h.unsealCnt ++ le 4 h.tamperCnt ++ le 4 h.clearCnt ++ le 4 h.slots.length
      l.heartAnswer 0 (body ++ (Config.ed25519Sign h.pk body ++ zeros 64).take 64)
    | 3 => l.heartRestore c
    | _ => l.heartAnswer 0 ((((h.log.filterMap (fun e => e.hseq.map (fun q => e.bytes q))).drop (ofLe payload)).take 8).flatten)

/-- A command arrives whole: it is written into the command buffer and GO is set. -/
def Leaf.heartMail (l : Leaf) (c : List Byte) : Leaf :=
  if !l.heart.up then l
  else
    let l := (List.range 128).foldl (fun (l : Leaf) i => if 4 * i < c.length then l.s (HW_MBX_CMD_DATA i) (field c (4 * i) 4) else l) l
    l.heartCommand ((List.range 128).flatMap (fun i => le 4 (l.toNode.word (HW_MBX_CMD i)).toNat))

end Sys2Proof.Machine
end

