-- ==== Sys2Proof/Machine/Twig.lean ====
section
/-! DEFINITION. A Twig on each L-HOST cycle (spec/03_twig_counters.md, R60 to R76, R92; R482). -/

namespace Sys2Proof.Machine

/-! ### Configuration words (Table 3.7) -/

/-- The reset value of a stored configuration word, EPOCH apart. -/
def twigReset (n : Nat) : Nat :=
  if n = 16 then 0x0000F000
  else if n = 17 then 0x0202F000
  else if 18 ≤ n ∧ n ≤ 31 then 0x0E00F000
  else if 32 ≤ n ∧ n ≤ 55 then (match (n - 32) % 6 with | 3 => 0xFFFFFFFF | 4 => 0xFFFF | 5 => 0xFF | _ => 0)
  else 0

/-- Whether Table 3.7 defines a word. -/
def twigDefined (n : Nat) : Bool := decide (n ≤ 2) || (decide (16 ≤ n) && decide (n ≤ 55))

/-- The bits of a word that a write sets. -/
def twigMask (n : Nat) : Nat :=
  if n = 1 then 0x73
  else if 16 ≤ n ∧ n ≤ 31 then 0x0FFFFE00
  else if 32 ≤ n ∧ n ≤ 55 then (match (n - 32) % 6 with | 2 => 0xFFFF | 4 => 0xFFFF | 5 => 0x1FF | _ => 0xFFFFFFFF)
  else 0

/-- A stored word. -/
def Twig.raw (t : Twig) (n : Nat) : Nat := t.cfg.get twigReset n

/-- Counter `c`. -/
def Twig.counter (t : Twig) (c : Nat) : Counter := t.ctr.get (fun _ => Counter.zero) c

/-- The Twig with a counter replaced. -/
def Twig.setCounter (t : Twig) (c : Nat) (v : Counter) : Twig := { t with ctr := t.ctr.set (fun _ => Counter.zero) c v }

/-- Bin `b`. -/
def Twig.bin (t : Twig) (b : Nat) : Bin := t.bins.get (fun _ => Bin.closed) b

/-- The Twig with a bin replaced. -/
def Twig.setBin (t : Twig) (b : Nat) (v : Bin) : Twig := { t with bins := t.bins.set (fun _ => Bin.closed) b v }

/-- What a read of a configuration word returns: TWIG_ID from the integrator's parameters, EPOCH from the counter. -/
def Twig.cfgRead (t : Twig) (n : Nat) : Nat :=
  if n = 0 then 0x42000000 + (t.slotW % 16) * 256 + b2n t.engine
  else if 16 ≤ n ∧ n ≤ 31 then (t.counter (n - 16)).epoch * 2 ^ 28 + t.raw n
  else t.raw n

/-- The Twig after a read of a word: TWIG_ERR is cleared by its read. -/
def Twig.afterRead (t : Twig) (n : Nat) : Twig := if n = 2 then { t with cfg := t.cfg.set twigReset 2 0 } else t

/-- BIN_EN, TAGSYNC and BIN_GROUP. -/
def Twig.binEn (t : Twig) : Bool := bitOf (t.raw 1) 0
def Twig.tagSync (t : Twig) : Bool := bitOf (t.raw 1) 1
def Twig.binGroup (t : Twig) : Nat := bitsOf (t.raw 1) 6 4

/-- TWIG_ERR counts: SLOT_ERR in the low half, TAG_MISS in the high half, each saturating. -/
def Twig.err (t : Twig) (hi : Bool) : Twig :=
  let w := t.raw 2
  { t with cfg := t.cfg.set twigReset 2 (if hi then putBits w 31 16 (satAdd 16 (bitsOf w 31 16) 1) else putBits w 15 0 (satAdd 16 (bitsOf w 15 0) 1)) }

/-- The open bins, by number. -/
def Twig.openBins (t : Twig) : List Nat := numsWhere 16 (fun b => (t.bin b).open_)

/-- The counter is zeroed with EPOCH incremented (R66, R482). -/
def Twig.restart (t : Twig) (c : Nat) : Twig :=
  let k := t.counter c
  t.setCounter c { k with value := 0, epoch := (k.epoch + 1) % 16 }

/-- A configuration write has reached the L-HOST domain (R66, R72): a counter restarts in the next cycle, the one in which the write takes effect; a write of 0 to
BIN_EN starts closing every open bin. -/
def Twig.apply (t : Twig) (n v : Nat) : Twig :=
  let was := t.binEn
  let t := { t with cfg := t.cfg.set twigReset n (if twigMask n = 0 then t.raw n else v &&& twigMask n) }
  let t := if 16 ≤ n ∧ n ≤ 31 then { t with starts := t.starts ++ [n - 16] } else t
  if n = 1 ∧ was ∧ !t.binEn then { t with flush := t.openBins.map (fun b => (b, (t.bin b).seq)) } else t

/-! ### Records (R71, R74, R84) -/

/-- Free entries of the record queue of four. -/
def Twig.free (t : Twig) : Nat := 4 - t.queue.length

/-- The BIN_CLOSE body from byte 20 on (Table 3.6). -/
def Bin.record (x : Bin) (b : Nat) : List Byte :=
  le 2 x.seq ++ byte (b + 16 * b2n x.mixed) ++ zeros 1 ++ le 4 x.tag ++ le 6 x.busy ++ le 6 x.stall

/-- Closes a bin with its BIN_CLOSE record; tags it hosted are without a bin again (R70, R71). -/
def Twig.close (t : Twig) (b : Nat) : Twig :=
  let t := { t with queue := t.queue ++ [TwigRec.mk 1 ((t.bin b).record b)], hosts := t.hosts.filter (fun h => h.2 != b) }
  t.setBin b Bin.closed

/-- The SNAPSHOT body from byte 20 on (Table 3.6): the counters at the end of the previous cycle. -/
def Twig.snapshot (t : Twig) (old new : Nat) : List Byte :=
  le 4 old ++ le 4 new ++ le 8 ((List.range 16).foldl (fun a c => a + (t.counter c).epoch * 16 ^ c) 0)
    ++ ((List.range 16).map (fun c => le 6 (t.counter c).value)).flatten

/-! ### One L-HOST cycle -/

/-- The next close of a flush, when an entry is free (R72): the bin is passed over when it is no longer the bin the
flush found open. The second component counts the closes. -/
def Twig.flushStep (t : Twig) : Twig × Nat :=
  match t.flush.dropWhile (fun f => !(t.bin f.1).open_ || (t.bin f.1).seq != f.2) with
  | [] => ({ t with flush := [] }, 0)
  | (b, q) :: r => if t.free = 0 then ({ t with flush := (b, q) :: r }, 0) else (({ t with flush := r }).close b, 1)

/-- The bin least recently charged among the open ones (R70). -/
def Twig.oldest (t : Twig) : Nat :=
  match t.openBins with
  | [] => 0
  | b :: r => r.foldl (fun a b => if (t.bin b).charged < (t.bin a).charged then b else a) b

/-- Opens a bin for a tag (R70). -/
def Twig.openBin (t : Twig) (b tag : Nat) : Twig :=
  let q := (t.openSeq + 1) % 2 ^ 16
  ({ t with openSeq := q, hosts := t.hosts.filter (fun h => h.1 != tag) }).setBin b ⟨true, tag, 0, 0, q, t.cyc, false⟩

/-- The bin this cycle is charged to, opened or hosted as R69 to R72 say; none: the cycle is charged to no bin. The last
component counts bin closes. -/
def Twig.place (t : Twig) (tag : Nat) : Twig × Option Nat × Nat :=
  match t.openBins.find? (fun b => (t.bin b).tag == tag) with
  | some b => (t, some b, 0)
  | none =>
    if !t.binEn then (t, none, 0)
    else match lowest 16 (fun b => !(t.bin b).open_) with
      | some b => (t.openBin b tag, some b, 0)
      | none =>
        if t.free > 0 then
          let b := t.oldest
          ((t.close b).openBin b tag, some b, 1)
        else match t.hosts.find? (fun h => h.1 == tag) with
          | some h => (t, some h.2, 0)
          | none =>
            let b := t.oldest
            (({ t with hosts := t.hosts ++ [(tag, b)] }).setBin b { t.bin b with mixed := true }, some b, 0)

/-- Charges the cycle to a bin (R69). Counts are 48 bits. -/
def Twig.charge (t : Twig) (b state : Nat) : Twig :=
  let x := t.bin b
  t.setBin b { x with
    busy := if state = 1 then (x.busy + 1) % 2 ^ 48 else x.busy
    stall := if 2 ≤ state then (x.stall + 1) % 2 ^ 48 else x.stall
    charged := t.cyc }

/-- Whether the cycle presents the first command of a new tag (R74). -/
def Twig.changed (t : Twig) (i : TwigIn) : Bool :=
  i.cmd && (match t.prevTag with | some p => p != i.tag | none => false)

/-- Whether a beat matches a filter set (R65). -/
def Twig.matches (t : Twig) (f mid addr tc : Nat) : Bool :=
  let w := fun k => t.raw (32 + 6 * f + k)
  let mask := bitsOf (w 0) 31 16
  let lo := bitsOf (w 2) 15 0 * 2 ^ 32 + w 1
  let hi := bitsOf (w 4) 15 0 * 2 ^ 32 + w 3
  let inside := decide (lo ≤ addr) && decide (addr ≤ hi)
  (mid &&& mask == bitsOf (w 0) 15 0 &&& mask) && (inside != bitOf (w 5) 8) && bitOf (bitsOf (w 5) 7 0) tc

/-- The slot amount a selector names (R67). -/
def Twig.slot (t : Twig) (i : TwigIn) (sel : Nat) : Nat :=
  let w := t.slotW
  let issued := min i.nIssue w
  if w = 0 then 0
  else match sel with
    | 0 => w
    | 1 => issued
    | 2 => i.nFlush
    | 3 => if i.backBlk then 0 else w - issued
    | 4 => if i.backBlk then w - issued else 0
    | _ => 0

/-- What a counter adds in a cycle with the given tag changes and bin closes (Table 3.1, R63, R64). -/
def Twig.amount (t : Twig) (i : TwigIn) (c changes closes : Nat) : Nat :=
  let w := t.raw (16 + c)
  let sel := bitsOf w 23 16
  let priv := if i.cmd then i.priv else t.lastPriv
  let ok := fun p => bitOf (bitsOf w 15 12) p
  let q := fun x => if ok priv then x else 0
  match bitsOf w 27 25 with
  | 0 => 1
  | 1 => q (b2n (bitOf sel i.state && !(bitOf w 24 && bitOf sel t.prevState)))
  | 2 => q (t.slot i (sel % 8))
  | 3 => match i.txn with
    | none => 0
    | some (p, mid, addr, tc, n) =>
      if ok p && t.matches (bitsOf w 11 10) mid addr tc then (if bitOf w 9 then n else 1) else 0
  | 4 => q (i.ext.getD (sel % 32) 0 % 64)
  | 5 => q (if sel % 2 = 0 then changes else closes)
  | _ => 0

/-- A counter of 48 bits adds, setting WRAP when it passes 2^48 − 1 (R86). -/
def Counter.add (k : Counter) (a : Nat) : Counter :=
  { k with value := (k.value + a) % 2 ^ 48, wrap := k.wrap || decide (k.value + a ≥ 2 ^ 48) }

/-- Tag-synchronous sampling at a tag change (R74): snapshot and hold, or TAG_MISS. -/
def Twig.sample (t : Twig) (i : TwigIn) : Twig :=
  if t.changed i && t.tagSync then
    if t.free ≥ 2 then { t with queue := t.queue ++ [TwigRec.mk 2 (t.snapshot (t.prevTag.getD 0) i.tag)], hold := true }
    else { t.err true with hold := false }
  else { t with hold := false }

/-- One L-HOST cycle of a Twig (R63 to R74): flush, tag change with its snapshot of the cycle before, counters whose write takes effect, bins, counters, in that
order (log entry 17). -/
def Twig.cycle (t : Twig) (i : TwigIn) : Twig :=
  if t.inReset then t
  else
    let t := { t with cyc := t.cyc + 1 }
    let (t, c1) := t.flushStep
    let changes := b2n (t.changed i)
    let t := t.sample i
    let t := t.starts.foldl Twig.restart { t with starts := [] }
    let (t, b, c2) := if i.cmd && i.state != 0 then t.place i.tag else (t, none, 0)
    let t := match b with
      | none => t
      | some b => t.charge b i.state
    let adds := (List.range 16).map (fun c => t.amount i c changes (c1 + c2))
    let t := (List.range 16).foldl (fun u c => u.setCounter c ((u.counter c).add (adds.getD c 0))) t
    let t := if i.nIssue > t.slotW then t.err false else t
    { t with prevTag := if i.cmd then some i.tag else t.prevTag, lastPriv := if i.cmd then i.priv else t.lastPriv, prevState := i.state }

/-- One more close of a flush outside a cycle presented to the Twig (R72): a counter of bin closes counts it at the privilege level of the last
command (R63, R64). -/
def Twig.flushOne (t : Twig) : Twig :=
  if t.inReset then t
  else
    let (t, k) := t.flushStep
    let idle : TwigIn := ⟨t.prevState, false, 0, 0, 0, 0, false, [], none⟩
    if k = 0 then t
    else (List.range 16).foldl (fun u c => if bitsOf (u.raw (16 + c)) 27 25 = 5 then u.setCounter c ((u.counter c).add (u.amount idle c 0 k)) else u) t

/-- Assertion of the Twig's reset (R482): it counts nothing and its record in progress on the chain stops. -/
def Twig.assertReset (t : Twig) : Twig := { t with inReset := true, beats := 0, hold := false }

/-- Release of the Twig's reset (R482, R92): bins and queued records are discarded, configuration words reset, every
counter restarts. -/
def Twig.release (t : Twig) : Twig :=
  let t : Twig := { t with
    inReset := false, cfg := [], bins := [], hosts := [], queue := [], flush := [], writes := [], starts := [], beats := 0, prevTag := none,
    lastPriv := 0, prevState := 8, hold := false }
  (List.range 16).foldl Twig.restart t

/-- The L-SAP reset clears every counter value and sets every EPOCH to 0 (R92). -/
def Twig.sapReset (t : Twig) : Twig := { t with ctr := [], past := [] }

/-- A flush of the Twig starts: every bin open now is to be closed, in ascending order (R72). -/
def Twig.startFlush (t : Twig) : Twig := if t.binEn && !t.inReset then { t with flush := t.openBins.map (fun b => (b, (t.bin b).seq)) } else t

/-- Beats of a record body (R452). -/
def TwigRec.beats (r : TwigRec) : Nat := ceilDiv r.body.length 6

/-- A beat's six payload bytes, the last beat padded with zeros. -/
def TwigRec.beat (r : TwigRec) (k : Nat) : List Byte :=
  let b := (r.body.drop (6 * k)).take 6
  b ++ zeros (6 - b.length)

end Sys2Proof.Machine
end

