-- ==== Sys2Proof/Machine/SapReader.lean ====
section
/-! DEFINITION. The Sap reader: the chain, sweeps, readings, events, markers and indirect configuration
(spec/03_twig_counters.md, R60 to R91; R451, R452). -/

namespace Sys2Proof.Machine

/-- The loop length L in cycles of 1 ns, and s_t of a Twig. -/
def Leaf.loopLen (l : Leaf) : Nat := l.toNode.g TZ_SAP_CHAIN_DLY_LOOP
def Leaf.stage (l : Leaf) (t : Nat) : Nat := l.reader.stages.get (fun _ => 0) t

/-- NTWIG. -/
def Leaf.ntwig (l : Leaf) : Nat := l.toNode.g TZ_SAP_STATUS_NTWIG

/-- A time less by whole nanoseconds; the word never goes below 0. -/
def nsBack (t ns : Nat) : Nat := t - ns * fracPerNs

/-! ### Enumeration (R61, R451) -/

/-- The ENUM word returns with COUNT and STAGE, and the stage queries of that many Twigs (R451). -/
def Leaf.enumReturn (l : Leaf) (ntwig loop : Nat) (chain : List TwigAt) : Leaf :=
  if l.reader.enumerated then l
  else
    let chain := chain.take (min 256 ntwig)
    let l := (l.s TZ_SAP_STATUS_NTWIG (min 256 ntwig)).s TZ_SAP_CHAIN_DLY_LOOP loop
    let l := l.onReader (fun r => { r with enumerated := true, stages := [] })
    (chain.foldl (fun (a : Leaf × Nat) x =>
      ((a.1.onReader (fun r => { r with stages := r.stages.set (fun _ => 0) a.2 x.stage })).setTwig a.2 { a.1.twig a.2 with slotW := min x.slotW 8, engine := x.engine },
        a.2 + 1)) (l, 0)).1.redue

/-! ### Events on the chain (R452) -/

/-- Bytes of the event buffer in use: whole records with their 20-byte heads. -/
def Reader.eventBytes (r : Reader) : Nat := r.events.foldl (fun a e => a + e.body.length) 0

/-- Twigs with a record in progress on the chain. -/
def Reader.inProgress (r : Reader) : Nat := r.partAt.length

/-- NOINS of the EMPTY words issued now. -/
def Reader.noins (r : Reader) : Bool := decide (8192 - r.eventBytes < 132 * r.inProgress + 132)

/-- Hands event records and markers to C5 while it takes them, in the order they were assembled (R158). -/
def Leaf.pumpEvents (fuel : Nat) (l : Leaf) : Leaf :=
  match fuel with
  | 0 => l
  | m + 1 =>
    match l.reader.events with
    | e :: r =>
      match l.toNode.offer 5 e none with
      | (true, n) => Leaf.pumpEvents m ({ l with toNode := n } |>.onReader (fun x => { x with events := r }))
      | (false, _) => l
    | [] => l

/-- Hands waiting markers to C5 while it takes them (R76). -/
def Leaf.pumpMarkers (fuel : Nat) (l : Leaf) : Leaf :=
  match fuel with
  | 0 => l
  | m + 1 =>
    match l.reader.markers with
    | e :: r =>
      match l.toNode.offer 5 e none with
      | (true, n) => Leaf.pumpMarkers m ({ l with toNode := n } |>.onReader (fun x => { x with markers := r }))
      | (false, _) => l
    | [] => l

/-- A Twig event record: head of Table 3.6 and body. -/
def eventRec (st : Stamp) (typ src : Nat) (body : List Byte) : Rec :=
  { kind := 2, cls := 5, body := twBytes st.t ++ byte typ ++ byte st.qual.code ++ byte src ++ zeros 1 ++ body, stamp := st,
    stampAt := 0, qualAt := some (17, 0), crcTail := false }

/-- The next beat of a Twig's head record reaches the reader (R452). FIRST starts only where NOINS = 0 and is stamped from
its insertion cycle under R80; LAST completes the record and frees the Twig's queue entry. -/
def Leaf.eventBeat (l : Leaf) (t : Nat) : Leaf :=
  let w := l.twig t
  match w.queue with
  | [] => l
  | q :: rest =>
    if w.inReset || decide (t ≥ l.ntwig) || (w.beats == 0 && l.reader.noins) then l
    else
      let st := l.toNode.stamp
      let st : Stamp := ⟨nsBack st.t (l.loopLen - l.stage t) + (l.stage t + 4) * fracPerNs, st.qual⟩
      let at_ := if w.beats = 0 then some st else l.reader.partAt.get (fun _ => none) t
      let bytes := (if w.beats = 0 then [] else l.reader.partBytes.get (fun _ => []) t) ++ q.beat w.beats
      if w.beats + 1 < q.beats then
        let l := l.setTwig t { w with beats := w.beats + 1 }
        l.onReader (fun r =>
          { r with partBytes := r.partBytes.set (fun _ => []) t bytes, partAt := r.partAt.set (fun _ => none) t at_ })
      else
        let l := l.setTwig t { w with beats := 0, queue := rest }
        let e := eventRec (at_.getD st) q.typ t (bytes.take q.body.length)
        let l := l.onReader (fun r =>
          { r with
            partBytes := r.partBytes.set (fun _ => []) t []
            partAt := r.partAt.set (fun _ => none) t none
            events := r.events ++ [e] })
        l.pumpEvents 64

/-- The ABORT beat: beats already assembled are discarded, uncounted (R452, R482). -/
def Leaf.abortBeats (l : Leaf) (t : Nat) : Leaf :=
  l.onReader (fun r => { r with partBytes := r.partBytes.set (fun _ => []) t [], partAt := r.partAt.set (fun _ => none) t none })

/-- A write to TZ_MARKn_DATA (R76). -/
def Leaf.marker (l : Leaf) (n data priv mid : Nat) : Leaf :=
  if !bitOf (l.toNode.g (TZ_MARKn_CTRL_PRIV n)) priv then l.count TZ_MARK_REJ_COUNT
  else
    let l := l.pumpMarkers 16
    if l.reader.markers.length ≥ 16 then l.count TZ_MARK_DROP_COUNT
    else
      let ty := l.toNode.g (TZ_MARKn_CTRL_TYPE n)
      let e := eventRec l.toNode.stamp 3 n (byte (if ty = 3 then 2 else ty) ++ byte priv ++ le 2 mid ++ le 4 data ++ zeros 4)
      (l.onReader (fun r => { r with markers := r.markers ++ [e] })).pumpMarkers 16

/-! ### Sweeps (R73, R77 to R83) -/

/-- A membership word (R77, R85). -/
def memberReset (w : Nat) : Nat := if w % 2 = 0 then 0x88 else 0
def Reader.memberWord (r : Reader) (w : Nat) : Nat := r.members.get memberReset w

/-- Whether counter `i` is a member of group `g`. -/
def Reader.member (r : Reader) (g i : Nat) : Bool :=
  let e := bitsOf (r.memberWord (i / 8)) (4 * (i % 8) + 3) (4 * (i % 8))
  e == 8 + g

/-- A group's sweep falls due (R77, R78): one still waiting is abandoned and counted. -/
def Leaf.sweepDue (l : Leaf) (g : Nat) : Leaf :=
  match l.reader.due.get (fun _ => none) g with
  | none => l
  | some d =>
    if !l.toNode.flag TZ_SAP_CTRL_EN || !l.reader.enumerated || decide (l.toNode.nowUs < d) then l
    else
      let skip := l.reader.waiting.any (fun w => w.1 == g)
      let c := l.reader.group g
      let l := if skip then l.count (TZ_SAP_GRPn_SKIP_COUNT g) else l
      l.onReader (fun r =>
        { r with
          waiting := r.waiting.filter (fun w => w.1 != g) ++ [(g, d)]
          skips := r.skips.set (fun _ => 0) g (satAdd 16 (r.skips.get (fun _ => 0) g) (b2n skip))
          due := r.due.set (fun _ => none) g (some (d + c.period)) })

/-- The earliest due waiting sweep, the lower group on equal times (R78). -/
def earliest (l : List (Nat × Nat)) : Option (Nat × Nat) :=
  match l with
  | [] => none
  | w :: r => some (r.foldl (fun a b => if b.2 < a.2 ∨ (b.2 = a.2 ∧ b.1 < a.1) then b else a) w)

/-- The SENSOR record of a sweep (R96, Table 4.1). -/
def Leaf.sensorRec (l : Leaf) (t0 : Stamp) : Rec :=
  let ok := fun c => l.toNode.flag (TZ_SENc_VAL_VALID c)
  let bits := (List.range 64).foldl (fun a c => a + if ok c then 2 ^ c else 0) 0
  let vals := ((List.range 64).map (fun c => le 2 (if ok c then l.toNode.g (TZ_SENc_VAL_VALUE c) else 0))).flatten
  { kind := 3, cls := 4, body := twBytes t0.t ++ byte 0x20 ++ byte t0.qual.code ++ zeros 2 ++ le 8 bits ++ vals, stamp := t0,
    stampAt := 0, qualAt := some (17, 0), crcTail := false }

/-- What a sweep of a group reads: its member counters in ascending order, then the bins of its Twigs (R73, R78). -/
def Leaf.sweepItems (l : Leaf) (g : Nat) : List SweepItem :=
  ((numsWhere (16 * l.ntwig) (l.reader.member g)).map SweepItem.counter)
    ++ ((numsWhere l.ntwig (fun t => (l.twig t).binGroup == g && ((l.twig t).binEn || !(l.twig t).openBins.isEmpty))).map
        (fun t => (List.range 16).map (SweepItem.bin t))).flatten

/-- The bytes an item adds to the record. -/
def SweepItem.size : SweepItem → Nat
  | .counter _ => 12
  | .bin _ _ => 24

/-- The earliest due sweep starts (R78): T0, SWEEP_SEQ, SKIPS, the packer's decision at T0 (R158) and the SENSOR record
(R96). It waits while a configuration access or another sweep is in progress. -/
def Leaf.sweepStart (l : Leaf) : Leaf :=
  match earliest l.reader.waiting, l.reader.sweep with
  | some (g, _), none =>
    if !l.reader.enumerated || (match l.reader.access with | some a => a.issued | none => false) then l
    else
      let t0 := l.toNode.stamp
      let items := l.sweepItems g
      let len := 32 + items.foldl (fun a i => a + i.size) 0
      let q := l.toNode.q 4
      let seq := l.reader.seqs.get (fun _ => 0) g
      let thin := decide (q.level ≥ 1) && seq % 2 ^ q.level != 0
      let kept := !thin && l.toNode.fits 4 len
      let sw : Sweep :=
        { group := g, t0 := t0, seq := seq, skips := l.reader.skips.get (fun _ => 0) g, todo := items, nread := 0, nbin := 0,
          reads := [], bins := [], chainErr := false, stepIn := false, delta := 0, kept := kept, thinned := thin,
          reserved := if kept then 4 + len else 0 }
      let l := l.onReader (fun r =>
        { r with
          sweep := some sw
          waiting := r.waiting.filter (fun w => w.1 != g)
          skips := r.skips.set (fun _ => 0) g 0
          seqs := r.seqs.set (fun _ => 0) g ((seq + 1) % 2 ^ 32)
          slot := false })
      let l := l.on (fun n => n.setQ 4 { q with reserved := q.reserved + sw.reserved })
      let l := (l.s TZ_SAP_STATUS_SWEEP 1).s TZ_SAP_STATUS_CUR_GRP g
      if l.toNode.flag TZ_SEN_CTRL_SNAP_EN && l.toNode.g TZ_SEN_CTRL_SNAP_GROUP == g
      then l.on (fun n => (n.offer 4 (l.sensorRec t0) (some seq)).2) else l
  | _, _ => l

/-- A Twig as it stood where a read that returns now captured it: s_t + 4 cycles after its issue (R80; log entry 18). -/
def Leaf.captured (l : Leaf) (t : Nat) : Twig := l.twigAt t (l.loopLen - (l.stage t + 4))

/-- Bins closed at the moment of their reading give none (R73). -/
def Leaf.trimItems (l : Leaf) (items : List SweepItem) : List SweepItem :=
  items.dropWhile (fun i => match i with
    | .counter _ => false
    | .bin t b => !((l.captured t).bin b).open_)

/-- CAP_DT of a read of a Twig that returns now, in 2^-4 ns (R80, R81; log entry 18). -/
def Leaf.capDt (l : Leaf) (s : Sweep) (t : Nat) : Nat :=
  let issue := max (nsBack l.toNode.now l.loopLen) (if s.stepIn then 0 else s.t0.t)
  let d : Int := (issue : Int) - s.t0.t + ((l.stage t + 4) * fracPerNs : Nat) - (if s.stepIn then s.delta else 0)
  (d.toNat / 2 ^ 28) % 2 ^ 24

/-- The stamp of a reading: T0 + CAP_DT, on canopy time when the step has come (R80, R89). -/
def Sweep.capStamp (s : Sweep) (dt : Nat) : Stamp :=
  let st : Stamp := ⟨s.t0.t + dt * 2 ^ 28, s.t0.qual⟩
  if s.stepIn then st.corrected s.delta else st

/-- A counter reading of the sweep record (Table 3.5). -/
def counterReading (value index epoch dt : Nat) (wrap invalid : Bool) : List Byte :=
  le 6 value ++ le 2 (index + epoch * 4096) ++ le 3 dt ++ byte (b2n wrap + 2 * b2n invalid)

/-- The sweep with its next item replaced by what it gave. -/
def Leaf.setSweep (l : Leaf) (s : Sweep) : Leaf := l.onReader (fun r => { r with sweep := some s })

/-- The response to the sweep's next read returns with what its Twig's stage captured; the WRAP it reports clears (R73, R80, R86, R90). -/
def Leaf.readResponse (l : Leaf) : Leaf :=
  match l.reader.sweep with
  | none => l
  | some s =>
    match l.trimItems s.todo with
    | [] => l.setSweep { s with todo := [] }
    | .counter i :: rest =>
      let t := i / 16
      let k := (l.captured t).counter (i % 16)
      let now := (l.twig t).counter (i % 16)
      let dt := l.capDt s t
      let rd : Reading := ⟨true, k.value, k.epoch, k.wrap, s.capStamp dt⟩
      let l := l.setTwig t ((l.twig t).setCounter (i % 16) { now with wrap := now.wrap && !k.wrap })
      let l := l.onReader (fun r => { r with last := r.last.set (fun _ => Reading.none) i rd })
      l.setSweep { s with
        todo := rest, nread := s.nread + 1, reads := s.reads ++ counterReading k.value i k.epoch dt k.wrap false }
    | .bin t b :: rest =>
      let x := (l.captured t).bin b
      let dt := l.capDt s t
      l.setSweep { s with
        todo := rest
        nbin := s.nbin + 1
        bins := s.bins ++ le 6 x.busy ++ le 6 x.stall ++ le 4 x.tag ++ le 2 x.seq ++ byte t ++ byte (b + 16 * b2n x.mixed) ++ le 3 dt ++ zeros 1 }

/-- A missing response is counted and marked (R62). -/
def Leaf.chainErr (l : Leaf) : Leaf :=
  ((l.count TZ_SAP_CHAIN_ERRS_COUNT).s TZ_SAP_STATUS_CHAIN_ERR 1).onReader (fun r => { r with chainGrown := r.chainGrown + 1 })

/-- The Ring log keeps what TZ_SAP_CHAIN_ERRS has grown by since its last CHAIN record (Table 7.2). -/
def Leaf.chainLog (l : Leaf) : Leaf :=
  if l.reader.chainGrown = 0 then l
  else (l.log 0x06 (le 4 (min l.reader.chainGrown (2 ^ 32 - 1)))).onReader (fun r => { r with chainGrown := 0 })

/-- The sweep's next read returns no response within L + 8 cycles (R62, R73): an INVALID reading with VALUE = 0, whose
EPOCH and WRAP the spec does not state (free values), or no bin reading of that Twig. -/
def Leaf.readTimeout (l : Leaf) : Leaf :=
  match l.reader.sweep with
  | none => l
  | some s =>
    match l.trimItems s.todo with
    | [] => l
    | .counter i :: rest =>
      let dt := l.capDt s (i / 16)
      let (e, l) := l.draw 4
      let (w, l) := l.draw 1
      (l.setSweep { s with
        todo := rest, nread := s.nread + 1, chainErr := true, reads := s.reads ++ counterReading 0 i e dt (w == 1) true }).chainErr
    | .bin t _ :: rest =>
      let rest := rest.dropWhile (fun i => match i with
        | .bin u _ => u == t
        | .counter _ => false)
      (l.setSweep { s with todo := rest, chainErr := true }).chainErr

/-- The sweep record (Table 3.5). -/
def Sweep.record (s : Sweep) : Rec :=
  { kind := 1, cls := 4
    body := twBytes s.t0.t ++ le 4 s.seq ++ byte s.group ++ byte (s.t0.qual.code + 4 * b2n s.stepIn + 8 * b2n s.chainErr)
      ++ le 2 s.nread ++ le 2 s.nbin ++ le 2 s.skips ++ zeros 4 ++ s.reads ++ s.bins
    stamp := s.t0, stampAt := 0, qualAt := some (21, 0), crcTail := false }

/-- A pending configuration access takes the open slot, when no sweep is in progress (R78, R91). -/
def Leaf.grantAccess (l : Leaf) : Leaf :=
  match l.reader.access with
  | some a =>
    if a.issued || l.reader.sweep.isSome || (!l.reader.slot && !l.reader.waiting.isEmpty) then l
    else l.onReader (fun r => { r with access := some { a with issued := true, at_ := l.toNode.ns }, slot := false })
  | none => l

/-- The end of a sweep (R83, R158): its record is handed to the packer as was decided at T0, and a slot opens. -/
def Leaf.sweepComplete (l : Leaf) : Leaf :=
  match l.reader.sweep with
  | none => l
  | some s =>
    if !(l.trimItems s.todo).isEmpty then l
    else
      let rec_ := s.record
      let l := l.on (fun n =>
        let q := n.q 4
        let n := n.setQ 4 { q with reserved := q.reserved - s.reserved }
        if s.thinned then n.thin 4 rec_ else if s.kept then n.append 4 rec_ else n.drop 4 rec_)
      let l := (l.onReader (fun r => { r with sweep := none, slot := true })).s TZ_SAP_STATUS_SWEEP 0
      l.chainLog.grantAccess

/-! ### Settings (R79) -/

/-- Group, phase and period writes take effect, when no sweep is in progress (R79): the next due time follows from the new
values, and a waiting sweep of a group that no longer runs is abandoned uncounted. -/
def Leaf.groupApply (l : Leaf) : Leaf :=
  if l.reader.sweep.isSome then l
  else
    let t := l.toNode.now
    let en := l.toNode.flag TZ_SAP_CTRL_EN
    (List.range 8).foldl (fun l g =>
      let n := l.toNode
      let c : GroupCfg := ⟨n.flag (TZ_SAP_GRPn_CTRL_EN g), n.g (TZ_SAP_GRPn_CTRL_PERIOD g), n.g (TZ_SAP_GRPn_PHASE_PHASE g)⟩
      let l := l.s (TZ_SAP_GRPn_STAT_ERR g) (b2n (!periodOk c.period))
      if c = l.reader.group g then l
      else l.onReader (fun r =>
        { r with
          groups := r.groups.set GroupCfg.init g c
          due := r.due.set (fun _ => none) g (if c.runs && en then some (c.dueFrom t) else none)
          waiting := if c.runs then r.waiting else r.waiting.filter (fun w => w.1 != g) })) l

/-- A write of TZ_SAP_CTRL.EN (R79). -/
def Leaf.sapEn (l : Leaf) (v : Bool) : Leaf :=
  let was := l.toNode.flag TZ_SAP_CTRL_EN
  let l := l.s TZ_SAP_CTRL_EN (b2n v)
  if was = v then l
  else if v then (l.onReader (fun r => { r with skips := [] })).redue
  else l.onReader (fun r => { r with due := [], waiting := [] })

/-! ### The read window (R89, R90) -/

/-- A read of TZ_CNT_LO of counter `i` at a privilege level: VALUE[31:0], with the rest latched; 0 and no latch when
WIN_PRIV refuses it. -/
def Leaf.windowRead (l : Leaf) (i priv : Nat) : Nat × Leaf :=
  if !bitOf (l.toNode.g TZ_SAP_CTRL_WIN_PRIV) priv || decide (i ≥ 16 * l.ntwig) then (0, l)
  else
    let rd := l.reader.last.get (fun _ => Reading.none) i
    (rd.value % 2 ^ 32, l.onReader (fun r => { r with latch := r.latch.set (fun _ => Reading.none) priv rd }))

/-! ### Indirect configuration (R91) -/

/-- The access ends: GO clears, DONE sets, ERR marks a failure. -/
def Leaf.endAccess (l : Leaf) (err : Bool) : Leaf :=
  let l := (l.s TZ_TWIG_CFG_ADDR_GO 0).s TZ_TWIG_CFG_STAT_DONE 1
  let l := if err then l.s TZ_TWIG_CFG_STAT_ERR 1 else l
  l.onReader (fun r => { r with access := none })

/-- A write to TZ_TWIG_CFG_ADDR with GO = 1 (R91); it has no effect while an access is in progress. -/
def Leaf.cfgGo (l : Leaf) (wr : Bool) (twig word : Nat) : Leaf :=
  if l.toNode.flag TZ_TWIG_CFG_ADDR_GO then l
  else
    let l := ((l.s TZ_TWIG_CFG_ADDR_WR (b2n wr)).s TZ_TWIG_CFG_ADDR_TWIG twig).s TZ_TWIG_CFG_ADDR_WORD word
    let tw := twig % 256
    let wd := word % 64
    if tw ≥ l.ntwig || !twigDefined wd then l.endAccess true
    else
      let l := l.s TZ_TWIG_CFG_ADDR_GO 1
      let a : CfgAccess := ⟨wr, tw, wd, l.toNode.g TZ_TWIG_CFG_DATA_DATA, false, 0⟩
      (l.onReader (fun r => { r with access := some a })).grantAccess

/-- The CRESP of the access returns (R91): a write has crossed to the Twig's L-HOST domain, a read gives its word;
`err` is the CRESP's ERR. -/
def Leaf.cresp (l : Leaf) (err : Bool) : Leaf :=
  match l.reader.access with
  | none => l
  | some a =>
    if !a.issued then l
    else
      let w := l.twig a.twig
      let l :=
        if err then l
        else if a.wr then l.setTwig a.twig { w with writes := w.writes ++ [(a.word, a.data)] }
        else (l.s TZ_TWIG_CFG_DATA_DATA (w.cfgRead a.word)).setTwig a.twig (w.afterRead a.word)
      l.endAccess err

/-- No CRESP within L + 8 cycles (R91). -/
def Leaf.cfgTimeout (l : Leaf) : Leaf :=
  match l.reader.access with
  | none => l
  | some a => if a.issued && decide (a.at_ + l.loopLen + 8 ≤ l.toNode.ns) then (l.endAccess true).chainErr.chainLog else l

/-- The oldest configuration write that has crossed takes effect in the Twig (R66). -/
def Leaf.cfgApply (l : Leaf) (t : Nat) : Leaf :=
  let w := l.twig t
  match w.writes with
  | [] => l
  | (n, v) :: r => l.setTwig t ({ w with writes := r }.apply n v)

end Sys2Proof.Machine
end

