-- ==== Sys2Proof/Machine/Arith.lean ====
section
/-! DEFINITION. Numbers of the crown engine's formats, exact sums and one rounding (spec/10_crown_engine.md, R246 to R254),
and binary64 for the units that compute in it. -/

namespace Sys2Proof.Machine

/-- A number: NaN, an infinity, or a finite value with a sign (for zero) as an integer in units of 2^-U, where the use
fixes U. -/
inductive Num where
  | nan
  | inf (neg : Bool)
  | fin (neg : Bool) (v : Int)
  deriving DecidableEq, Repr

/-- A binary format: precision with the hidden bit, exponent of its least quantum, the code of infinity (or the first code
beyond its greatest finite value), whether it has infinities, its quiet NaN and its width in bits. -/
structure Fmt where
  p : Nat
  qmin : Int
  top : Nat
  hasInf : Bool
  qnan : Nat
  bits : Nat
  deriving DecidableEq, Repr

def fmtFp32 : Fmt := ⟨24, -149, 0x7F800000, true, 0x7FC00000, 32⟩
def fmtBf16 : Fmt := ⟨8, -133, 0x7F80, true, 0x7FC0, 16⟩
def fmtFp16 : Fmt := ⟨11, -24, 0x7C00, true, 0x7E00, 16⟩
def fmtE4m3 : Fmt := ⟨4, -9, 0x7F, false, 0x7F, 8⟩
def fmtE5m2 : Fmt := ⟨3, -16, 0x7C, true, 0x7E, 8⟩
def fmtFp64 : Fmt := ⟨53, -1074, 0x7FF0000000000000, true, 0x7FF8000000000000, 64⟩

/-- How a rounding goes: to nearest with ties to even, or toward +∞. -/
inductive Round where
  | nearest
  | up
  deriving DecidableEq, Repr

/-- A magnitude in units of 2^-u rounded to a format: the code of its absolute value (which may reach `top`), and whether
the rounding was inexact. -/
def roundMag (f : Fmt) (up : Option Bool) (m u : Nat) : Nat × Bool :=
  if m = 0 then (0, false)
  else
    let q : Int := max ((m.log2 : Int) - u - (f.p - 1)) f.qmin
    let shift : Int := q + u
    let (k, exact, half) :=
      if shift ≤ 0 then (m * 2 ^ (-shift).toNat, true, false)
      else
        let s := shift.toNat
        let r := m % 2 ^ s
        let k := m / 2 ^ s
        (k, r == 0, decide (2 * r > 2 ^ s) || (decide (2 * r = 2 ^ s) && k % 2 == 1))
    let k := match up with
      | some away => if !exact && away then k + 1 else k
      | none => if half then k + 1 else k
    ((q - f.qmin).toNat * 2 ^ (f.p - 1) + k, !exact)

/-- The result of one rounding: the code, and the flags it raised. -/
structure Rounded where
  code : Nat
  flags : Nat
  deriving DecidableEq, Repr

/-- NAN, INF, OFLOW, UFLOW, INEXACT, SAT and LOW (Table 10.3). -/
def flNan : Nat := 1
def flInf : Nat := 2
def flOflow : Nat := 4
def flUflow : Nat := 8
def flInexact : Nat := 16
def flSat : Nat := 32
def flLow : Nat := 64

/-- The sign bit of a code. -/
def Fmt.sign (f : Fmt) (neg : Bool) (code : Nat) : Nat := code + b2n neg * 2 ^ (f.bits - 1)

/-- The overflow value: infinity, or the greatest finite value where the format has none (R253). -/
def Fmt.overflow (f : Fmt) (neg : Bool) : Nat := f.sign neg (if f.hasInf then f.top else f.top - 1)

/-- The final conversion of R253: one rounding to nearest even of a number in units of 2^-u. -/
def convert (f : Fmt) (x : Num) (u : Nat) : Rounded :=
  match x with
  | .nan => ⟨f.qnan, flNan⟩
  | .inf neg => ⟨f.overflow neg, if f.hasInf then flInf else flInf ||| flOflow ||| flInexact⟩
  | .fin neg v =>
    let (c, inexact) := roundMag f none v.natAbs u
    if c ≥ f.top then ⟨f.overflow neg, flOflow ||| flInexact⟩
    else
      let small := decide (v ≠ 0) && decide (c < 2 ^ (f.p - 1)) && inexact
      ⟨f.sign neg c, (if inexact then flInexact else 0) ||| (if small then flUflow else 0)⟩

/-- The conversion to INT32: the nearest integer, ties to even, saturating (R253). -/
def convertInt32 (x : Num) (u : Nat) : Rounded :=
  match x with
  | .fin _ v =>
    let s : Int := 2 ^ u
    let q := v / s
    let r := v % s
    let i := if 2 * r > s ∨ (2 * r = s ∧ q % 2 = 1) then q + 1 else q
    if i > 2147483647 then ⟨0x7FFFFFFF, flOflow ||| flInexact⟩
    else if i < -2147483648 then ⟨0x80000000, flOflow ||| flInexact⟩
    else ⟨unsgn 32 i, if r = 0 then 0 else flInexact⟩
  | _ => ⟨0, flNan⟩

/-- The number that a code of a binary format stands for, in units of 2^-u with u at least −qmin. -/
def decodeFmt (f : Fmt) (code u : Nat) : Num :=
  let neg := bitOf code (f.bits - 1)
  let c := code % 2 ^ (f.bits - 1)
  if f.hasInf && c == f.top then .inf neg
  else if c ≥ f.top then .nan
  else
    let e := c / 2 ^ (f.p - 1)
    let m := c % 2 ^ (f.p - 1)
    let v := if e = 0 then m else (m + 2 ^ (f.p - 1)) * 2 ^ (e - 1)
    let v : Int := ((v * 2 ^ (u - (-f.qmin).toNat) : Nat) : Int)
    .fin neg (if neg then -v else v)

/-! ### Input formats (Table 10.2) -/

/-- A small floating format without infinities or NaN: precision and least quantum. -/
def fmtE2m1 : Fmt := ⟨2, -1, 8, false, 0, 4⟩
def fmtE2m3 : Fmt := ⟨4, -3, 32, false, 0, 6⟩
def fmtE3m2 : Fmt := ⟨3, -4, 32, false, 0, 6⟩

/-- Whether a format code is defined (Table 10.2). -/
def inFmtOk (c : Nat) : Bool := (decide (1 ≤ c) && decide (c ≤ 9)) || (decide (0x12 ≤ c) && decide (c ≤ 0x17))

/-- Whether it is an MX format, or a plain integer format. -/
def inFmtMx (c : Nat) : Bool := bitOf c 4
def inFmtInt (c : Nat) : Bool := c == 1 || c == 2

/-- The bits of an element. -/
def inBits (c : Nat) : Nat :=
  match c % 16 with
  | 1 => 4 | 3 => 4 | 4 => 6 | 5 => 6 | 8 => 16 | 9 => 16 | _ => 8

/-- K_c of a width class (Table 10.1). -/
def kcOf (bits : Nat) : Nat := if bits ≤ 4 then 256 else if bits ≤ 8 then 128 else 64

/-- An element of an input format, in units of 2^-160 with a block scale exponent `s` (0 for formats without one). -/
def decodeIn (c code : Nat) (s : Int) : Num :=
  let sh := fun (x : Num) => match x with
    | .fin n v => .fin n (if 0 ≤ s then v * 2 ^ s.toNat else v / 2 ^ (-s).toNat)
    | y => y
  match c % 16 with
  | 1 => .fin (bitOf code 3) (sgn 4 code * 2 ^ 160)
  | 2 => if inFmtMx c then sh (.fin (bitOf code 7) (sgn 8 code * 2 ^ 154)) else .fin (bitOf code 7) (sgn 8 code * 2 ^ 160)
  | 3 => sh (decodeFmt fmtE2m1 code 160)
  | 4 => sh (decodeFmt fmtE2m3 code 160)
  | 5 => sh (decodeFmt fmtE3m2 code 160)
  | 6 => sh (decodeFmt fmtE4m3 code 160)
  | 7 => sh (decodeFmt fmtE5m2 code 160)
  | 8 => decodeFmt fmtBf16 code 160
  | _ => decodeFmt fmtFp16 code 160

/-- The i-th element code of a packed row (R247): two 4-bit elements in a byte, four 6-bit elements in three bytes. -/
def elemCode (bits : Nat) (row : Nat → Byte) (i : Nat) : Nat :=
  if bits = 4 then bitsOf (row (i / 2)).toNat (4 * (i % 2) + 3) (4 * (i % 2))
  else if bits = 6 then
    let g := i / 4 * 3
    let v := ofLe [row g, row (g + 1), row (g + 2)]
    bitsOf v (6 * (i % 4) + 5) (6 * (i % 4))
  else if bits = 8 then (row i).toNat
  else ofLe [row (2 * i), row (2 * i + 1)]

/-- The bytes a row of K elements takes. -/
def rowBytes (bits k : Nat) : Nat := ceilDiv (bits * k) 8

/-- The output formats (R248): code, bytes and conversion. -/
def outFmtOk (c : Nat) : Bool := decide (c ≤ 5)
def outBytes (c : Nat) : Nat := match c with | 0 => 4 | 5 => 4 | 1 => 2 | 2 => 2 | _ => 1
def outFmt (c : Nat) : Fmt := match c with | 0 => fmtFp32 | 1 => fmtBf16 | 2 => fmtFp16 | 3 => fmtE4m3 | _ => fmtE5m2
def outConvert (c : Nat) (x : Num) (u : Nat) : Rounded := if c = 5 then convertInt32 x u else convert (outFmt c) x u

/-- R248: both integer or neither, both MX or neither, INT32 only with integers. -/
def fmtsOk (a b o : Nat) : Bool :=
  inFmtOk a && inFmtOk b && outFmtOk o && (inFmtInt a == inFmtInt b) && (inFmtMx a == inFmtMx b) && (o != 5 || inFmtInt a)

/-! ### Sums (R249 to R252) -/

/-- The product of two elements, in units of 2^-320. -/
def Num.mul (a b : Num) : Num :=
  match a, b with
  | .nan, _ => .nan
  | _, .nan => .nan
  | .inf n, .inf m => .inf (n != m)
  | .inf n, .fin m v => if v = 0 then .nan else .inf (n != m)
  | .fin n v, .inf m => if v = 0 then .nan else .inf (n != m)
  | .fin n v, .fin m w => .fin (n != m) (v * w)

/-- The sum of two numbers of one unit, exact; the sum of zeros is −0 only when both are. -/
def Num.add (a b : Num) : Num :=
  match a, b with
  | .nan, _ => .nan
  | _, .nan => .nan
  | .inf n, .inf m => if n = m then .inf n else .nan
  | .inf n, .fin _ _ => .inf n
  | .fin _ _, .inf m => .inf m
  | .fin n v, .fin m w => .fin (if v + w = 0 then (if v = 0 then n && m else false) else decide (v + w < 0)) (v + w)

/-- The exact sum of a list; `zero` is the sum of none (negative zero is the neutral element of `Num.add`). -/
def Num.sum (l : List Num) : Num := l.foldl Num.add (.fin true 0)

/-- One dot product's terms: group g is the exact sum of its 32 products. -/
def groupTerms (n : Nat) (prod : Nat → Num) : List Num :=
  (List.range (n / 32)).map (fun g => Num.sum ((List.range 32).map (fun j => prod (32 * g + j))))

/-- The long accumulator of R250 in units of 2^-160: value, clamped, truncated. -/
def canonAdd (a : Int × Bool × Bool) (t : Num) : Int × Bool × Bool :=
  let (acc, sat, low) := a
  match t with
  | .fin _ v =>
    let w := Int.tdiv v (2 ^ 160)
    let low := low || decide (w * 2 ^ 160 ≠ v)
    let s := acc + w
    if s > 2 ^ 319 - 1 then (2 ^ 319 - 1, true, low) else if s < -(2 ^ 319) then (-(2 ^ 319), true, low) else (s, sat, low)
  | _ => (acc, sat, low)

/-- The special result of R252, when there is one: any NaN, infinities of both signs, or an infinity. `c` is the C term. -/
def special (c : Num) (prods : List Num) : Option Num :=
  let all := c :: prods
  if all.any (fun x => x == .nan) then some .nan
  else
    let p := all.any (fun x => x == .inf false)
    let m := all.any (fun x => x == .inf true)
    if p && m then some .nan else if p then some (.inf false) else if m then some (.inf true) else none

/-- Whether every product and C are zeros of negative sign (R252). -/
def allNegZero (l : List Num) : Bool := l.all (fun x => x == .fin true 0)

/-- One element in CANONICAL mode (R250, R252, R253). `c` is in units of 2^-160, products in units of 2^-320; `acc` says
whether C takes part. -/
def canonElem (o : Nat) (acc : Bool) (c : Num) (k : Nat) (prod : Nat → Num) : Rounded :=
  let prods := (List.range k).map prod
  match special (if acc then c else .fin false 0) prods with
  | some x => outConvert o x 160
  | none =>
    let c0 : Int := match c with | .fin _ v => if acc then v else 0 | _ => 0
    let (v, sat, low) := (groupTerms k prod).foldl canonAdd (c0, false, false)
    let nz := v == 0 && allNegZero ((if acc then [c] else [.fin false 0]) ++ prods)
    let fl := (if sat then flSat else 0) ||| (if low then flLow else 0)
    if sat && o != 5 then ⟨(outFmt o).overflow (decide (v < 0)), flOflow ||| flInexact ||| fl⟩
    else
      let r := outConvert o (.fin (nz || decide (v < 0)) v) 160
      ⟨r.code, r.flags ||| fl⟩

/-- One FP32 addition of DENSE mode in units of 2^-320 (R249, R252): rounded to nearest even with gradual underflow,
overflow to an infinity. -/
def denseAdd (a : Num × Nat) (t : Num) : Num × Nat :=
  let s := a.1.add t
  match s with
  | .fin neg v =>
    let r := convert fmtFp32 (.fin neg v) 320
    (decodeFmt fmtFp32 r.code 320, a.2 ||| (r.flags &&& flOflow))
  | x => (x, a.2)

/-- A number in units of 2^-160 in units of 2^-320. -/
def Num.wide : Num → Num
  | .fin n v => .fin n (v * 2 ^ 160)
  | x => x

/-- One element in DENSE mode with non-integer inputs (R249). -/
def denseElem (o : Nat) (acc : Bool) (c : Num) (k : Nat) (prod : Nat → Num) : Rounded :=
  let c0 : Num := if acc then c.wide else .fin false 0
  match special c0 ((List.range k).map prod) with
  | some x => outConvert o x 320
  | none =>
    let (v, fl) := (groupTerms k prod).foldl denseAdd (c0, 0)
    let r := outConvert o v 320
    ⟨r.code, r.flags ||| fl⟩

/-- One element with integer inputs, in either mode (R249): exact, converted once. -/
def intElem (o : Nat) (acc : Bool) (c : Num) (k : Nat) (prod : Nat → Num) : Rounded :=
  let c0 : Num := if acc then c.wide else .fin false 0
  outConvert o ((Num.sum (c0 :: (List.range k).map prod)).add (.fin false 0)) 320

/-! ### Binary64 -/

/-- A binary64 code as an exact number in units of 2^-1074. -/
def f64 (code : Nat) : Num := decodeFmt fmtFp64 code 1074

/-- A number in units of 2^-u rounded to binary64, nearest even. -/
def toF64 (x : Num) (u : Nat) : Nat := (convert fmtFp64 x u).code

/-- A non-negative rational p/q rounded toward +∞ to a multiple of 2^-u. -/
def ratUp (p q u : Nat) : Nat := if q = 0 then 0 else (p * 2 ^ u + q - 1) / q

/-- The square root of a natural number, rounded down. -/
def natSqrt (fuel n lo hi : Nat) : Nat :=
  match fuel with
  | 0 => lo
  | m + 1 =>
    if hi ≤ lo + 1 then lo
    else
      let mid := (lo + hi) / 2
      if mid * mid ≤ n then natSqrt m n mid hi else natSqrt m n lo mid

end Sys2Proof.Machine
end

