-- ==== Sys2Proof/Machine/Tile.lean ====
section
/-! DEFINITION. Work-tile descriptors and the RESULT summary, which the leaf's audit tap and the crown's audit service both
form (spec/13_audit.md, R317 to R319, R326). -/

namespace Sys2Proof.Machine

/-- Fields of a descriptor (Table 13.1). -/
def dFlags (d : List Byte) : Nat := field d 1 1
def dClassB (d : List Byte) : Bool := bitOf (dFlags d) 0
def dAccIn (d : List Byte) : Bool := bitOf (dFlags d) 1
def dRadio (d : List Byte) : Bool := bitOf (dFlags d) 2
def dNoReplay (d : List Byte) : Bool := bitOf (dFlags d) 3
def dAFmt (d : List Byte) : Nat := field d 2 1
def dBFmt (d : List Byte) : Nat := field d 3 1
def dOutFmt (d : List Byte) : Nat := field d 4 1
def dAccFmt (d : List Byte) : Nat := field d 5 1
def dOrder (d : List Byte) : Nat := field d 6 1
def dEngine (d : List Byte) : Nat := field d 7 1
def dTileSeq (d : List Byte) : Nat := field d 8 4
def dTag (d : List Byte) : Nat := field d 12 4
def dM (d : List Byte) : Nat := field d 16 2
def dN (d : List Byte) : Nat := field d 18 2
def dK (d : List Byte) : Nat := field d 20 4
def dAAddr (d : List Byte) : Nat := field d 24 6
def dBAddr (d : List Byte) : Nat := field d 30 6
def dOutAddr (d : List Byte) : Nat := field d 36 6
def dCAddr (d : List Byte) : Nat := field d 42 6
def dALd (d : List Byte) : Nat := field d 48 3
def dBLd (d : List Byte) : Nat := field d 51 3
def dOutLd (d : List Byte) : Nat := field d 54 3
def dAsAddr (d : List Byte) : Nat := dAAddr d + 64 * field d 58 3
def dBsAddr (d : List Byte) : Nat := dBAddr d + 64 * field d 61 3

/-- Bytes of one row of A, one column of B, one row of OUT. -/
def dARow (d : List Byte) : Nat := rowBytes (inBits (dAFmt d)) (dK d)
def dBCol (d : List Byte) : Nat := rowBytes (inBits (dBFmt d)) (dK d)
def dOutRow (d : List Byte) : Nat := dN d * outBytes (dOutFmt d)

/-- Whether a descriptor is malformed (R319). -/
def dBad (d : List Byte) : Bool :=
  let f := dFlags d
  let o := dOrder d
  let ints := inFmtInt (dAFmt d)
  field d 0 1 != 1 || decide (f ≥ 16) || field d 57 1 != 0
    || (dClassB d && (!([0, 1, 2, 5].contains (dAccFmt d)) || o % 4 == 3 || decide (bitsOf o 6 2 > 20) || bitOf o 7))
    || !fmtsOk (dAFmt d) (dBFmt d) (dOutFmt d)
    || dM d == 0 || decide (dM d > 1024) || dN d == 0 || decide (dN d > 1024)
    || decide (dK d < 32) || decide (dK d > 1048576) || dK d % 32 != 0
    || (dClassB d && (ints == (dAccFmt d != 5)))
    || decide (dALd d < dARow d) || decide (dBLd d < dBCol d) || decide (dOutLd d < dOutRow d)
    || (dAccIn d && decide (dOutLd d < 4 * dN d))

/-- The runs of bytes, address and length, that the operand stream carries in the order of R325: A rows, A scales, B columns,
B scales, C rows. -/
def dOperands (d : List Byte) : List (Nat × Nat) :=
  let rows := fun (k base ld len : Nat) => (List.range k).map (fun i => (base + i * ld, len))
  let mx := inFmtMx (dAFmt d)
  rows (dM d) (dAAddr d) (dALd d) (dARow d)
    ++ (if mx then rows (dM d) (dAsAddr d) (dK d / 32) (dK d / 32) else [])
    ++ rows (dN d) (dBAddr d) (dBLd d) (dBCol d)
    ++ (if mx then rows (dN d) (dBsAddr d) (dK d / 32) (dK d / 32) else [])
    ++ (if dAccIn d then rows (dM d) (dCAddr d) (dOutLd d) (4 * dN d) else [])

/-- The runs of OUT at an address with a stride. -/
def dOutRuns (d : List Byte) (base ld : Nat) : List (Nat × Nat) := (List.range (dM d)).map (fun i => (base + i * ld, dOutRow d))

/-- Bytes of a list of runs. -/
def runBytes (l : List (Nat × Nat)) : Nat := l.foldl (fun a r => a + r.2) 0

/-- Whether every byte of every run lies in a window, both bounds inclusive (R324). -/
def runsInside (l : List (Nat × Nat)) (lo hi : Nat) : Bool :=
  l.all (fun r => r.2 == 0 || (decide (lo ≤ r.1) && decide (r.1 + r.2 - 1 ≤ hi)))

/-! ### The summary (R326) -/

/-- An element of OUT as its code. -/
def outCode (d : List Byte) (rows : List (List Byte)) (m n : Nat) : Nat :=
  field (rows.getD m []) (n * outBytes (dOutFmt d)) (outBytes (dOutFmt d))

/-- An element of OUT as a number in units of 2^-160. -/
def outNum (fmt code : Nat) : Num :=
  if fmt = 5 then .fin (bitOf code 31) (sgn 32 code * 2 ^ 160) else decodeFmt (outFmt fmt) code 160

/-- A row of OUT with every NaN replaced by the quiet NaN of R253. -/
def quietRow (d : List Byte) (rows : List (List Byte)) (m : Nat) : List Byte :=
  let f := dOutFmt d
  ((List.range (dN d)).map (fun n =>
    let c := outCode d rows m n
    le (outBytes f) (if outNum f c == .nan then (outFmt f).qnan else c))).flatten

/-- The code of a list of elements: 0 all finite, 1 an infinity above, 2 below, 3 a NaN or both (R326). -/
def sumCode (l : List Num) : Nat :=
  let p := l.any (fun x => x == .inf false)
  let m := l.any (fun x => x == .inf true)
  if l.any (fun x => x == .nan) || (p && m) then 3 else if p then 1 else if m then 2 else 0

/-- A sum as the RESULT record holds it: 0 when its code is not 0, exact for INT32, else rounded once to binary64. -/
def sumWord (fmt : Nat) (l : List Num) : Nat :=
  if sumCode l ≠ 0 then 0
  else match (Num.sum l).add (.fin false 0) with
    | .fin n v => if fmt = 5 then unsgn 64 (v / 2 ^ 160) else toF64 (.fin n v) 160
    | _ => 0

/-- The summary of a tile's output. -/
structure Summary where
  dOut : Nat
  rowCrc : List Nat
  codes : List Nat
  sums : List Nat
  deriving DecidableEq, Repr

/-- The summary that OUT gives (R326): class A check values, class B codes and sums, rows then columns. -/
def summaryOf (d : List Byte) (rows : List (List Byte)) : Summary :=
  if dClassB d then
    let el := fun m n => outNum (dOutFmt d) (outCode d rows m n)
    let r := (List.range (dM d)).map (fun m => (List.range (dN d)).map (el m))
    let c := (List.range (dN d)).map (fun n => (List.range (dM d)).map (fun m => el m n))
    ⟨0, [], (r ++ c).map sumCode, (r ++ c).map (sumWord (dOutFmt d))⟩
  else
    let q := (List.range (dM d)).map (quietRow d rows)
    ⟨crcOf 3 q.flatten, q.map crc32c, [], []⟩

/-- Codes of two bits each, from bit 0, padded to a multiple of 8 bytes. -/
def packCodes (l : List Nat) : List Byte :=
  let v := (l.foldr (fun c a => a * 4 + c % 4) 0)
  le (ceilDiv (2 * l.length) 64 * 8) v

/-- The summary as RESULT carries it from byte 32 (Table 13.4). -/
def Summary.bytes (s : Summary) (classB : Bool) : List Byte :=
  if classB then packCodes s.codes ++ (s.sums.map (le 8)).flatten else le 8 s.dOut ++ (s.rowCrc.map (le 4)).flatten

/-- The summary that RESULT bytes carry for a descriptor. -/
def Summary.parse (d : List Byte) (l : List Byte) : Summary :=
  let k := dM d + dN d
  if dClassB d then
    let cb := ceilDiv (2 * k) 64 * 8
    let v := ofLe (l.take cb)
    ⟨0, [], (List.range k).map (fun i => bitsOf v (2 * i + 1) (2 * i)), (List.range k).map (fun i => field l (cb + 8 * i) 8)⟩
  else ⟨field l 0 8, (List.range (dM d)).map (fun i => field l (8 + 4 * i) 4), [], []⟩

/-- An audit record head (Table 13.3). -/
def auditHead (st : Stamp) (typ : Nat) (rehearsal : Bool) (engine node : Nat) : List Byte :=
  twBytes st.t ++ byte typ ++ byte (st.qual.code + 4 * b2n rehearsal) ++ byte engine ++ zeros 1 ++ le 4 node

/-- An audit record (KIND 0x08 in C3, R327). -/
def auditRec (st : Stamp) (typ : Nat) (rehearsal : Bool) (engine node : Nat) (body : List Byte) : Rec :=
  { kind := 8, cls := 3, body := auditHead st typ rehearsal engine node ++ body, stamp := st, stampAt := 0, qualAt := some (17, 0),
    crcTail := false }

/-- The selection hash of R321. -/
def auditHash (seed node engine tile : Nat) : Nat :=
  let w := 2 ^ 64
  let x := (seed ^^^ (node * 2 ^ 40 % w) ^^^ (engine * 2 ^ 32 % w) ^^^ tile) % w
  let x := (x ^^^ (x / 2 ^ 30)) * 0xBF58476D1CE4E5B9 % w
  let x := (x ^^^ (x / 2 ^ 27)) * 0x94D049BB133111EB % w
  x ^^^ (x / 2 ^ 31)

end Sys2Proof.Machine
end

