-- ==== Sys2Proof/Machine/Trace.lean ====
section
/-! DEFINITION. The trace unit: packets, low power, loss and stall, the shared buffer and its drain
(spec/05_trace.md, R121 to R136). -/

namespace Sys2Proof.Machine

/-- Unsigned LEB128. -/
def leb (fuel v : Nat) : List Byte :=
  match fuel with
  | 0 => []
  | m + 1 => if v < 128 then byte v else byte (v % 128 + 128) ++ leb m (v / 128)

/-- LEB128 of a count that stops at 2^28 − 1. -/
def leb28 (v : Nat) : List Byte := leb 4 (min v (2 ^ 28 - 1))

/-- ASZ and the bytes of an address against a base (R123): the smallest of sizes 1 to 5 whose signed range holds the
difference, else the full address. -/
def addrField (addr base : Nat) : Nat × List Byte :=
  let d := sgn 64 (addr + 2 ^ 64 - base % 2 ^ 64)
  let fits := fun (n : Nat) => decide (-(2 ^ (8 * n - 1) : Int) ≤ d) && decide (d < (2 ^ (8 * n - 1) : Int))
  let send := fun (z n : Nat) => (z, le n (unsgn (8 * n) d))
  if fits 1 then send 1 1 else if fits 2 then send 2 2 else if fits 3 then send 3 3 else if fits 4 then send 4 4
  else if fits 6 then send 5 6 else (6, le 8 addr)

/-- Core `c` of the trace unit. -/
def Leaf.core (l : Leaf) (c : Nat) : TrcCore := l.trace.cores.get (fun _ => TrcCore.reset) c
def Leaf.setCore (l : Leaf) (c : Nat) (x : TrcCore) : Leaf :=
  { l with trace := { l.trace with cores := l.trace.cores.set (fun _ => TrcCore.reset) c x } }

/-- Bytes of a list of packets. -/
def pktBytes (l : List TrcPkt) : Nat := l.foldl (fun a p => a + p.bytes.length) 0

/-- Free bytes of a partition: its size less the unread bytes (R131). -/
def TrcCore.free (x : TrcCore) : Nat := x.part * 4096 - pktBytes x.buf

/-- The stall request and the status of a core follow its FIFO and partition (R131, Table 5.4). -/
def Leaf.trcStatus (l : Leaf) (c : Nat) : Leaf :=
  let x := l.core c
  let n := l.toNode
  let th := max 8 (n.g (TZ_TRCc_CTRL_STALL_FREE c)) * 256
  let fifo := pktBytes x.fifo
  let was := n.flag (TZ_TRCc_STAT_STALLING c)
  let stall := n.flag (TZ_TRCc_CTRL_STALL_EN c) &&
    (if was then !(decide (x.free ≥ 2 * th) && decide (fifo ≤ 256)) else decide (x.free < th) || decide (fifo > 512))
  (((l.s (TZ_TRCc_STAT_STALLING c) (b2n stall)).s (TZ_TRCc_STAT_FREE c) x.free).s (TZ_TRCc_STAT_LP c) (b2n x.lp)).s
    (TZ_TRCc_STAT_LOSS_PEND c) (b2n x.losing)

/-- A packet of a core enters its FIFO, or is dropped and counted when it would fill the FIFO or, unless it is a SYNC, cut into the reserve of
64 bytes, as every later one is until the loss run ends (R132). -/
def Leaf.trcEmit (l : Leaf) (c : Nat) (bytes : List Byte) (sync : Option Stamp) : Leaf :=
  let x := l.core c
  let len := bytes.length
  let fifo := pktBytes x.fifo
  if x.losing || decide (fifo + len ≥ 2048) || decide (x.free < fifo + len + (if sync.isSome then 0 else 64)) then
    let l := l.setCore c { x with
      losing := true, lostPkt := x.lostPkt + 1, lostBytes := x.lostBytes + len, lossSent := false, cyc := 0 }
    (l.count (TZ_TRCc_LOST_PKT_COUNT c)).inc (TZ_TRCc_LOST_BYTES_COUNT c) len
  else l.setCore c { x with fifo := x.fifo ++ [⟨bytes, sync, l.toNode.now⟩], since := x.since + len, cyc := 0 }

/-- A SYNC (R124, R128): full address, a stamp CROSS_LAT ns earlier, LAST_DA = 0, counts from here. -/
def Leaf.trcSync (l : Leaf) (c reason pc : Nat) : Leaf :=
  let st : Stamp := ⟨l.toNode.now - l.toNode.g TZ_TRC_SYNC_CROSS_LAT * fracPerNs, l.toNode.qual⟩
  let l := l.trcEmit c (byte (0x30 + reason) ++ byte st.qual.code ++ twBytes st.t ++ le 8 pc) (some st)
  l.setCore c { l.core c with lastIa := pc, lastDa := 0, nseq := 0, pend := none, since := 0, syncAt := l.toNode.now }

/-- A FLOW with ASZ = 0: counts only (R125). -/
def Leaf.trcCounts (l : Leaf) (c : Nat) : Leaf :=
  let x := l.core c
  let l := l.trcEmit c (byte 0x10 ++ leb28 x.cyc ++ leb 3 x.nseq) none
  l.setCore c { l.core c with nseq := 0 }

/-- A FLOW to a discontinuity's target (R125). -/
def Leaf.trcFlow (l : Leaf) (c pc kind cause : Nat) : Leaf :=
  let x := l.core c
  let (z, a) := addrField pc x.lastIa
  let exc := kind != 0
  let l := l.trcEmit c
    (byte (0x10 + 2 * z + b2n exc) ++ leb28 x.cyc ++ leb 3 x.nseq ++ a ++ (if exc then byte (kind * 64 + cause % 64) else [])) none
  l.setCore c { l.core c with lastIa := pc, nseq := 0 }

/-- The lowest range that matches a beat, and its VAL (R126). -/
def Leaf.trcRange (l : Leaf) (c : Nat) (d : TrcData) : Option (Nat × Bool) :=
  let n := l.toNode
  let hit := fun r =>
    let lo := n.g (TZ_TRC_RNGr_LO_H_LO_63_32_ r) * 2 ^ 32 + n.g (TZ_TRC_RNGr_LO_L_LO_31_0_ r)
    let hi := n.g (TZ_TRC_RNGr_HI_H_HI_63_32_ r) * 2 ^ 32 + n.g (TZ_TRC_RNGr_HI_L_HI_31_0_ r)
    n.flag (TZ_TRC_RNGr_CTRL_EN r) && bitOf (n.g (TZ_TRC_RNGr_CTRL_CORES r)) c
      && (if d.st then n.flag (TZ_TRC_RNGr_CTRL_STORE r) else n.flag (TZ_TRC_RNGr_CTRL_LOAD r)) && decide (lo ≤ d.addr) && decide (d.addr ≤ hi)
  if !n.flag (TZ_TRCc_CTRL_DATA_EN c) then none
  else (lowest 8 hit).map (fun r => (r, n.flag (TZ_TRC_RNGr_CTRL_VAL r)))

/-- A DATA packet (R122, R123, R126). -/
def Leaf.trcData (l : Leaf) (c : Nat) (d : TrcData) : Leaf :=
  match l.trcRange c d with
  | none => l
  | some (r, val) =>
    let x := l.core c
    let (z, a) := if d.addr = x.lastDa then (0, []) else addrField d.addr x.lastDa
    let sz := d.size % 4
    let l := l.trcEmit c (byte (0x20 + 8 * b2n d.st + 2 * sz + b2n val) ++ leb28 x.cyc ++ leb 3 (x.nseq + d.pos + 1)
      ++ byte (z * 32 + r) ++ a ++ (if val then le (2 ^ sz) d.value else [])) none
    l.setCore c { l.core c with lastDa := d.addr }

/-- The SYNC due at a retirement, if any (R124, R132). -/
def Leaf.trcDue (l : Leaf) (c : Nat) : Option Nat :=
  let x := l.core c
  let e := l.toNode.g TZ_TRC_SYNC_SYNC_EXP
  let ms := l.toNode.g TZ_TRC_SYNC_SYNC_MS
  let e := if e < 10 then 10 else if e > 20 then 20 else e
  match x.pend with
  | some r => some r
  | none =>
    if x.since ≥ 2 ^ e ∨ (ms ≠ 0 ∧ l.toNode.now ≥ x.syncAt + ms * 1000000 * fracPerNs) then some 0 else none

/-- One L-TRC cycle of a core's retirement interface (R122 to R126). After a loss run SYNC takes REASON 2, or waits as REASON 3 for the LOSS
where low power came in the run (R132). A count of 5 to 7 is unpredictable (R455): the model
draws a free count in its place. -/
def Leaf.trcRetire (l : Leaf) (c : Nat) (i : TrcIn) : Leaf :=
  let x := l.core c
  let l := if l.toNode.flag (TZ_TRCc_STAT_STALLING c) then l.count (TZ_TRCc_STALLCYC_COUNT c) else l
  if !x.run || x.lp then l
  else
    let (k, l) := if i.n ≤ 4 then (i.n, l) else (let (v, l) := l.draw 3; (v % 5, l))
    let l := l.setCore c { x with cyc := x.cyc + 1 }
    let x := l.core c
    if k = 0 then
      let l := match i.data with
        | some d => if x.pend.isSome then l else l.trcData c d
        | none => l
      (if (l.core c).cyc ≥ 2 ^ 28 - 1 then l.trcCounts c else l).trcStatus c
    else
      let l := if x.losing && x.lossSent then
          l.setCore c { x with losing := false, lostPkt := 0, lostBytes := 0, lossSent := false, pend := if x.pend = some 3 then some 3 else some 2 }
        else l
      let l := match l.trcDue c with
        | some r => if r = 3 ∧ (l.core c).losing then l else l.trcSync c r i.pc
        | none => l
      let x := l.core c
      let l :=
        if i.disc then l.trcFlow c i.pc i.kind i.cause
        else if x.nseq + k > 65535 || decide (x.cyc ≥ 2 ^ 28 - 1) then l.trcCounts c
        else l
      let l := match i.data with
        | some d => l.trcData c d
        | none => l
      let x := l.core c
      (l.setCore c { x with nseq := x.nseq + k }).trcStatus c

/-- A rise of trc_lp (R130). -/
def Leaf.trcLpEnter (l : Leaf) (c : Nat) : Leaf :=
  let x := l.core c
  if x.lp then l
  else
    let l := if x.run then
        l.trcEmit c (byte 0x50 ++ leb28 x.cyc ++ leb 3 x.nseq) none
      else l
    (l.setCore c { l.core c with lp := true }).trcStatus c

/-- A fall of trc_lp: the bases are void, and the next retirement produces a SYNC with REASON 3 (R130). -/
def Leaf.trcLpExit (l : Leaf) (c : Nat) : Leaf :=
  let x := l.core c
  if !x.lp then l
  else (l.setCore c { x with lp := false, pend := some 3, nseq := 0, cyc := 0 }).trcStatus c

/-- A LOSS packet once 1 KiB of the partition is free (R132); the Ring log keeps a TRACE_LOSS record (Table 7.2). -/
def Leaf.trcLoss (l : Leaf) (c : Nat) : Leaf :=
  let x := l.core c
  if !x.losing || x.lossSent || decide (x.free < 1024) then l
  else
    let pkt : TrcPkt := ⟨byte 0x40 ++ leb28 x.lostPkt ++ leb28 x.lostBytes, none, l.toNode.now⟩
    let l := l.setCore c { x with fifo := x.fifo ++ [pkt], lossSent := true }
    let l := l.log 0x08 (byte c ++ zeros 3 ++ le 4 (min x.lostPkt (2 ^ 32 - 1)) ++ le 4 (min x.lostBytes (2 ^ 32 - 1)))
    (l.setCore c { l.core c with lostPkt := 0, lostBytes := 0 }).trcStatus c

/-- Reset of a core's retirement interface (R124): the next retirement produces a SYNC with REASON 1; the buffer stays. -/
def Leaf.trcCoreReset (l : Leaf) (c : Nat) : Leaf :=
  let x := l.core c
  l.setCore c { x with lastIa := 0, lastDa := 0, nseq := 0, cyc := 0, pend := if x.run then some 1 else none }

/-- The rise of EN of a core (R124, R133). -/
def Leaf.trcEnable (l : Leaf) (c : Nat) : Leaf :=
  let n := l.toNode
  let part := n.g (TZ_TRCc_CTRL_PART c)
  let sum := (numsWhere 4 (fun k => k != c && (l.core k).run)).foldl (fun a k => a + (l.core k).part) part
  if sum + n.g TZ_TRC_BUF_AUD > 64 then (l.s (TZ_TRCc_CTRL_EN c) 0).s TZ_TRC_STAT_CFG_ERR 1
  else l.setCore c { l.core c with run := true, part := part, pend := some 1, nseq := 0, cyc := 0 }

/-- A write to TZ_TRCc_CTRL (R127, R133): EN = 0 closes the counts with a FLOW and stops the encoder; in low power LP_ENTER has closed them,
and nothing is emitted (R130). -/
def Leaf.trcCtrl (l : Leaf) (c v : Nat) : Leaf :=
  let was := (l.core c).run
  let l := l.on (·.write (TZ_TRCc_CTRL c) v)
  let en := l.toNode.flag (TZ_TRCc_CTRL_EN c)
  let l :=
    if en && !was then l.trcEnable c
    else if !en && was then
      let l := if (l.core c).lp then l else l.trcCounts c
      l.setCore c { l.core c with run := false }
    else l
  l.trcStatus c

/-- The audit taps of one L-SAP cycle are over. -/
def Leaf.auditPorts (l : Leaf) (w r : Bool) : Leaf := { l with trace := { l.trace with audW := w, audR := r } }

/-- One L-SAP cycle of the buffer's write port (R134): an audit staging write comes first, then the oldest FIFO head enters its partition; a
cycle in which a trace write waited is counted. -/
def Leaf.tracePort (l : Leaf) : Leaf :=
  let busy := l.trace.audW
  let l := l.auditPorts false false
  let want := numsWhere 4 (fun c => !(l.core c).fifo.isEmpty)
  let age : Nat → Nat := fun c => match (l.core c).fifo with
    | [] => 0
    | p :: _ => p.at_
  match want with
  | [] => l
  | c0 :: r =>
    if busy then l.count TZ_TRC_CONFLICT_COUNT
    else
    let c := r.foldl (fun a b => if age b < age a then b else a) c0
    let l := if r.isEmpty then l else l.count TZ_TRC_CONFLICT_COUNT
    let x := l.core c
    match x.fifo with
    | [] => l
    | p :: rest =>
      let l := l.setCore c { x with fifo := rest, buf := x.buf ++ [p] }
      (l.inc (TZ_TRCc_BYTES_COUNT c) p.bytes.length).trcStatus c

/-- The packets of a chunk: whole packets up to 64 bytes; none at or behind a SYNC stamped before the step while it has
not come (R129, R139). -/
def chunkOf (stepped : Bool) (room : Nat) (l : List TrcPkt) : List TrcPkt × List TrcPkt :=
  match l with
  | [] => ([], [])
  | p :: r =>
    let waits := match p.sync with
      | some s => s.qual == .preStep && !stepped
      | none => false
    if waits || decide (p.bytes.length > room) then ([], p :: r)
    else
      let (a, b) := chunkOf stepped (room - p.bytes.length) r
      (p :: a, b)

/-- A packet as the drain sends it: a SYNC stamped before the step is corrected (R129). -/
def TrcPkt.sent (p : TrcPkt) (delta : Int) : List Byte :=
  match p.sync with
  | some s =>
    if s.qual = .preStep then
      let c := s.corrected delta
      overwrite (overwrite p.bytes 1 (byte c.qual.code)) 2 (twBytes c.t)
    else p.bytes
  | none => p.bytes

/-- The drain reads a chunk of the next core that has one and hands it to C6 (R134, R139); it waits while C6 cannot take
it (R158), and for a cycle, which is counted, where an audit staging read has the port. -/
def Leaf.traceDrain (l : Leaf) : Leaf :=
  let st := l.toNode.stepped
  let chunk := fun c => chunkOf st 64 (l.core c).buf
  match ((List.range 4).map (fun k => (l.trace.next + k) % 4)).find? (fun c => !(chunk c).1.isEmpty) with
  | none => l
  | some c =>
    if l.trace.audR then (l.auditPorts l.trace.audW false).count TZ_TRC_CONFLICT_COUNT
    else
    let (a, b) := chunk c
    let body := byte c ++ zeros 3 ++ (a.map (fun p => p.sent l.toNode.delta)).flatten
    let r : Rec := { kind := 9, cls := 6, body := body, stamp := ⟨l.toNode.now, .locked⟩, stampAt := 0, qualAt := none, crcTail := false }
    match l.toNode.offer 6 r none with
    | (false, _) => l
    | (true, n) =>
      let l : Leaf := { l with toNode := n }
      let l := l.setCore c { l.core c with buf := b }
      ({ l with trace := { l.trace with next := (c + 1) % 4 } } : Leaf).trcStatus c

/-- The L-SAP reset empties the buffer; every enabled core restarts with a SYNC with REASON 1 (R135). Its registers are at
reset, so no core is enabled by them (R136). -/
def Leaf.traceReset (l : Leaf) : Leaf :=
  { l with trace := { TraceUnit.reset with cores := (List.range 4).foldl (fun t c =>
      t.set (fun _ => TrcCore.reset) c { TrcCore.reset with lp := (l.core c).lp }) [] } }

end Sys2Proof.Machine
end

