-- ==== Sys2Proof/Machine/Tap.lean ====
section
/-! DEFINITION. The leaf's audit tap: descriptors, selection, fetching, results, replay and weight digests
(spec/13_audit.md, R316 to R327, R333, R340, R348). -/

namespace Sys2Proof.Machine

def Leaf.onTap (l : Leaf) (f : AuditTap → AuditTap) : Leaf := { l with tap := f l.tap }

/-- RETAIN_US as a time, in 2^-32 ns. -/
def Leaf.retain (l : Leaf) : Nat := l.toNode.g TZ_AUD_RETAIN_US * 1000 * fracPerNs

/-- The fetch window and the replay scratch base (R324, R333). -/
def Leaf.winLo (l : Leaf) : Nat := l.toNode.g TZ_AUD_WIN_LO_H_LO_47_32_ * 2 ^ 32 + l.toNode.g TZ_AUD_WIN_LO_L_LO_31_0_
def Leaf.winHi (l : Leaf) : Nat := l.toNode.g TZ_AUD_WIN_HI_H_HI_47_32_ * 2 ^ 32 + l.toNode.g TZ_AUD_WIN_HI_L_HI_31_0_
def Leaf.scratch (l : Leaf) : Nat := l.toNode.g TZ_AUD_RPL_H_BASE_47_32_ * 2 ^ 32 + l.toNode.g TZ_AUD_RPL_L_BASE_31_0_

/-- A Ring log record of the tap (R348). -/
def Leaf.tapLog (l : Leaf) (event engine reason seq count : Nat) : Leaf :=
  l.log 0x09 (byte event ++ byte engine ++ byte reason ++ zeros 1 ++ le 4 seq ++ le 4 (min count (2 ^ 32 - 1)))

/-- Status bits of the tap follow its state (Table 13.13). -/
def Leaf.tapStatus (l : Leaf) : Leaf :=
  ((l.s TZ_AUD_STAT_BUSY (b2n l.tap.cur.isSome)).s TZ_AUD_STAT_REPLAY (b2n l.tap.replay.isSome)).s TZ_AUD_STAT_QDEPTH l.tap.queue.length

/-- The ABANDON record of a pending abandon. -/
def Abandon.toRec (a : Abandon) (node : Nat) : Rec :=
  auditRec a.stamp 0x53 false a.engine node (le 4 a.seq ++ le 4 a.tile ++ byte a.reason ++ zeros 1 ++ le 2 (min a.count 0xFFFF))

/-- Hands audit records to C3 while it takes them: the outbox, then pending abandons, each of which the Ring log keeps
(R323, R348). -/
def Leaf.tapPump (fuel : Nat) (l : Leaf) : Leaf :=
  match fuel with
  | 0 => l
  | m + 1 =>
    if l.sapHeld then l else match l.tap.outbox, l.tap.abandons with
    | r :: rest, _ =>
      match l.toNode.offer 3 r none with
      | (true, n) => Leaf.tapPump m ({ l with toNode := n } |>.onTap (fun t => { t with outbox := rest }))
      | (false, _) => l
    | [], a :: rest =>
      match l.toNode.offer 3 (a.toRec l.toNode.src) none with
      | (true, n) =>
        Leaf.tapPump m (({ l with toNode := n } |>.onTap (fun t => { t with abandons := rest })).tapLog 1 a.engine a.reason a.seq a.count)
      | (false, _) => l
    | [], [] => l

/-- A record joins the outbox. -/
def Leaf.tapSend (l : Leaf) (r : Rec) : Leaf := (l.onTap (fun t => { t with outbox := t.outbox ++ [r] })).tapPump 64

/-- A pending abandon of the same engine and reason counts one more; else a new one is pending (R323). -/
def addAbandon (l : List Abandon) (a : Abandon) : List Abandon :=
  match l with
  | [] => [a]
  | x :: r => if x.engine = a.engine ∧ x.reason = a.reason then { x with count := x.count + 1 } :: r else x :: addAbandon r a

/-- A selection ends as an ABANDON (R323). -/
def Leaf.abandon (l : Leaf) (desc : List Byte) (st : Stamp) (seq reason : Nat) : Leaf :=
  let a : Abandon := ⟨dEngine desc, reason, st, seq, dTileSeq desc, 1⟩
  ((l.count TZ_AUD_ABANDON_COUNT).onTap (fun t => { t with abandons := addAbandon t.abandons a })).tapPump 64

/-! ### Fetching (R325) -/

/-- The aligned 64-byte units that cover a run. -/
def unitsOf (r : Nat × Nat) : List Nat :=
  if r.2 = 0 then [] else (List.range ((r.1 + r.2 - 1) / 64 - r.1 / 64 + 1)).map (fun i => r.1 / 64 + i)

/-- A list without a repeat of the entry just before. -/
def dedup (l : List Nat) : List Nat :=
  match l with
  | [] => []
  | [x] => [x]
  | x :: y :: r => if x = y then dedup (y :: r) else x :: dedup (y :: r)

/-- A fetch of runs, its units in order. -/
def Fetch.of (w : FetchFor) (runs : List (Nat × Nat)) (st : Stamp) : Fetch :=
  let u := dedup (runs.map unitsOf).flatten
  { what := w, todo := u, out := [], got := [], count := u.length, issued := 0, lastAt := 0, sent := 0, start := st }

/-- Whether a run's units have all returned, and its bytes. -/
def Fetch.has (f : Fetch) (r : Nat × Nat) : Bool := (unitsOf r).all (fun u => !(f.got.get (fun _ => []) u).isEmpty)
def Fetch.run (f : Fetch) (r : Nat × Nat) : List Byte :=
  (((unitsOf r).map (fun u => f.got.get (fun _ => []) u)).flatten.drop (r.1 % 64)).take r.2

/-- Whether every read has returned. -/
def Fetch.done (f : Fetch) : Bool := f.todo.isEmpty && f.out.isEmpty

/-- The scratch output of a replay that the engine has completed is fetched, once nothing else is (R333). -/
def Leaf.replayFetch (l : Leaf) : Leaf :=
  match l.tap.replay, l.tap.cur, l.tap.fetch with
  | some s, none, none =>
    if l.tap.ran then l.onTap (fun t => { t with fetch := some (Fetch.of .replay (dOutRuns s.desc l.scratch (dOutRow s.desc)) l.toNode.stamp) }) else l
  | _, _, _ => l

/-- Whether L-SAP or L-HOST is in reset or without a clock: no fetch begins. -/
def Leaf.fetchHeld (l : Leaf) : Bool := l.sapHeld || bitOf l.boot.held 3 || bitOf l.boot.failed 4

/-- Work on the next selected sample begins when nothing else is being fetched, a completed replay first (R323, R325, R333): the SAMPLE
record goes ahead of its DATA. Without staging it is an ABANDON. -/
def Leaf.tapNext (fuel : Nat) (l : Leaf) : Leaf :=
  match fuel with
  | 0 => l
  | m + 1 =>
    if l.fetchHeld then l.tapStatus
    else
    let l := l.replayFetch
    match l.tap.queue, l.tap.cur, l.tap.fetch with
    | s :: rest, none, none =>
      let l := l.onTap (fun t => { t with queue := rest })
      if l.toNode.g TZ_TRC_BUF_AUD = 0 then Leaf.tapNext m (l.abandon s.desc s.stamp s.seq 5)
      else
        let runs := dOutRuns s.desc (dOutAddr s.desc) (dOutLd s.desc) ++ dOperands s.desc
        let l := l.onTap (fun t => { t with cur := some s, fetch := some (Fetch.of .sample runs s.stamp) })
        (l.tapSend (auditRec s.stamp 0x50 false (dEngine s.desc) l.toNode.src
          (le 4 s.seq ++ s.desc ++ s.ctx ++ le 4 (runBytes (dOperands s.desc))))).tapStatus
    | _, _, _ => l.tapStatus

/-- The sample being worked on ends as an ABANDON. -/
def Leaf.endSample (l : Leaf) (reason : Nat) : Leaf :=
  match l.tap.cur with
  | none => l
  | some s => ((l.onTap (fun t => { t with cur := none, fetch := none })).abandon s.desc s.stamp s.seq reason).tapNext 20

/-- Operand bytes in the staging region: received, and not yet taken by the packer as DATA (R325). -/
def Leaf.staged (l : Leaf) : Nat :=
  match l.tap.fetch, l.tap.cur with
  | some f, some s =>
    let have_ := (dedup ((dOperands s.desc).map unitsOf).flatten).filter (fun u => !(f.got.get (fun _ => []) u).isEmpty)
    let waiting := l.tap.outbox.foldl (fun a r => if field r.body 16 1 = 0x51 then a + (r.body.length - 32) else a) 0
    64 * have_.length - f.sent + waiting
  | _, _ => 0

/-- The next read leaves, when staging has room, fewer than 16 are outstanding and GAP cycles have passed (R325, R456). -/
def Leaf.fetchIssue (l : Leaf) : Leaf :=
  match l.tap.fetch with
  | none => l
  | some f =>
    match f.todo with
    | [] => l
    | u :: rest =>
      let full := f.what == .sample && decide (l.staged + 64 > l.toNode.g TZ_TRC_BUF_AUD * 4096)
      if full || decide (f.out.length ≥ 16) || (f.issued != 0 && decide (l.toNode.ns < f.lastAt + l.toNode.g TZ_AUD_CTRL_GAP)) then l
      else match lowest 16 (fun i => !f.out.any (fun o => o.1 == i)) with
        | none => l
        | some id =>
          let l := l.onTap (fun t => { t with
            fetch := some { f with todo := rest, out := f.out ++ [(id, u)], issued := f.issued + 1, lastAt := l.toNode.ns } })
          l.emit (.word "af_ar" (le 6 (64 * u) ++ byte id))

/-- DATA records of the operand bytes at hand: 4,096 bytes each, the rest when the sample is whole (Table 13.4). -/
def Leaf.dataRecords (fuel : Nat) (l : Leaf) (s : Sample) (bytes : List Byte) (off : Nat) (whole : Bool) : Leaf :=
  match fuel with
  | 0 => l
  | m + 1 =>
    if bytes.isEmpty || (!whole && decide (bytes.length < 4096)) then l
    else
      let c := bytes.take 4096
      let l := (l.auditPorts l.trace.audW true).tapSend (auditRec s.stamp 0x51 false (dEngine s.desc) l.toNode.src (le 4 s.seq ++ le 4 off ++ c))
      let l := l.onTap (fun t => { t with fetch := t.fetch.map (fun f => { f with sent := off + c.length }) })
      Leaf.dataRecords m l s (bytes.drop 4096) (off + c.length) whole

/-- A fetch response (R325, R456): an error ends the sample as FETCH_ERR; data is staged, and whole operand bytes leave as
DATA. An error in a replay's scratch leaves it as not completed, one in a digest ends that pass (log entry 91). -/
def Leaf.fetchResponse (l : Leaf) (id : Nat) (data : List Byte) (err : Bool) : Leaf :=
  match l.tap.fetch with
  | none => l
  | some f =>
    match f.out.find? (fun o => o.1 == id) with
    | none => l
    | some (_, u) =>
      let f := { f with out := f.out.filter (fun o => o.1 != id), got := f.got.set (fun _ => []) u ((data ++ zeros 64).take 64) }
      let l := l.onTap (fun t => { t with fetch := some f })
      match f.what, l.tap.cur with
      | .sample, some s =>
        if err then l.endSample 7
        else
          let l := l.auditPorts true l.trace.audR
          let ready := (dOperands s.desc).takeWhile f.has
          let bytes := (ready.map f.run).flatten
          l.dataRecords 4096 s (bytes.drop f.sent) f.sent f.done
      | _, _ => if err then (l.onTap (fun t => { t with fetch := none, ran := t.ran && f.what != .replay })).tapNext 20 else l

/-! ### Descriptors and selection (R316 to R324) -/

/-- Whether a tile's bytes and its replay output lie in the window (R324). -/
def Leaf.inWindow (l : Leaf) (d : List Byte) : Bool :=
  runsInside (dOutRuns d (dOutAddr d) (dOutLd d) ++ dOperands d ++ dOutRuns d l.scratch (dOutRow d)) l.winLo l.winHi

/-- The threshold of an engine and its boost count after a descriptor (R321). -/
def Leaf.threshold (l : Leaf) (e : Nat) : Nat × Leaf :=
  match l.tap.boost.get (fun _ => (0, 0)) e with
  | (_, 0) => (l.toNode.g TZ_AUD_THRESH_THRESH, l)
  | (t, k + 1) => (t, l.onTap (fun x => { x with boost := x.boost.set (fun _ => (0, 0)) e (if k = 0 then (0, 0) else (t, k)) }))

/-- A descriptor on the Audit Tap Port (R316 to R324): accepted, stamped and counted, checked, and selected by its hash. The order among several
reasons to abandon it is log entry 141; 16 samples wait at most, beside the one in work (log entry 223). -/
def Leaf.descriptor (l : Leaf) (desc ctx : List Byte) : Leaf :=
  let desc := (desc ++ zeros 64).take 64
  let ctx := (ctx ++ zeros 16).take 16
  let st := l.toNode.stamp
  let l := l.count TZ_AUD_DESC_COUNT
  let bad := dBad desc
  let l := if bad then l.count TZ_AUD_REJECT_COUNT else l
  let e := dEngine desc
  let (th, l) := l.threshold e
  let n := l.toNode
  let h := auditHash l.tap.seed (n.g TZ_NODE_ADDR) e (dTileSeq desc)
  let sel := n.flag TZ_NODE_VALID && n.flag TZ_AUD_STAT_CFG && n.flag TZ_AUD_CTRL_EN
    && (decide (h / 2 ^ 32 < th) || th == 0xFFFFFFFF)
  if !sel then l
  else
    let l := l.count TZ_AUD_SEL_COUNT
    let none_ := 0xFFFFFFFF
    if bad then l.abandon desc st none_ 2
    else if !n.flag TZ_AUD_CTRL_LOCK then l.abandon desc st none_ 6
    else if !l.inWindow desc then l.abandon desc st none_ 3
    else if l.tap.queue.length ≥ 16 then l.abandon desc st none_ 1
    else
      let seq := (l.tap.sseq + 1) % 2 ^ 32
      let l := l.onTap (fun t => { t with sseq := seq, queue := t.queue ++ [⟨desc, ctx, st, seq⟩] })
      (l.s TZ_AUD_SSEQ_SEQ seq).tapNext 20

/-- Retention of the sample in work, or of the first waiting one, has passed with reads not back (R325). -/
def Leaf.retention (l : Leaf) : Leaf :=
  let late := fun (s : Sample) => decide (l.toNode.now > s.stamp.t + l.retain)
  match l.tap.cur, l.tap.fetch with
  | some s, some f => if late s && !f.done then l.endSample 4 else l
  | _, _ => match l.tap.queue with
    | s :: rest => if late s then (l.onTap (fun t => { t with queue := rest })).abandon s.desc s.stamp s.seq 4 else l
    | [] => l

/-! ### Replay (R333) -/

/-- A RESULT record. -/
def Leaf.resultRec (l : Leaf) (s : Sample) (kind status : Nat) (summary : List Byte) : Rec :=
  auditRec s.stamp 0x52 false (dEngine s.desc) l.toNode.src (le 4 s.seq ++ byte kind ++ byte status ++ zeros 2 ++ summary)

/-- The answer to a REPLAY without a completed run. -/
def Leaf.replayAnswer (l : Leaf) (s : Sample) (status : Nat) : Leaf :=
  (l.tapSend (l.resultRec s 1 status [])).tapLog 3 (dEngine s.desc) status s.seq 0

/-- The next waiting REPLAY starts (R333): answered at once as EXPIRED, REFUSED or NO_SCRATCH, or presented on the Replay
Port. The T_DESC of a sample that has left the table is a free value (log entry 91). -/
def Leaf.replayNext (fuel : Nat) (l : Leaf) : Leaf :=
  match fuel with
  | 0 => l
  | m + 1 =>
    match l.tap.replays, l.tap.replay with
    | q :: rest, none =>
      let l := l.onTap (fun t => { t with replays := rest })
      match l.tap.table.find? (fun s => s.seq == q) with
      | none =>
        let (t, l) := l.draw 96
        let blank : Sample := ⟨zeros 7 ++ byte 0xFF ++ zeros 56, zeros 16, { l.toNode.stamp with t := t }, q⟩
        Leaf.replayNext m (l.replayAnswer blank 1)
      | some s =>
        let d := s.desc
        if l.toNode.now + 100000 * fracPerNs > s.stamp.t + l.retain then Leaf.replayNext m (l.replayAnswer s 1)
        else if dNoReplay d then Leaf.replayNext m (l.replayAnswer s 2)
        else if l.toNode.g TZ_AUD_RPL_LEN_BYTES < dM d * dOutRow d then Leaf.replayNext m (l.replayAnswer s 3)
        else
          let pd := overwrite (overwrite d 36 (le 6 l.scratch)) 54 (le 3 (dOutRow d))
          let l := (l.onTap (fun t => { t with replay := some s, ran := false })).count TZ_AUD_REPLAYS_COUNT
          ((l.emit (.word "rp" pd)).tapLog 2 (dEngine d) 0 s.seq 0).tapStatus
    | _, _ => l.tapStatus

/-- A REPLAY command arrives (R333). -/
def Leaf.replayCmd (l : Leaf) (seq : Nat) : Leaf := (l.onTap (fun t => { t with replays := t.replays ++ [seq] })).replayNext 20

/-- The engine reports completion (R333, R457): DONE makes the leaf fetch the scratch output once its fetch path is free, REFUSED is
answered. -/
def Leaf.replayDone (l : Leaf) (refused : Bool) : Leaf :=
  match l.tap.replay with
  | none => l
  | some s =>
    if l.tap.ran then l
    else if refused then ((l.onTap (fun t => { t with replay := none })).replayAnswer s 2).replayNext 20
    else (l.onTap (fun t => { t with ran := true })).tapNext 20

/-- A replay not completed by T_DESC + RETAIN_US is answered EXPIRED (R333). -/
def Leaf.replayExpire (l : Leaf) : Leaf :=
  match l.tap.replay with
  | none => l
  | some s =>
    if l.toNode.now > s.stamp.t + l.retain ∧ !l.tap.ran then ((l.onTap (fun t => { t with replay := none })).replayAnswer s 1).replayNext 20
    else l

/-- RESULT (R326, R333): with every read back, the summary of the sample or of the replay is formed and sent. -/
def Leaf.result (l : Leaf) : Leaf :=
  match l.tap.fetch with
  | none => l
  | some f =>
    if !f.done then l
    else match f.what, l.tap.cur, l.tap.replay with
      | .sample, some s, _ =>
        let rows := (dOutRuns s.desc (dOutAddr s.desc) (dOutLd s.desc)).map f.run
        let l := l.tapSend (l.resultRec s 0 0 ((summaryOf s.desc rows).bytes (dClassB s.desc)))
        let tab := l.tap.table ++ [s]
        (l.onTap (fun t => { t with cur := none, fetch := none, table := tab.drop (tab.length - 16) })).tapNext 20
      | .replay, _, some s =>
        let rows := (dOutRuns s.desc l.scratch (dOutRow s.desc)).map f.run
        let l := l.tapSend (l.resultRec s 1 0 ((summaryOf s.desc rows).bytes (dClassB s.desc)))
        let l := (l.onTap (fun t => { t with replay := none, ran := false, fetch := none })).tapLog 3 (dEngine s.desc) 0 s.seq 0
        (l.replayNext 20).tapNext 20
      | _, _, _ => l

/-! ### Commands and settings (R322, R324) -/

/-- CONFIG (R322, R327). -/
def Leaf.audConfig (l : Leaf) (thresh seed : Nat) : Leaf :=
  let l := (l.s TZ_AUD_THRESH_THRESH thresh).s TZ_AUD_STAT_CFG 1
  (l.onTap (fun t => { t with seed := seed % 2 ^ 64 })).tapLog 4 0xFF 0 0 thresh

/-- BOOST (R322, R327); TILES = 0 ends the boost. -/
def Leaf.audBoost (l : Leaf) (engine thresh tiles : Nat) : Leaf :=
  let e := engine % 256
  let v := if tiles % 2 ^ 32 = 0 then (0, 0) else (thresh % 2 ^ 32, tiles % 2 ^ 32)
  (l.onTap (fun t => { t with boost := t.boost.set (fun _ => (0, 0)) e v })).tapLog 5 e 0 0 tiles

/-- A write of 1 to LOCK (R324, R348). -/
def Leaf.audLock (l : Leaf) : Leaf :=
  if l.toNode.flag TZ_AUD_CTRL_LOCK then l else (l.s TZ_AUD_CTRL_LOCK 1).tapLog 0 0xFF 0 0 0

/-- A write of EN: EN falling during a sample ends it as DISABLED (R325). -/
def Leaf.audEn (l : Leaf) (v : Bool) : Leaf :=
  let l := l.s TZ_AUD_CTRL_EN (b2n v)
  if v then l else l.endSample 8

/-! ### Weight digests (R340) -/

/-- The region of a slot. -/
def Leaf.wRegion (l : Leaf) (r : Nat) : Nat × Nat :=
  (l.toNode.g (TZ_AUD_WRr_BASE_H_BASE_47_32_ r) * 2 ^ 32 + l.toNode.g (TZ_AUD_WRr_BASE_L_BASE_31_0_ r),
   l.toNode.g (TZ_AUD_WRr_LEN_H_LEN_39_32_ r) * 2 ^ 32 + l.toNode.g (TZ_AUD_WRr_LEN_L_LEN_31_0_ r))

/-- A write to any register of a slot: EPOCH advances and the pass restarts (R340). -/
def Leaf.wSlotWrite (l : Leaf) (r : Nat) : Leaf :=
  let l := l.s (TZ_AUD_WRr_EPOCH_EPOCH r) (l.toNode.g (TZ_AUD_WRr_EPOCH_EPOCH r) + 1)
  (l.onTap (fun t => { t with
    wdue := t.wdue.set (fun _ => none) r none
    fetch := match t.fetch with | some f => if f.what = .digest r then none else some f | none => none })).tapNext 20

/-- The pass of a slot (R340): started when due, after pending samples; a region outside the window sets ERR; a finished pass
sends WDIGEST. -/
def Leaf.wdigest (l : Leaf) (r : Nat) : Leaf :=
  let n := l.toNode
  let sec := n.now / fracPerNs / nsPerSec
  let reg := l.wRegion r
  if !n.flag (TZ_AUD_WRr_CTRL_EN r) then l
  else match l.tap.fetch with
    | some f =>
      if f.what = .digest r ∧ f.done then
        let st := n.stamp
        let body := le 4 (n.g (TZ_AUD_WRr_ID_REGION_ID r)) ++ le 2 (n.g (TZ_AUD_WRr_EPOCH_EPOCH r)) ++ byte r ++ zeros 1 ++ le 8 reg.2
          ++ le 8 (crcOf 3 (f.run reg)) ++ twBytes f.start.t
        ((l.onTap (fun t => { t with fetch := none })).tapSend (auditRec st 0x54 false 0xFF n.src body)).tapNext 20
      else l
    | none =>
      let due := match l.tap.wdue.get (fun _ => none) r with
        | none => true
        | some d => decide (d ≤ sec)
      if !due || !l.tap.queue.isEmpty || l.tap.cur.isSome then l
      else if !runsInside [reg] l.winLo l.winHi then l.s (TZ_AUD_WRr_CTRL_ERR r) 1
      else
        let l := l.s (TZ_AUD_WRr_CTRL_ERR r) 0
        l.onTap (fun t => { t with
          fetch := some (Fetch.of (.digest r) [reg] n.stamp)
          wdue := t.wdue.set (fun _ => none) r (some (sec + max 1 (n.g (TZ_AUD_WRr_CTRL_PERIOD_S r)))) })

/-- The L-SAP reset: a sample in work ends as RESET (R325); a replay or digest in the fetch path stops. -/
def Leaf.tapSapReset (l : Leaf) : Leaf :=
  let l := if (l.tap.fetch.map (·.what)) = some .replay then l.onTap (fun t => { t with ran := false }) else l
  ((l.onTap (fun t => { t with fetch := none })).endSample 9).tapNext 20

end Sys2Proof.Machine
end

