-- ==== Sys2Proof/Machine/LeafPort.lean ====
section
/-! DEFINITION. The leaf's window: what a read of each register returns, and what a write to it does, whoever makes it
(R8 to R12, and the register tables of chapters 2 to 8, 13, 15, 16, 18, 19); CRC units (R160 to R163), packer settings
(R162), Ring log reading (R173), interrupts (R454) and the Register Port (R448). -/

namespace Sys2Proof.Machine

/-- The index of an offset in a family of registers. -/
def famIx (off base stride count : Nat) : Option Nat :=
  if base ≤ off ∧ (off - base) % stride = 0 ∧ (off - base) / stride < count then some ((off - base) / stride) else none

/-! ### Time registers, of a leaf or a crown (R33, R53, R58, R59) -/

/-- Word `i` of a time word: FRAC, NSEC, SEC_LO, SEC_HI. -/
def timeWord (t i : Nat) : Nat :=
  match i with
  | 0 => t % 2 ^ 32
  | 1 => t / fracPerNs % nsPerSec
  | 2 => t / fracPerNs / nsPerSec % 2 ^ 32
  | _ => t / fracPerNs / nsPerSec / 2 ^ 32 % 2 ^ 32

/-- A word of the head entry of a capture FIFO; 0 when it is empty (R53). -/
def capWord (q : List CapEntry) (i : Nat) : Nat :=
  match q with
  | [] => 0
  | e :: _ =>
    if i = 0 then (timeWord e.stamp.t 0 / 256) * 256 + 8 + 4 * b2n e.ovfBefore + e.stamp.qual.code else timeWord e.stamp.t i

/-- What a time register computed from the unit reads as; none for one that is stored. -/
def Node.timeView (n : Node) (off priv : Nat) : Option Nat :=
  if off < n.tb then none
  else match off - n.tb with
    | 0 => some (timeWord n.now 0)
    | 4 => some (timeWord (n.time.latch.get (fun _ => 0) priv) 1)
    | 8 => some (timeWord (n.time.latch.get (fun _ => 0) priv) 2)
    | 12 => some (timeWord (n.time.latch.get (fun _ => 0) priv) 3)
    | 0x84 => some (n.g (TIME_CAP_STAT_OVF n.tb) * 256 + n.capAvail)
    | r =>
      if 0xC0 ≤ r ∧ r < (if n.crown then 0xD0 else 0x140) then some (capWord (n.capFifo ((r - 0xC0) / 16)) (r % 16 / 4)) else none

/-- What a read of a time register does: NOW0 latches the word, W3 removes the head entry (R33, R53). -/
def Node.timeReadEffect (n : Node) (off priv : Nat) : Node :=
  if off = n.tb then n.captureNow priv
  else if off < n.tb + 0xC0 then n
  else
    let r := off - n.tb - 0xC0
    if r < (if n.crown then 0x10 else 0x80) ∧ r % 16 = 12 then n.capPop (r / 16) else n

/-- A write to the capture control (R52): an input whose EN rises sees its next sample as the first. A crown has input 0 alone (R53). -/
def Node.capCtrlWrite (n : Node) (v : Nat) : Node :=
  let was := n.g (TIME_CAP_CTRL_EN n.tb)
  let n := n.write (n.tb + 0x80) (if n.crown then v &&& 0x101 else v)
  let now := n.g (TIME_CAP_CTRL_EN n.tb)
  (List.range 8).foldl (fun (n : Node) i =>
    if bitOf now i && !bitOf was i then { n with time := { n.time with level := n.time.level.set (fun _ => none) i none } } else n) n

/-! ### Ring log registers, of a leaf (R167, R169, R173) -/

/-- RLOG_READ (R173): a write of a SEQ copies one record into the window with its RESULT; a request that PRIV.READ refuses
has no effect. -/
def Leaf.rlogRead (l : Leaf) (seq priv : Nat) : Leaf :=
  if !bitOf (l.toNode.g TZ_RLOG_PRIV_READ) priv then l
  else
    let (r, e) := l.toNode.ringRead seq
    let bytes := match e with
      | none => []
      | some x => x.bytes
    let l := (l.s TZ_RLOG_RD_SEQ_SEQ seq).on (fun n => { n with ring := { n.ring with window := bytes } })
    ((l.s TZ_RLOG_RD_STAT_BUSY 0).s TZ_RLOG_RD_STAT_RESULT r).s TZ_RLOG_RD_STAT_LEN bytes.length

/-! ### CRC units (R160, R161) -/

/-- A CRC unit. -/
def Leaf.crcUnit (l : Leaf) (u : Nat) : CrcUnit := l.crc.get CrcUnit.reset u

/-- START (R161): POLY is sampled, the initial value loaded, COUNT cleared. -/
def Leaf.crcStart (l : Leaf) (u : Nat) : Leaf :=
  let p := l.toNode.g (TZ_CRCu_CTRL_POLY u)
  let l : Leaf := { l with crc := l.crc.set CrcUnit.reset u ⟨p, crcInit p⟩ }
  l.s (TZ_CRCu_COUNT_COUNT u) 0

/-- A write to CRC DATA (R161): NBYTES bytes, DATA[7:0] first; NBYTES of 0 or above 4 acts as 4. -/
def Leaf.crcData (l : Leaf) (u v : Nat) : Leaf :=
  let nb := l.toNode.g (TZ_CRCu_CTRL_NBYTES u)
  let nb := if nb = 0 ∨ nb > 4 then 4 else nb
  let x := l.crcUnit u
  let l : Leaf := { l with crc := l.crc.set CrcUnit.reset u { x with run := (le nb v).foldl (crcFeed x.poly) x.run } }
  l.inc (TZ_CRCu_COUNT_COUNT u) nb

/-- The CRC a unit shows (R161). -/
def Leaf.crcResult (l : Leaf) (u : Nat) : Nat := crcFinal (l.crcUnit u).poly (l.crcUnit u).run

/-! ### Packer settings (R162) -/

/-- A write to TZ_SAPQk_CTRL (R162): its write to QSIZE is refused, with CFG_ERR, while the packer is enabled or when ΣQSIZE would exceed 256;
COMP reads 0 for the strict classes. A new QSIZE may let waiting records in, and moves FILL's quarter (R157, R158). -/
def Leaf.queueCtrl (l : Leaf) (k v : Nat) : Leaf :=
  let n := l.toNode
  let old := n.g (TZ_SAPQk_CTRL_QSIZE k)
  let new := v % 256
  let sum := (List.range 8).foldl (fun a i => a + if i = k then new else n.g (TZ_SAPQk_CTRL_QSIZE i)) 0
  let refuse := n.flag TZ_SAP_PK_CTRL_EN || sum > 256
  let l := l.on (·.write (TZ_SAPQk_CTRL k) v)
  let l := if k < 3 then l.s (TZ_SAPQk_CTRL_COMP k) 0 else l
  if refuse then (l.s (TZ_SAPQk_CTRL_QSIZE k) old).s TZ_SAP_PK_STAT_CFG_ERR 1 else l.on (fun n => (n.letIn k).watchFill k)

/-! ### Interrupts (R454) -/

/-- TZ_IRQ_SRC (Table 18.6). -/
def Leaf.irqSrc (l : Leaf) : Nat :=
  let n := l.toNode
  b2n (n.flag TZ_JOB_STAT_PEND) + 2 * b2n n.tfault + 4 * b2n (n.capAvail != 0) + 8 * b2n (n.g (TIME_CAP_STAT_OVF n.tb) != 0)
    + 16 * b2n (n.flag TZ_SAP_STATUS_CHAIN_ERR) + 32 * b2n ((List.range 4).any (fun c => n.flag (TZ_TRCc_STAT_LOSS_PEND c)))
    + 64 * b2n ((List.range 8).any (fun g => n.flag (TZ_GRDg_STAT_FENCE g)))
    + 128 * b2n ((List.range 8).any (fun d => n.flag (TZ_VFd_STAT_FAILED d)))

/-- The interrupt outputs, bit n for irq[n] (R454); 0 while L-SAP has failed (Table 19.4). -/
def Leaf.irq (l : Leaf) : Nat :=
  if bitOf l.boot.failed 2 then 0
  else (List.range 4).foldl (fun a i => a + 2 ^ i * b2n (l.irqSrc &&& bitsOf (l.toNode.g TZ_IRQ_ROUTE_ROUTE) (8 * i + 7) (8 * i) != 0)) 0

/-! ### Reads -/

/-- A latched reading of the counter window (R89), whatever WIN_PRIV says of the level (log entry 112). -/
def Leaf.latched (l : Leaf) (priv : Nat) : Reading := l.reader.latch.get (fun _ => Reading.none) priv

/-- FILL and HELD of a class queue (Table 6.11). -/
def Leaf.queueStat (l : Leaf) (k : Nat) : Nat :=
  let c := l.toNode.q k
  c.level * 2 ^ 29 + b2n (c.queue.any (·.held)) * 2 ^ 28 + min c.fill (2 ^ 24 - 1)

/-- A word of the head of the job start FIFO (Table 16.12). -/
def Leaf.jobWord (l : Leaf) (off : Nat) : Nat :=
  match l.boot.fifo with
  | [] => 0
  | j :: _ => if off = 0x24 then j.job else if off < 0x38 then field j.payload (off - 0x28) 4 else timeWord j.stamp ((off - 0x38) / 4)

/-- What a register computed from the units reads as; none for one that is stored. -/
def Leaf.view (l : Leaf) (off priv : Nat) : Option Nat :=
  let n := l.toNode
  let rd := l.latched priv
  if 0x400 ≤ off ∧ off < 0x800 then n.timeView off priv
  else if 0x24 ≤ off ∧ off ≤ 0x44 then some (l.jobWord off)
  else match off with
    | 0x20 => some (n.g TZ_JOB_STAT_PEND * 2 ^ 31 + n.g TZ_JOB_STAT_OVR * 2 ^ 30 + l.boot.armed.length * 8 + l.boot.fifo.length)
    | 0x50 => some l.irqSrc
    | 0x808 => some (n.g TZ_SAP_CHAIN_DLY_SEL * 2 ^ 24 + n.g TZ_SAP_CHAIN_DLY_LOOP * 2 ^ 12 + l.stage (n.g TZ_SAP_CHAIN_DLY_SEL) % 512)
    | 0x814 => some (l.reader.memberWord (n.g TZ_SAP_MEM_ADDR_WORD))
    | 0xB00 => some (b2n rd.valid * 2 ^ 31 + b2n rd.wrap * 2 ^ 30 + rd.epoch % 16 * 2 ^ 26 + rd.stamp.qual.code * 2 ^ 24 + rd.value / 2 ^ 32 % 2 ^ 16)
    | 0xB04 => some (timeWord rd.stamp.t 0)
    | 0xB08 => some (timeWord rd.stamp.t 1)
    | 0xB0C => some (timeWord rd.stamp.t 2)
    | 0xB10 => some (timeWord rd.stamp.t 3)
    | 0x2800 => some n.ring.head
    | 0x2804 => some n.ring.tail
    | 0x2808 => some n.ring.mirrored
    | 0x280C => some (n.opsec % 2 ^ 32)
    | 0x2810 => some (n.ring.latch)
    | 0x2814 => some (b2n n.ring.opbase * 2 ^ 31)
    | 0x3C00 => some (0x1FF - l.boot.failed % 512)
    | 0xC008 => some (if l.heart.up then l.heart.opsec % 2 ^ 32 else 0)
    | 0xC00C => some (if l.heart.up then l.heart.latch else 0)
    | _ =>
      if 0x2C00 ≤ off ∧ off < 0x2E00 then some (if bitOf (n.g TZ_RLOG_PRIV_READ) priv then field n.ring.window (off - 0x2C00) 4 else 0)
      else match famIx off 0x2048 0x40 8 with
        | some k => some (l.queueStat k)
        | none => match famIx off 0x3008 0x20 4 with
          | some u => some (l.crcResult u % 2 ^ 32)
          | none => match famIx off 0x300C 0x20 4 with
            | some u => some (if (l.crcUnit u).poly = 3 then l.crcResult u / 2 ^ 32 else 0)
            | none => match famIx off 0x3914 0x100 2 with
              | some k => some (n.capLocal k)
              | none => if off ≥ 0xC000 ∧ !l.heart.up then some 0 else none

/-- What a read does beside returning a value: latches, pops, RC registers clear (R12, R33, R53, R427). -/
def Leaf.readEffect (l : Leaf) (off priv : Nat) : Leaf :=
  if 0x400 ≤ off ∧ off < 0x800 then (l.on (·.timeReadEffect off priv)).on (·.clearRc off)
  else match off with
    | 0x44 => { l with boot := { l.boot with fifo := l.boot.fifo.drop 1 } }
    | 0x814 => if l.toNode.flag TZ_SAP_MEM_ADDR_AUTOINC then l.s TZ_SAP_MEM_ADDR_WORD ((l.toNode.g TZ_SAP_MEM_ADDR_WORD + 1) % 512) else l
    | 0x280C => l.on (fun n => { n with ring := { n.ring with latch := n.ring.pcc % 2 ^ 24 * 256 + n.opsec / 2 ^ 32 } })
    | 0xC008 => if l.heart.up then l.onHeart (fun h => { h with latch := h.pcc % 2 ^ 24 * 256 + h.opsec / 2 ^ 32 }) else l
    | _ => l.on (·.clearRc off)

/-- A read of the leaf window: the value and the leaf after it (R8, R9, R12). -/
def Leaf.regRead (l : Leaf) (off priv : Nat) : Nat × Leaf :=
  if off % 4 ≠ 0 then (0, l)
  else match famIx off 0x4000 4 4096 with
  | some i => l.windowRead i priv
  | none => ((l.view off priv).getD (l.toNode.read off), l.readEffect off priv)

/-! ### Writes -/

/-- A write to a watch unit's register or a guard register (R98, R99, R102). -/
def Leaf.guardWrite (l : Leaf) (off v priv : Nat) : Leaf :=
  match famIx off 0x1400 4 128 with
  | some i => if i % 4 < 3 then l.writeUnit (i / 4) (i % 4) v else l
  | none => match off with
    | 0x1014 => l.fenceClr (v % 256) priv
    | 0x1018 => l.inject (bitOf v 31) (v % 32) priv
    | 0x1024 => l.vfSoft v
    | _ => match famIx off 0x1100 4 64 with
      | some c => if c < 56 then l.on (·.write off v) else (l.on (·.write off v)).s (TZ_SENc_CFG_SIGNED c) 0
      | none => (l.on (·.write off v)).guardLines

/-- A write to a pulse train's CTRL (R55, R56, R510): settings, the output level that POL gives, ENABLE, then ARM. -/
def Leaf.trainWrite (l : Leaf) (i v : Nat) : Leaf :=
  let l := l.on (fun n =>
    let pol := n.g (TZ_TIME_PTn_CTRL_POL i)
    let n := (n.s (TZ_TIME_PTn_CTRL_FSTOP i) (bitsOf v 3 3)).s (TZ_TIME_PTn_CTRL_POL i) (bitsOf v 2 2)
    let n := if pol = bitsOf v 2 2 then n else n.emit (.word "tm_pulse" (byte i ++ byte (b2n ((n.train i).high != bitOf v 2))))
    if bitOf v 30 then n.s (TZ_TIME_PTn_CTRL_ERR i) 0 else n)
  let l := l.on (·.ptEnable i (bitOf v 0))
  if bitOf v 1 then l.on (·.ptArm i) else l

/-- A write to a register of the audit tap (R324, R325, R340). -/
def Leaf.auditWrite (l : Leaf) (off v : Nat) : Leaf :=
  if off = 0x3400 then
    let l := (l.s TZ_AUD_CTRL_GAP (v % 256)).audEn (bitOf v 31)
    if bitOf v 30 then l.audLock else l
  else if 0x340C ≤ off ∧ off ≤ 0x3428 then (if l.toNode.flag TZ_AUD_CTRL_LOCK then l else l.on (·.write off v))
  else if 0x3500 ≤ off ∧ off < 0x3700 then
    let r := (off - 0x3500) / 0x20
    if (findReg leafTable off).isNone || off % 0x20 = 0x18 then l else (l.on (·.write off v)).wSlotWrite r
  else l.on (·.write off v)

/-- A write to the Heartwood window (R373, R393): nothing while the partition is unpowered. -/
def Leaf.heartWrite (l : Leaf) (off v : Nat) : Leaf :=
  if !l.heart.up || l.toNode.flag HW_MBX_CTRL_BUSY then l
  else if off = 0xC040 then
    (if bitOf v 31 then l.heartCommand ((List.range 128).flatMap (fun i => le 4 (l.toNode.word (HW_MBX_CMD i)).toNat)) else l)
  else l.on (·.write off v)

/-- The reset that scopes the register at an offset is asserted, which keeps the register at its reset value (R481). -/
def Leaf.regHeld (l : Leaf) (off : Nat) : Bool :=
  match findReg leafTable off with
  | none => false
  | some (d, _, _) => match d.scope with
    | .heart => false
    | .lTime => bitOf l.boot.held 1 || bitOf l.boot.held 0
    | .lSap => bitOf l.boot.held 2 || bitOf l.boot.held 0
    | .lane => bitOf l.boot.held (4 + (off - 0x3900) / 0x100) || bitOf l.boot.held 0
    | _ => bitOf l.boot.held 0

/-- A write of the leaf window by any master (R9 to R12): `priv` and `mid` are the writer's. -/
def Leaf.regWrite (l : Leaf) (off v priv mid : Nat) : Leaf :=
  let n := l.toNode
  if off % 4 ≠ 0 ∨ l.regHeld off then l
  else if off ≥ 0xC000 then l.heartWrite off v
  else if 0x1000 ≤ off ∧ off < 0x1800 then l.guardWrite off v priv
  else if 0x3400 ≤ off ∧ off < 0x3800 then l.auditWrite off v
  else match off with
    | 0x480 => l.on (·.capCtrlWrite v)
    | 0x42C => l.on (fun n => (n.write off v).refault)
    | 0x430 => l.on (fun n => (n.write off v).refault)
    | 0x800 =>
      let l := (l.s TZ_SAP_CTRL_WIN_PRIV (bitsOf v 7 4)).sapEn (bitOf v 0)
      if bitOf v 1 then { l with twigs := l.twigs.map (fun e => (e.1, e.2.startFlush)) } else l
    | 0x814 =>
      let w := n.g TZ_SAP_MEM_ADDR_WORD
      let l := (l.onReader (fun r => { r with members := r.members.set memberReset w (v % 2 ^ 32) })).groupApply
      if n.flag TZ_SAP_MEM_ADDR_AUTOINC then l.s TZ_SAP_MEM_ADDR_WORD ((w + 1) % 512) else l
    | 0x900 =>
      if n.flag TZ_TWIG_CFG_ADDR_GO then l
      else if bitOf v 31 then l.cfgGo (bitOf v 30) (bitsOf v 13 6) (bitsOf v 5 0)
      else l.on (·.write off v)
    | 0x904 => if n.flag TZ_TWIG_CFG_ADDR_GO then l else l.on (·.write off v)
    | 0x2820 => l.rlogRead v priv
    | _ => match famIx off 0x540 0x20 4 with
      | some i => l.trainWrite i v
      | none => match famIx off 0x840 4 32 with
        | some _ => (l.on (·.write off v)).groupApply
        | none => match famIx off 0xA04 8 8 with
          | some m => l.marker m (v % 2 ^ 32) priv mid
          | none => match famIx off 0x1840 0x20 4 with
            | some c => l.trcCtrl c v
            | none => match famIx off 0x2040 0x40 8 with
              | some k => l.queueCtrl k v
              | none => match famIx off 0x3000 0x20 4 with
                | some u =>
                  let l := l.on (·.write off v)
                  if bitOf v 8 then l.crcStart u else l
                | none => match famIx off 0x3004 0x20 4 with
                  | some u => l.crcData u v
                  | none => match famIx off 0x3900 0x100 2 with
                    | some k => if !n.hasLane k then l else l.on (·.laneCtrlWrite k v (bitOf l.boot.failed 3))
                    | none => l.on (·.write off v)

/-! ### The Register Port (R447, R448) -/

/-- One request and its one response (R448): MID for master 0xFFFF, ALIGN for an access that is not a whole aligned word,
else OK; with L-SAP failed the port answers without effect and reads 0, but for 0x3C00 to 0x3C0F (Table 19.4). A request
while the port is held in reset is discarded without a response (R481). -/
def Leaf.portRequest (l : Leaf) (write : Bool) (addr be data priv mid : Nat) : Leaf :=
  let answer := fun (l : Leaf) (v code : Nat) => l.emit (.response (BitVec.ofNat 32 v) code)
  if bitOf l.boot.held 3 || bitOf l.boot.held 0 then l
  else if mid = 0xFFFF then answer l 0 2
  else if addr % 4 ≠ 0 ∨ be ≠ 0xF then answer l 0 1
  else if bitOf l.boot.failed 2 && (write || !(0x3C00 ≤ addr && addr ≤ 0x3C0F)) then answer l 0 0
  else if write then answer (l.regWrite addr data priv mid) 0 0
  else
    let (v, l) := l.regRead addr priv
    answer l v 0

end Sys2Proof.Machine
end

