-- ==== Sys2Proof/Machine/LeafBoot.lean ====
section
/-! DEFINITION. A leaf's bring-up, jobs, clock failures and resets (spec/16_bring_up.md R410, R411, R422, R423;
spec/19_clocks_resets.md R477 to R482; spec/06_sap_streams.md R146). -/

namespace Sys2Proof.Machine

/-- A change to the leaf's bring-up state. -/
def Leaf.onBoot (l : Leaf) (f : LeafBoot → LeafBoot) : Leaf := { l with boot := f l.boot }

/-- CONFIGURED and READY (Tables 16.6, 16.12; log entry 27). -/
def Leaf.bootStatus (l : Leaf) : Leaf :=
  let l := l.s TZ_BOOT_STAT_CONFIGURED (b2n (l.boot.lists > 0))
  l.s TZ_BOOT_STAT_READY (b2n (l.toNode.flag TZ_NODE_VALID && l.boot.clean))

/-! ### Configuration NVM (R410, R460) -/

/-- Whether an entry of the NVM image may be applied (R410). -/
def nvmAllowed (off : Nat) : Bool :=
  off % 4 == 0 && ((0x1000 ≤ off && off < 0x1800) || (0x3400 ≤ off && off < 0x3430))

/-- NVM_READ: the image is applied entry by entry, or not at all on a CRC failure, a count above 1,024 or a version the leaf
does not support, which is counted (R7, R410, R460). -/
def Leaf.nvmRead (l : Leaf) (img : List Byte) : Leaf :=
  let nent := field img 0 2
  let body := (img.drop 8).take (8 * nent)
  if !l.boot.nvmPresent then l
  else if field img 2 1 ≠ 1 then l.onBoot (fun b => { b with nvmOther := b.nvmOther + 1 })
  else if nent > 1024 ∨ body.length ≠ 8 * nent ∨ crc32c body ≠ field img 4 4 then l.s TZ_BOOT_STAT_NVM_ERR 1
  else
    let l := (List.range nent).foldl (fun (l : Leaf) i =>
      let off := field body (8 * i) 2
      if nvmAllowed off then l.regWrite off (field body (8 * i + 4) 4) 3 0xFFFF else l.count TZ_BOOT_STAT_NVM_IGN) l
    l.s TZ_BOOT_STAT_NVM_OK 1

/-! ### Number and lists (R411) -/

/-- ASSIGN (R411): sets or, for NONE, withdraws the number, and answers ASSIGN_ACK. -/
def Leaf.assign (l : Leaf) (node gen : Nat) : Leaf :=
  let l := if node = nodeNone then l.s TZ_NODE_VALID 0 else (l.s TZ_NODE_VALID 1).s TZ_NODE_ADDR (node % 2 ^ 18)
  let l := (l.onBoot (fun b => { b with seedGen := gen })).bootStatus
  l.on (·.bulkUp (byte 0x11 ++ zeros 3 ++ le 4 l.boot.seedGen))

/-- Whether an entry of a REG_WRITE list is skipped: outside the leaf window, not a multiple of 4, or in the Heartwood
mailbox (R411). -/
def listSkips (off : Nat) : Bool := off % 4 != 0 || off ≥ 0x10000 || (0xC000 ≤ off && off ≤ 0xFFFF)

/-- REG_WRITE (R411): entries in order with privilege 3 and master 0xFFFF, then REG_DONE. -/
def Leaf.regList (l : Leaf) (seq : Nat) (entries : List (Nat × Nat)) : Leaf :=
  let l := entries.foldl (fun (l : Leaf) e => if listSkips e.1 then l else l.regWrite e.1 e.2 3 0xFFFF) l
  let bad := entries.any (fun e => listSkips e.1)
  let l := (l.onBoot (fun b => { b with lists := b.lists + 1, clean := b.clean && !bad })).bootStatus
  l.on (·.bulkUp (byte 0x13 ++ byte (b2n bad) ++ zeros 2 ++ le 4 seq))

/-! ### Job start (R422, R423) -/

/-- The leaf's own bit in a MASK: its leaf number. -/
def Leaf.ownBit (l : Leaf) : Nat := 2 ^ bitsOf (l.toNode.g TZ_NODE_ADDR) 5 0

/-- JOB_ACK of the leaf (Table 16.9). -/
def Leaf.jobAnswer (l : Leaf) (st job tray : Nat) : Leaf :=
  l.on (·.bulkUp (byte 0x21 ++ byte st ++ zeros 2 ++ le 4 job ++ le 4 tray ++ le 8 (if st = 0 then l.ownBit else 0)))

/-- JOB_ARM at a leaf (R422): LATE, NOTIME, FULL or ARMED, in that order. -/
def Leaf.jobArm (l : Leaf) (job tgo tray : Nat) (payload : List Byte) : Leaf :=
  let n := l.toNode
  if tgo < n.now + 50000 * fracPerNs then l.jobAnswer 1 job tray
  else if !n.stepped then l.jobAnswer 2 job tray
  else if l.boot.armed.length ≥ 4 then l.jobAnswer 3 job tray
  else (l.onBoot (fun b => { b with armed := b.armed ++ [⟨job, tgo, tray, (payload ++ zeros 16).take 16, false⟩] })).jobAnswer 0 job tray

/-- JOB_GO at a leaf (R423): a GO that comes once T_GO has been reached starts nothing. -/
def Leaf.jobGo (l : Leaf) (job : Nat) : Leaf :=
  let now := l.toNode.now
  l.onBoot (fun b => { b with armed := b.armed.map (fun a => if a.job = job ∧ now < a.tgo then { a with go := true } else a) })

/-- JOB_CANCEL at a leaf (R423). -/
def Leaf.jobCancel (l : Leaf) (job : Nat) : Leaf :=
  l.onBoot (fun b => { b with armed := b.armed.filter (fun a => a.job != job) })

/-- JOB_REPORT of the leaf for one job (Table 16.9). -/
def Leaf.jobReport (l : Leaf) (a : Armed) (started : Bool) : Leaf :=
  let bit := l.ownBit
  l.on (·.bulkUp (byte 0x24 ++ zeros 3 ++ le 4 a.job ++ le 4 a.tray ++ le 8 (if started then bit else 0) ++ le 8 (if started then 0 else bit)))

/-- One job whose T_GO has come: started into the FIFO with PEND, or OVR when it is full, or reported MISSED (R423). -/
def Leaf.jobStart (l : Leaf) (a : Armed) : Leaf :=
  if !a.go then l.jobReport a false
  else
    let full := l.boot.fifo.length ≥ 4
    let now := l.toNode.now
    let l := if full then l.s TZ_JOB_STAT_OVR 1
      else l.onBoot (fun b => { b with fifo := b.fifo ++ [⟨a.job, a.payload, now⟩] })
    (l.s TZ_JOB_STAT_PEND 1).jobReport a true

/-- JOB_T_GO (R423): every armed job whose T_GO has been reached, in ascending JOB order. -/
def Leaf.jobTime (l : Leaf) : Leaf :=
  let now := l.toNode.now
  let due := sortBy (fun (a b : Armed) => a.job ≤ b.job) (l.boot.armed.filter (fun a => a.tgo ≤ now))
  let l := l.onBoot (fun b => { b with armed := b.armed.filter (fun a => a.tgo > now) })
  due.foldl Leaf.jobStart l

/-! ### Resets (R481, Table 19.6) -/

/-- POWER_UP (TYPE 0x01): the resets released, BOOT. -/
def Leaf.powerUp (l : Leaf) (bits : Nat) : Leaf := l.log 0x01 (byte bits ++ byte l.toNode.boot ++ zeros 2)

/-- Every unit of the L-SAP reset at reset; BOOT stays (R162). -/
def Leaf.sapUnits (l : Leaf) : Leaf :=
  let boot := l.toNode.boot
  let l := l.traceReset
  let l : Leaf := { l with
    twigs := l.twigs.map (fun e => (e.1, { e.2.sapReset with beats := 0, hold := false })), reader := Reader.reset, crc := [] }
  let l := l.on (fun n => { n.resetRegs .lSap with turn := [], aliveAt := n.ns + 100000, aliveN := 0, rx := [] })
  ((l.on Node.packReset).s TZ_SAP_PK_ALIVE_BOOT boot).tapSapReset

/-- L_SAP_RESET_RELEASE (R61, R85, R146): the units start from reset, BOOT counts the release, Heartwood presents its
unreleased records again (R386). -/
def Leaf.sapRelease (l : Leaf) : Leaf :=
  let l := l.sapUnits
  let l := (l.s TZ_SAP_PK_ALIVE_BOOT ((l.toNode.boot + 1) % 256)).onBoot (fun b => { b with held := putBits b.held 2 2 0 })
  ((((l.powerUp 2).heartAgain).tapPump 64).pumpGuard 80).tapNext 20

/-- The TIME reset at the leaf (R43, R82, R481), told where the packer runs (R46, R151). -/
def Leaf.timeUnits (l : Leaf) : Leaf := (l.on (fun n => (if l.sapHeld then n.timeReset else n.timeResetTold).leafParent)).redue

/-- TIME_RESET_RELEASE at a leaf (R43). -/
def Leaf.timeRelease (l : Leaf) : Leaf :=
  (l.timeUnits.onBoot (fun b => { b with held := putBits b.held 1 1 0 })).powerUp 4

/-- The primary L-HOST reset (R481, R325): a sample in progress ends with RESET, a replay is forgotten. -/
def Leaf.hostUnits (l : Leaf) : Leaf := (l.onTap (fun t => { t with fetch := none, replays := [], replay := none, ran := false })).endSample 9

/-- Registers an L-AON reset leaves: Heartwood's (R373) and the integrator's parameter (Table 8.8). -/
def keptRegs (r : RegFile) : RegFile := r.filter (fun e => decide (0xC000 ≤ e.1) || e.1 == TZ_BK_CFG)

/-- The L-AON reset asserted (R112, R481): every register and unit of the leaf but Heartwood; guard outputs are forced. -/
def Leaf.aonUnits (l : Leaf) : Leaf :=
  let new : Leaf := { Leaf.reset with
    toNode := { Node.reset false with ns := l.ns, fresh := l.fresh, out := l.out, selfWord := l.selfWord, aliveAt := l.ns + 100000, regs := keptRegs l.regs }
    twigs := l.twigs.map (fun e => (e.1, { e.2.sapReset with beats := 0, hold := false }))
    guards := { Guards.reset with safe := l.guards.safe, ltNs := l.guards.ltNs }
    heart := l.heart
    boot := { LeafBoot.reset with nvmPresent := l.boot.nvmPresent, failed := l.boot.failed } }
  new.guardsForce

/-- The integrator's straps and parameters as the release samples them (R112, R180, R410; log entry 24); a self leaf has no second lane and no NVM. -/
def Leaf.strapped (l : Leaf) (x : LeafStraps) : Leaf :=
  let die := l.toNode.selfWord.isNone
  let l : Leaf := { l with guards := { l.guards with safe := x.safe % 256 }, boot := { l.boot with nvmPresent := die && x.nvm } }
  l.s TZ_BK_CFG_LANES2 (b2n (die && x.lanes2))

/-- L_AON_RESET_RELEASE (R113, R167, R410, R481): every unit from reset, POWER_UP first in the ring, lanes listening, local
seconds from 0, guards free unless L-TIME has failed. The NVM image comes with NVM_READ. -/
def Leaf.aonRelease (l : Leaf) (x : LeafStraps) : Leaf :=
  let l := l.aonUnits.strapped x
  let l := if bitOf l.boot.failed 1 then l else l.guardsFree
  let l := (l.powerUp 7).redue
  let l := (l.on (·.leafLaneReset 0 true)).on (·.leafLaneReset 1 true)
  l.heartAgain

/-- A leaf reset is asserted (R481, R482): 0 L-AON, 1 TIME, 2 L-SAP, 3 L-HOST, 4 and 5 lanes 0 and 1. -/
def Leaf.resetAssert (l : Leaf) (r : Nat) : Leaf :=
  let held := fun (l : Leaf) => l.onBoot (fun b => { b with held := putBits b.held r r 1 })
  match r with
  | 0 => held l.aonUnits
  | 1 => held l.timeUnits
  | 2 => (held l).sapUnits
  | 3 => (held l).hostUnits
  | 4 => held (l.on (·.leafLaneReset 0 false))
  | 5 => held (l.on (·.leafLaneReset 1 false))
  | _ => l

/-- L_LINK_RESET_RELEASE (R207). -/
def Leaf.laneRelease (l : Leaf) (k : Nat) : Leaf :=
  (l.on (·.leafLaneReset k true)).onBoot (fun b => { b with held := putBits b.held (4 + k) (4 + k) 0 })

/-- L_HOST_RESET_RELEASE (R481). -/
def Leaf.hostRelease (l : Leaf) : Leaf := (l.hostUnits.onBoot (fun b => { b with held := putBits b.held 3 3 0 })).tapNext 20

/-! ### Clock sources (R477 to R480; bits of Table 19.8) -/

/-- Pulse outputs low (Table 19.4). -/
def Node.pulsesLow (n : Node) : Node := { n with time := { n.time with trains := n.time.trains.map (fun e => (e.1, { e.2 with high := false })) } }

/-- Lanes OFF while L-LINK has failed (Table 19.4). -/
def Node.laneStop (n : Node) (k : Nat) : Node :=
  if n.laneState k = 0 then n
  else
    let n := if n.serving k then n.laneDown k 1 else n
    (n.s (BK_STAT_MODE (n.lb k)) 0).enter k 0

/-- CLOCK_FAIL (R477, R478): bit `b` of the source. A core in low power counts as alive. -/
def Leaf.clockFail (l : Leaf) (b : Nat) : Leaf :=
  if b > 8 ∨ bitOf l.boot.failed b ∨ (b ≥ 5 ∧ (l.core (b - 5)).lp) then l
  else
    let l := l.onBoot (fun x => { x with failed := putBits x.failed b b 1 })
    let l := (l.s TZ_CLK_FAIL_FAIL (putBits (l.toNode.g TZ_CLK_FAIL_FAIL) b b 1)).count TZ_CLK_FAILS_COUNT
    match b with
    | 1 => l.guardsForce.on (·.pulsesLow)
    | 2 =>
      let l : Leaf := { l with twigs := l.twigs.map (fun e => (e.1, { e.2 with hold := false })) }
      (List.range 4).foldl (fun (l : Leaf) c => l.s (TZ_TRCc_STAT_STALLING c) 0) l
    | 3 => (l.on (·.laneStop 0)).on (·.laneStop 1)
    | 0 => l
    | 4 => l
    | _ => l.s (TZ_TRCc_STAT_STALLING (b - 5)) 0

/-- TIME returns to a self leaf (R480): its forced outputs are released; the TIME reset that follows is the crown's. -/
def Leaf.timeBack (l : Leaf) : Leaf :=
  let l := (l.onBoot (fun x => { x with failed := putBits x.failed 1 1 0 })).guardsFree
  l.s TZ_RST_CAUSE_CLKRET (l.toNode.g TZ_RST_CAUSE_CLKRET ||| 1)

/-- CLOCK_RETURN (R480): forced outputs are released, unless the L-AON reset still forces them (R112), and the domain's reset is applied once. -/
def Leaf.clockReturn (l : Leaf) (b : Nat) : Leaf :=
  if b > 8 ∨ !bitOf l.boot.failed b then l
  else
    let l := l.onBoot (fun x => { x with failed := putBits x.failed b b 0 })
    let cause := fun (l : Leaf) (m : Nat) => l.s TZ_RST_CAUSE_CLKRET (l.toNode.g TZ_RST_CAUSE_CLKRET ||| m)
    match b with
    | 1 => if bitOf l.boot.held 0 then l else (cause l.timeUnits 1).guardsFree.powerUp 4
    | 2 => cause l.sapRelease 2
    | 3 => cause ((l.on (·.leafLaneReset 0 true)).on (·.leafLaneReset 1 true)) 12
    | 4 => l.endSample 9
    | _ => l

/-- TWIG_RESET_ASSERT (R482): the Twig counts nothing; a record of it in progress on the chain ends with an ABORT beat. -/
def Leaf.twigAssert (l : Leaf) (t : Nat) : Leaf :=
  let busy := (l.twig t).beats > 0
  let l := l.setTwig t (l.twig t).assertReset
  if busy then l.abortBeats t else l

/-- TWIG_RESET_RELEASE (R482). -/
def Leaf.twigRelease (l : Leaf) (t : Nat) : Leaf := l.setTwig t (l.twig t).release

/-- One tick of an idle leaf (log entry 1): its node, its L-TIME time while that clock runs, the jobs whose T_GO the new cycle has reached, and
the trace port. -/
def Leaf.tick (l : Leaf) : Leaf :=
  let runs := !bitOf l.boot.failed 1 && !bitOf l.boot.held 1 && !bitOf l.boot.held 0
  let sap := !bitOf l.boot.failed 2 && !bitOf l.boot.held 2 && !bitOf l.boot.held 0
  let l := l.on (·.tick runs (!bitOf l.boot.failed 0 && !bitOf l.boot.held 0))
  let l := if !bitOf l.boot.failed 1 then { l with guards := { l.guards with ltNs := l.guards.ltNs + 1 } } else l
  let l := if runs && l.boot.armed.any (fun a => decide (a.tgo ≤ l.toNode.now)) then l.jobTime else l
  if sap then l.tracePort else l

end Sys2Proof.Machine
end

