-- ==== Sys2Proof/Machine/Float.lean ====
section
/-! DEFINITION. Binary64 arithmetic of the window engine (spec/12_stragglers_drift.md R295): IEEE 754, each result rounded once to
nearest, ties to even. Values are 64-bit codes. -/

namespace Sys2Proof.Machine

/-- The code of a finite or special number in units of 2^-1074. -/
def ofNum64 (x : Num) : Nat := toF64 x 1074

/-- A rational ±p/q as a number in units of 2^-2301, cut to 2300 fraction bits with one more bit to say that it goes on. -/
def ratNum (neg : Bool) (p q : Nat) : Num :=
  let n := p * 2 ^ 2300
  let m := 2 * (n / q) + b2n (n % q != 0)
  .fin neg (if neg then -(m : Int) else m)

/-- The sign of a number. -/
def Num.neg? : Num → Bool
  | .nan => false
  | .inf n => n
  | .fin n _ => n

/-- Addition. -/
def fAdd (a b : Nat) : Nat := ofNum64 ((f64 a).add (f64 b))

/-- The negative of a code. -/
def fNeg (a : Nat) : Nat := if bitOf a 63 then a - 2 ^ 63 else a + 2 ^ 63

/-- Subtraction. -/
def fSub (a b : Nat) : Nat := fAdd a (fNeg b)

/-- Multiplication. -/
def fMul (a b : Nat) : Nat := toF64 ((f64 a).mul (f64 b)) 2148

/-- Division. -/
def fDiv (a b : Nat) : Nat :=
  let x := f64 a
  let y := f64 b
  let neg := x.neg? != y.neg?
  match x, y with
  | .nan, _ => fmtFp64.qnan
  | _, .nan => fmtFp64.qnan
  | .inf _, .inf _ => fmtFp64.qnan
  | .inf _, _ => fmtFp64.sign neg fmtFp64.top
  | _, .inf _ => fmtFp64.sign neg 0
  | .fin _ v, .fin _ w =>
    if w = 0 then (if v = 0 then fmtFp64.qnan else fmtFp64.sign neg fmtFp64.top)
    else if v = 0 then fmtFp64.sign neg 0
    else toF64 (ratNum neg v.natAbs w.natAbs) 2301

/-- The square root. -/
def fSqrt (a : Nat) : Nat :=
  match f64 a with
  | .nan => fmtFp64.qnan
  | .inf n => if n then fmtFp64.qnan else a
  | .fin n v =>
    if v = 0 then a
    else if n then fmtFp64.qnan
    else
      let x := v.natAbs * 2 ^ 1326
      let s := natSqrt 2000 x 0 (2 ^ 1750)
      toF64 (.fin false ((2 * s + b2n (s * s != x) : Nat) : Int)) 1201

/-- a < b, false when either is NaN. -/
def fLt (a b : Nat) : Bool :=
  match f64 a, f64 b with
  | .fin _ v, .fin _ w => decide (v < w)
  | .inf n, .inf m => n && !m
  | .inf n, .fin _ _ => n
  | .fin _ _, .inf m => !m
  | _, _ => false

/-- a ≤ b, false when either is NaN. -/
def fLe (a b : Nat) : Bool :=
  match f64 a, f64 b with
  | .nan, _ => false
  | _, .nan => false
  | _, _ => !fLt b a

/-- The greater of two. -/
def fMax (a b : Nat) : Nat := if fLt a b then b else a

/-- The lesser of two. -/
def fMin (a b : Nat) : Nat := if fLt b a then b else a

/-- The magnitude. -/
def fAbs (a : Nat) : Nat := a % 2 ^ 63

/-- A natural number, rounded once (exact below 2^53). -/
def fNat (n : Nat) : Nat := toF64 (.fin false (n : Int)) 0

/-- An FP32 code as binary64, exactly. -/
def fOf32 (v : Nat) : Nat := toF64 (decodeFmt fmtFp32 v 149) 149

/-- A binary64 code as FP32, rounded to nearest. -/
def f32Of (a : Nat) : Nat := (convert fmtFp32 (f64 a) 1074).code

/-- A binary64 code as BF16, rounded to nearest. -/
def bf16Of (a : Nat) : Nat := (convert fmtBf16 (f64 a) 1074).code

/-- 2^-n. -/
def fPow (n : Nat) : Nat := toF64 (.fin false 1) n

end Sys2Proof.Machine
end

