-- ==== Sys2Proof/Machine/AuditState.lean ====
section
/-! DEFINITION. The audit service of a tray crown behind its registers (spec/13_audit.md R328 to R350). -/

namespace Sys2Proof.Machine

/-- A sample being assembled or judged at the crown (R328 to R334). -/
structure CrownSample where
  port : Nat
  seq : Nat
  desc : List Byte
  ctx : List Byte
  tdesc : Nat
  qual : Nat
  /-- The operand stream in HBM: where it begins, its bytes, and how many have come. The recompute's output follows it (log entry 56). -/
  addr : Nat
  dbytes : Nat
  got : Nat
  /-- The summary bytes of the ORIGINAL result, once they have come. -/
  result : Option (List Byte)
  /-- 0 assembling, 1 complete, 2 recompute posted, 3 waiting for the replay result. -/
  phase : Nat
  /-- The range of the next or present recompute, and the outputs of the ranges done with their flags; in phase 3 the reference alone. -/
  range : Nat
  outs : List (List (List Byte) × Nat)
  /-- The REPLAY result: STATUS and summary bytes. -/
  replay : Option (Nat × List Byte)
  /-- When it arrived, in ns (R345). -/
  replayAt : Nat
  /-- Selected while the engine's boost count was above 0. -/
  boosted : Bool
  rehearsal : Bool
  deriving DecidableEq, Repr

/-- An engine's audit state (R335, R337). -/
structure AuditEngine where
  /-- 0 IDLE, 1 REPEAT, 2 WATCH, 3 FENCED. -/
  state : Nat
  /-- REPEAT follows a radio tile's mismatch. -/
  radio : Bool
  /-- The boost count as the crown mirrors it, and the TILE_SEQ of the last tile it knows of (log entry 60). -/
  boost : Nat
  lastTile : Option Nat
  /-- Tiles with a PASS verdict since the leaf's last POWER_UP, newest first: T_DESC, TILE_SEQ, TAG. -/
  passes : List (Nat × Nat × Nat)
  /-- When Grove Pruned the die for it; when a VF_RESULT granted the hold. -/
  prunedAt : Option Nat
  grantedAt : Option Nat
  /-- The V/f domain of its relief hold. -/
  dom : Option Nat
  deriving DecidableEq, Repr

/-- An engine in IDLE. -/
def AuditEngine.idle : AuditEngine := ⟨0, false, 0, none, [], none, none, none⟩

/-- An open notice (R337): its body after the head as it was sent OPEN (Table 13.10), with CAUSE and SIG_SEQ as they have become. -/
structure Notice where
  seq : Nat
  port : Nat
  engine : Nat
  /-- 0 pending, else the CAUSE. -/
  cause : Nat
  radio : Bool
  body : List Byte
  rehearsal : Bool
  /-- T_DESC of the first boosted tile that passed and was accepted after the grant, when the notice has no classification yet (R338). -/
  cleared : Option Nat
  deriving DecidableEq, Repr

/-- A digest of a round, and what a die last reported of a region (R341). -/
structure Digest where
  port : Nat
  region : Nat
  len : Nat
  digest : Nat
  epoch : Nat
  start : Nat
  qual : Nat
  round : Nat
  deriving DecidableEq, Repr

/-- A WSUM record of a child, at a pod crown or root (R341). -/
structure ChildSum where
  node : Nat
  region : Nat
  len : Nat
  digest : Nat
  /-- The round's start SEC. -/
  sec : Nat
  deriving DecidableEq, Repr

/-- The audit service. -/
structure AuditService where
  samples : List CrownSample
  engines : Tab AuditEngine
  notices : List Notice
  vseq : Nat
  taintSeq : Nat
  sigSeq : Nat
  /-- SEED in force, and when it was drawn, in ns. -/
  seed : Nat
  seedAt : Option Nat
  /-- The last 65,536 selections of each die by port: whether each ended in a verdict that counts for c, newest first (R342). -/
  picks : Tab (List Bool)
  /-- E of each die is above TARGET, as last reported. -/
  above : Tab Bool
  digests : List Digest
  previous : List Digest
  /-- T_START of the last digest of a port, region and length that matched its group. -/
  matched : List (Nat × Nat × Nat × Nat)
  sums : List ChildSum
  lastSums : List ChildSum
  /-- Recomputes posted on queue 1, oldest first: port and sample. -/
  posted : List (Nat × Nat)
  /-- A rehearsal marked for port and engine (R345), and how the last ended. -/
  mark : Option (Nat × Nat)
  rehearsed : Option Bool
  /-- The last SENSOR value of the lowest channel of kind 0 of each die. -/
  temps : Tab (Option Nat)
  deriving DecidableEq, Repr

/-- The audit service with nothing in progress. -/
def AuditService.reset : AuditService :=
  { samples := [], engines := [], notices := [], vseq := 0, taintSeq := 0, sigSeq := 0, seed := 0, seedAt := none, picks := [], above := [],
    digests := [], previous := [], matched := [], sums := [], lastSums := [], posted := [], mark := none, rehearsed := none, temps := [] }

end Sys2Proof.Machine
end

