-- ==== Sys2Proof/Machine/DriftState.lean ====
section
/-! DEFINITION. The window engine and history store behind their registers (spec/12_stragglers_drift.md R294 to R315). Values of
binary64 are kept as their 64-bit codes. -/

namespace Sys2Proof.Machine

/-- A state under R300 with the first windows of its two runs. -/
structure RunState where
  alarm : Bool
  on : Nat
  off : Nat
  onFrom : Nat
  offFrom : Nat
  deriving DecidableEq, Repr

/-- NORMAL, both runs at 0. -/
def RunState.reset : RunState := ⟨false, 0, 0, 0, 0⟩

/-- A closed segment of a history (R311): first window, its samples oldest first, its flags, and its place and length in the
ring. -/
structure HistSegment where
  first : Nat
  samples : List Nat
  flags : Nat
  off : Nat
  len : Nat
  deriving DecidableEq, Repr

/-- A series' history (R310 to R312): its pages, offsets, segments oldest first, and the open segment. -/
structure History where
  ringPage : Nat
  ringPages : Nat
  stagePage : Nat
  oldest : Nat
  next : Nat
  segs : List HistSegment
  stage : List Nat
  stageFirst : Nat
  /-- Flags of the next segment: GAP_BEFORE, GRAFT, REBASE. -/
  flags : Nat
  deriving DecidableEq, Repr

/-- A fitted model (R306): a_0 to a_p and σ_r. -/
structure ArModel where
  coef : List Nat
  sigma : Nat
  deriving DecidableEq, Repr

/-- A series of a window plan. -/
structure DriftSeries where
  key : Nat
  tag : Nat
  twig : Nat
  index : Nat
  run : RunState
  /-- Baseline so far: windows, Σx, Σx²; and μ and σ once complete (R302). -/
  baseN : Nat
  sx : Nat
  sxx : Nat
  base : Option (Nat × Nat)
  /-- S_hi and S_lo, and the first window after each last stood at 0 (R303). -/
  hi : Nat
  lo : Nat
  hiFrom : Nat
  loFrom : Nat
  /-- EWMA's e (R304). -/
  e : Nat
  /-- RESIDUAL: the last values of u, newest first; the model; windows since the last fit was due (R306). -/
  lags : List Nat
  model : Option ArModel
  sinceFit : Nat
  /-- The baseline is learnt again; and a baseline was re-learnt since the last Burl (R307). -/
  again : Bool
  rebased : Bool
  hist : Option History
  deriving DecidableEq, Repr

/-- A peer group's run (R301). -/
structure GroupRun where
  job : Nat
  gkey : Nat
  run : RunState
  deriving DecidableEq, Repr

/-- A running window plan (Table 12.1). -/
structure WinPlan where
  raw : List Byte
  next : Nat
  series : List DriftSeries
  groups : List GroupRun
  /-- Windows were skipped since the last one processed; runs restart at the next one (R314). -/
  gap : Bool
  clearRuns : Bool
  /-- Run as stand-in (R371). -/
  guest : Bool
  /-- The hour of BUDGET, onsets sent upward in it, findings held back, and the first one held: WIDX and E_{k+1} (R308). -/
  hour : Nat
  sent : Nat
  held : Nat
  heldFirst : Nat
  heldStamp : Nat
  deriving DecidableEq, Repr

/-- A posted fit job (R306): engine queue, plan slot, series, p, where its result goes, and its rows of lags and target. -/
structure Fit where
  queue : Nat
  slot : Nat
  key : Nat
  tag : Nat
  p : Nat
  out : Nat
  rows : List (List Nat)
  deriving DecidableEq, Repr

/-- The window engine. -/
structure WinEngine where
  plans : Tab (Option WinPlan)
  fits : List Fit
  /-- The queue of the next fit: 2 or 3. -/
  turn : Nat
  /-- Pages allotted from the region's first page on. -/
  pages : Nat
  /-- Pages taken of those reserved for a stand-in (R371). -/
  guestPages : Nat
  /-- Burls issued and not yet taken by Grove (R308). -/
  toGrove : List (List Byte)
  /-- Slots spent in the present interval. -/
  used : Nat
  /-- The job numbers Grove has recorded for each die: since when, as a time word, and the job; newest first (R297). -/
  jobLog : Tab (List (Nat × Nat))
  deriving DecidableEq, Repr

/-- The window engine after its reset. -/
def WinEngine.reset : WinEngine := ⟨[], [], 2, 0, 0, [], 0, []⟩

end Sys2Proof.Machine
end

