-- ==== Sys2Proof/Machine/EngState.lean ====
section
/-! DEFINITION. The crown engine and its job rings behind their registers (spec/10_crown_engine.md R239 to R273; the tree queues
of R288 use the same rings). -/

namespace Sys2Proof.Machine

/-- How far a running chain has come (R264, R266): its member, the member's round and the panel pass of that round, and the part of the
pass done, in 10^-9 ARQ cycles. -/
structure JobPlace where
  member : Nat
  round : Nat
  pass : Nat
  gone : Nat
  deriving DecidableEq, Repr

/-- A job of another queue that wrote while this one ran: its descriptor, and what the bytes held before that this one reads (R258). -/
structure Rival where
  desc : List Byte
  old : List (Nat × Byte)
  deriving DecidableEq, Repr

/-- A job or chain that its queue has started and not completed (R263, R266, R268). -/
structure EngJob where
  /-- The descriptors of the chain, in order, 96 bytes each. -/
  descs : List (List Byte)
  /-- It holds its cells; otherwise it waits to start again after a fault. -/
  running : Bool
  start : Stamp
  /-- Cycles of its clock since START, in 10^-9 cycles (R265). -/
  cyc : Nat
  place : JobPlace
  restarts : Nat
  /-- Code of the last fault (Table 10.7). -/
  lastFault : Nat
  rivals : List Rival
  deriving DecidableEq, Repr

/-- A job that starts on descriptors at a time word. -/
def EngJob.begin (descs : List (List Byte)) (start : Stamp) (restarts lastFault : Nat) : EngJob :=
  ⟨descs, true, start, 0, ⟨0, 0, 0, 0⟩, restarts, lastFault, []⟩

/-- Job queues: the job taken from each ring, and when its head became ready, as a time word (R263). -/
structure JobQueues where
  jobs : Tab (Option EngJob)
  ready : Tab (Option Nat)
  deriving DecidableEq, Repr

/-- What a cell's panel buffers and accumulators hold (R240): the tile its accumulators sum, the panel pass whose columns it computes with,
and the tile and pass whose panel fills the other buffer. -/
structure CellHold where
  tile : Nat
  pass : Nat
  next : Option (Nat × Nat)
  deriving DecidableEq, Repr

/-- The crown engine. -/
structure Engine where
  q : JobQueues
  /-- The logical cell a map command in progress names: quadrant and local number (R245). -/
  mapping : Option (Nat × Nat)
  /-- By global physical cell: what the panels, the accumulators and, behind them, Bough hold; none: zeros, as after reset and clearing
  (R240, R255). -/
  cells : Tab (Option CellHold)
  /-- Nanoseconds of the controllers' patrol-scrub pass in progress (R256). -/
  scrub : Nat
  deriving DecidableEq, Repr

/-- The engine after its reset. -/
def Engine.reset : Engine := ⟨⟨[], []⟩, none, [], 0⟩

end Sys2Proof.Machine
end

