-- ==== Sys2Proof/Machine/GroveState.lean ====
section
/-! DEFINITION. Grove's health map and requests (spec/14_placement_graft.md R351 to R372), and the crown's ageing channels
(spec/04_sensors_guards_ageing.md R114 to R120). -/

namespace Sys2Proof.Machine

/-- An ONSET Burl that no CLEAR has matched: ORIGIN, WP_ID, INDEX, Twig, GKEY, and its SEV (R352). -/
structure OpenBurl where
  origin : Nat
  plan : Nat
  index : Nat
  twig : Nat
  gkey : Nat
  sev : Nat
  deriving DecidableEq, Repr

/-- An entry of the health map (R351). -/
structure Die where
  /-- 0 LOGICAL, 1 SPARE, 2 RETIRED, 3 ABSENT. -/
  pstate : Nat
  num : Nat
  /-- The conditions of Table 14.1 in force, by CAUSE bit. -/
  cond : Nat
  /-- Declared failed (R366): G0 whatever the conditions. -/
  failed : Bool
  grade : Nat
  /-- Since when no condition of the present grade or below has been in force, in ns (R353). -/
  calm : Option Nat
  radioOk : Bool
  timeOk : Bool
  job : Nat
  radioJob : Bool
  /-- The class of the last job recorded on the port was radio (R367). -/
  lastRadio : Bool
  /-- Since when C0 has been DEAD, in ns (R366). -/
  deadSince : Option Nat
  /-- Guards whose fence latch is set, and THROTTLE or RELIEF units tripped, as bit sets. -/
  fenced : Nat
  tripped : Nat
  burls : List OpenBurl
  deriving DecidableEq, Repr

/-- An entry after the AON reset: ABSENT at G1 with NEW (Table 14.6). -/
def Die.reset : Die := ⟨3, 0, 0x8000, false, 1, none, false, false, 0, false, false, none, 0, 0, []⟩

/-- A vacant number: its group (0xFF: none), when the failure was declared, as a time word, and the class of the failed claim (R366,
R368). -/
structure Vacancy where
  num : Nat
  group : Nat
  at_ : Nat
  radio : Bool
  deriving DecidableEq, Repr

/-- A failed number that waits for the end of its NOC cycle to claim a spare (R367), and the port it was on. -/
structure Claim where
  vac : Vacancy
  port : Nat
  deriving DecidableEq, Repr

/-- A child's latest SUMMARY (Table 14.2) and when it came, in ns. -/
structure Summed where
  body : List Byte
  at_ : Nat
  deriving DecidableEq, Repr

/-- A request on its way (R363): its 32 bytes, where it entered, the trays tried; at the crown of entry, when it was accepted. -/
structure InFlight where
  req : List Byte
  origin : Nat
  ringWord : Nat
  tried : List Nat
  at_ : Nat
  deriving DecidableEq, Repr

/-- Grove. -/
structure Grove where
  dies : Tab Die
  vacant : List Vacancy
  /-- Claims of this cycle. -/
  claims : List Claim
  summaries : Tab (Option Summed)
  flights : List InFlight
  gseq : Nat
  /-- When an input last reached Grove, in ns (R362). -/
  inputAt : Nat
  /-- When the last SUMMARY fell due, in ns (R356). -/
  sumAt : Nat
  deriving DecidableEq, Repr

/-- Grove after the AON reset. -/
def Grove.reset : Grove := ⟨[], [], [], [], [], 0, 0, 0⟩

/-- An ageing channel of a unit (R114 to R116): the baseline S_0 and the points, oldest first, with age in hours; slack in 2^-16 ps. -/
structure AgeChan where
  base : Option Int
  points : List (Nat × Int)
  /-- Normalised samples of the present period. -/
  samples : List Int
  /-- S_H in 2^-16 ps, a in 2^-16 ps per hour^n, and the steps the channel needs, at the last re-plan. -/
  sh : Int
  a : Int
  need : Nat
  retired : Bool
  /-- The operating hours of the last point. -/
  hours : Nat
  /-- The V/f domain and, for the crown's own cells, the physical cell it was last planned with; and whether its baseline was taken anew since
  its last AGE record. -/
  dom : Nat
  cell : Nat
  rebased : Bool
  deriving DecidableEq, Repr

/-- A channel without points. -/
def AgeChan.new : AgeChan := ⟨none, [], [], 0, 0, 0, false, 0, 0, 0, false⟩

/-- What stays of a channel through the AON reset (R114): S_0, the points, and what the last re-plan made of them. -/
def AgeChan.retained (a : AgeChan) : AgeChan := { a with samples := [] }

/-- Ageing: channels by 64 × port + channel (port 64: the crown's own cells through its self leaf), and for each port and V/f domain,
8 × port + domain, the re-plan's target, the audit's relief hold and the target last sent; and RADIO_OK of the crown's own cells. -/
structure Ageing where
  chans : Tab AgeChan
  target : Tab Nat
  hold : Tab Nat
  sent : Tab Nat
  ownOk : Bool
  deriving DecidableEq, Repr

/-- No points, no targets. -/
def Ageing.reset : Ageing := ⟨[], [], [], [], true⟩

end Sys2Proof.Machine
end

