-- ==== Sys2Proof/Machine/KeepState.lean ====
section
/-! DEFINITION. What a crown keeps for the blocks below it: operating seconds and power cycles (spec/07_ring_log.md R168), Ring log mirrors
(R171, R172), clear nonces (R176), and the meter relay's checkpoints (spec/15_heartwood.md R396). -/

namespace Sys2Proof.Machine

/-- Retained operating data of a port or of the crown itself, with its copy in flash (R168). -/
structure Retained where
  opsec : Nat
  pcc : Nat
  flashOp : Nat
  flashPcc : Nat
  /-- The restore command waits for firmware (Table 17.4). -/
  due : Bool
  deriving DecidableEq, Repr

/-- Nothing retained. -/
def Retained.zero : Retained := ⟨0, 0, 0, 0, false⟩

/-- A mirror of another block's Ring log (R171). -/
structure Mirror where
  /-- Records by power-up section and SEQ, in order; the protected area. -/
  recs : List (Nat × RingRec)
  prot : List (Nat × RingRec)
  section_ : Nat
  /-- Every record of the section below this SEQ is held or known to be gone; one more than the highest SEQ seen. -/
  next : Nat
  top : Nat
  /-- SEQs at or above `next` that are held or gone. -/
  ahead : List Nat
  /-- Ranges asked for with READ, and SEQs at which a reply stopped short: from, end, and whether GONE. -/
  asked : List (Nat × Nat)
  holes : List (Nat × Nat × Bool)
  /-- The mirror has advanced since the last MIRROR_ACK, and the point that one named. -/
  moved : Bool
  acked : Nat
  /-- PCC of the last record with OPBASE, and the last NONCE accepted, kept in flash (R176). -/
  pcc : Nat
  nonce : Option Nat
  deriving DecidableEq, Repr

/-- A mirror that holds nothing. -/
def Mirror.empty : Mirror := ⟨[], [], 0, 0, 0, [], [], [], false, 0, 0, none⟩

/-- The meter relay's state of a port (R396). -/
structure RelayPort where
  /-- The latest checkpoint that verified, its 240 bytes as they came. -/
  ckpt : Option (List Byte)
  /-- HSEQ of the last record, and the CHAIN of the last SEAL of this Heartwood reset. -/
  hseq : Option Nat
  chain : Option (List Byte)
  /-- The records since the last SEAL. -/
  open_ : List (List Byte)
  /-- A RESTORE command waits to be sent. -/
  due : Bool
  deriving DecidableEq, Repr

/-- A port whose Heartwood has sent nothing. -/
def RelayPort.none : RelayPort := ⟨Option.none, Option.none, Option.none, [], false⟩

/-- What the crown keeps. -/
structure Keeping where
  ports : Tab Retained
  own : Retained
  /-- When retained values were last saved, in ns. -/
  savedAt : Nat
  mirrors : Tab Mirror
  relay : Tab RelayPort
  deriving DecidableEq, Repr

/-- Nothing kept. -/
def Keeping.reset : Keeping := ⟨[], Retained.zero, 0, [], []⟩

end Sys2Proof.Machine
end

