-- ==== Sys2Proof/Machine/RedState.lean ====
section
/-! DEFINITION. A crown's reduction and traffic state behind its registers (spec/09_reduction_traffic.md, R210 to R238;
spec/01_canopy.md R29, R30; spec/06_sap_streams.md R149, R151). -/

namespace Sys2Proof.Machine

/-! ### Series (R87, R88) -/

/-- A reading of a series: capture time in 2^-32 ns, the raw value, EPOCH and BOOT as one number, a change of which ends the
series (R88), and QUAL. -/
structure SerPoint where
  t : Nat
  raw : Nat
  gen : Nat
  qual : Nat
  /-- WRAP of a counter's reading (R86). -/
  wrap : Bool
  deriving DecidableEq, Repr

/-- A series of a leaf: SKIND (0 counter, 1 channel, 2 bin BUSY, 3 bin STALL), its INDEX (counter, channel or Twig), and for a
bin its OPEN_SEQ and bin number as `run` and its TAG. -/
structure Series where
  leaf : Nat
  kind : Nat
  index : Nat
  run : Nat
  tag : Nat
  /-- Readings, oldest first. -/
  points : List SerPoint
  /-- The sampling group's period, in 2^-32 ns; 0: not known (R88). -/
  period : Nat
  /-- The BIN_CLOSE record has come. -/
  final : Bool
  deriving DecidableEq, Repr

/-! ### Partials (R214 to R216) -/

/-- A member as an operator keeps it: value, node word and INDEX. -/
structure Extreme where
  v : Nat
  node : Nat
  index : Nat
  deriving DecidableEq, Repr

/-- A partial (Table 9.1): which sections it holds is `ops`, coded as in Table 9.2. -/
structure Partial where
  ops : Nat
  count : Nat
  missing : Nat
  gapped : Nat
  qual : Nat
  sat : Bool
  ovfkey : Bool
  sum : Nat
  min_ : Option Extreme
  max_ : Option Extreme
  s1 : Nat
  s2 : Nat
  kbase : Nat
  zero : Nat
  low : Nat
  /-- Bucket counts by key. -/
  hist : Tab Nat
  /-- TOPK entries, best first; DIR and K are the plan's. -/
  top : List Extreme
  deriving DecidableEq, Repr

/-- A partial of an open window: window number, span and group key. -/
structure OpenPart where
  slot : Nat
  k : Nat
  log : Nat
  gkey : Nat
  part : Partial
  deriving DecidableEq, Repr

/-- What a child has reported of a span: its lane, and whether it was a RAW_MARK (R224). -/
structure Reported where
  slot : Nat
  k : Nat
  log : Nat
  lane : Nat
  raw : Bool
  deriving DecidableEq, Repr

/-- A member of a closed window to which a late reading may still give a value (R213): one counted missing, or of a bin series, with the tags
whose values have been taken. -/
structure MissedMember where
  slot : Nat
  k : Nat
  leaf : Nat
  index : Nat
  done : List Nat
  deriving DecidableEq, Repr

/-- A result of a window closed here, for the feature stage and the window engine (R218), and when it left, in ns. -/
structure Closed where
  plan : Nat
  k : Nat
  log : Nat
  gkey : Nat
  part : Partial
  supp : Bool
  at_ : Nat
  deriving DecidableEq, Repr

/-- A member's value, or its absence, in a window closed at this tray crown, for the window engine (R295). -/
structure MemberWindow where
  plan : Nat
  k : Nat
  leaf : Nat
  tag : Nat
  v : Option Nat
  gap : Bool
  qual : Nat
  deriving DecidableEq, Repr

/-! ### Plans and children (R218 to R225) -/

/-- A change of a plan's mode, from the first window at or after a time word (R224). -/
structure ModeChange where
  mode : Nat
  preLog : Nat
  start : Nat
  deriving DecidableEq, Repr

/-- A running plan: its 32 bytes (Table 9.2), the window to be closed next, its mode and its cost. -/
structure PlanSlot where
  raw : List Byte
  next : Nat
  mode : Nat
  preLog : Nat
  change : Option ModeChange
  /-- WIDX of the last window closed, AGG records emitted. -/
  widx : Nat
  /-- Slots used in the present interval, and per µs in the last. -/
  used : Nat
  cost : Nat
  deriving DecidableEq, Repr

/-- A plan's mode in a child, as ordered by this crown, and when, in ns (R223). -/
structure Order where
  mode : Nat
  preLog : Nat
  at_ : Nat
  deriving DecidableEq, Repr

/-- A child behind its LOAD registers (R223). -/
structure ChildLoad where
  rl : Nat
  ul : Nat
  ing : Nat
  level : Nat
  rawRate : Nat
  /-- Consecutive LOAD records at or above SAT_HI, and at or below IDLE_LO. -/
  satRun : Nat
  idleRun : Nat
  /-- Since when the child has been idle, in ns. -/
  idleSince : Option Nat
  /-- The child's plans by plan slot. -/
  orders : Tab (Option Order)
  deriving DecidableEq, Repr

/-- A child that has sent no LOAD record. -/
def ChildLoad.none : ChildLoad := ⟨0, 0, 0, 0, 0, 0, 0, .none, []⟩

/-! ### Flex circuits (R226 to R228) -/

/-- A FLEX REQ without an answer. -/
structure FlexReq where
  seq : Nat
  reason : Nat
  lane : Nat
  at_ : Nat
  deriving DecidableEq, Repr

/-- Flex state of a crown. -/
structure Flex where
  req : Option FlexReq
  seq : Nat
  /-- No REQ before this moment, in ns (R227). -/
  notBefore : Nat
  /-- Consecutive intervals with UL at or above SAT_HI and a parent that was not idle (R226). -/
  ulRun : Nat
  /-- Why the circuit was asked for (R228). -/
  reason : Nat
  /-- Since when the causing condition has been absent, in ns. -/
  absentSince : Option Nat
  /-- No weighted frame starts on the lane the classes moved to before this moment, in ns (R228). -/
  holdUntil : Nat
  /-- Circuits granted on lanes 70 and 71, and the LEAD bits that came with them. -/
  held : Nat
  deriving DecidableEq, Repr

/-! ### Egress (R230 to R236) -/

/-- A weighted queue's shaper and samples (R231, R234): the values in force since the last refill, the tokens and the sums. -/
structure Shaper where
  en : Bool
  rate : Nat
  burst : Nat
  tokens : Int
  sumDep : Nat
  sumDly : Nat
  deriving DecidableEq, Repr

/-- A shaper after the CFG reset (Table 9.6). -/
def Shaper.reset : Shaper := ⟨false, 0, 8192, 0, 0, 0⟩

/-- A lane's gate lists (R232, R233): entries by number; take-over times in 2^-32 ns. -/
structure Gates where
  a : Tab Nat
  b : Tab Nat
  lenA : Nat
  lenB : Nat
  takeover : Nat
  pend : Option Nat
  pendLen : Nat
  deriving DecidableEq, Repr

/-- Gate lists after the CFG reset. -/
def Gates.reset : Gates := ⟨[], [], 1, 1, 0, none, 1⟩

/-- A record that waits in the ingress buffer: lane, KIND, source and body (R210, R235, R238 EN). -/
structure InRec where
  lane : Nat
  kind : Nat
  src : Nat
  boot : Nat
  body : List Byte
  deriving DecidableEq, Repr

/-- Reduction, depth shifting, flex and egress of a crown. -/
structure Reduction where
  series : List Series
  opens : List OpenPart
  seen : List Reported
  missed : List MissedMember
  /-- Children's results for platform software that wait for this crown's own partial: plan slot, window and record (R218). -/
  copies : List (Nat × Nat × List Byte)
  closed : List Closed
  members : List MemberWindow
  plans : Tab (Option PlanSlot)
  kids : Tab ChildLoad
  /-- Own consecutive intervals saturated and idle, and since when idle, in ns; intervals saturated since the last PRE_LOG
  step (R223). -/
  satRun : Nat
  idleRun : Nat
  idleSince : Option Nat
  preStep : Nat
  /-- Bytes of weighted frames sent upward, and of raw records that plans read, in the present interval. -/
  upBytes : Nat
  rawBytes : Nat
  flex : Flex
  shapers : Tab Shaper
  /-- Samples taken by every queue: NSAMP (R234). -/
  nsamp : Nat
  gates : Tab Gates
  waiting : List InRec
  /-- The Δ each leaf reported in its first TSTATUS after its step, by its node word (R47). -/
  deltas : Tab (Option Int)
  /-- Grants of holds whose C0 record was stamped before its leaf's step: port and stamp, until the leaf reports its Δ (R47). -/
  early : List (Nat × Nat)
  /-- Re-homing (R29): since when no up lane has been in service; the neighbour in use (1: p+1, 2: p-1, 0: none). -/
  noUpSince : Option Nat
  neighbour : Nat
  /-- The crown has re-homed, whether or not a neighbour can carry its traffic; since when p+1 has been able to (R29). -/
  rehomed : Bool
  ableSince : Option Nat
  /-- The state of each child last re-originated in C1 (R151). -/
  childCode : Tab Nat
  /-- Root 1: it has become the active root (R30); root 0 is active while it is ready (`Crown.activeRoot`). -/
  active : Bool
  /-- Readings whose WRAP contradicts their VALUE (R86): no register shows the count. -/
  wrapFaults : Nat
  deriving DecidableEq, Repr

/-- Reduction state after the CFG reset. -/
def Reduction.reset : Reduction :=
  { series := [], opens := [], seen := [], missed := [], copies := [], closed := [], members := [], plans := [], kids := [], satRun := 0, idleRun := 0,
    idleSince := none, preStep := 0, upBytes := 0, rawBytes := 0,
    flex := ⟨none, 0, 0, 0, 0, none, 0, 0⟩, shapers := [], nsamp := 0, gates := [], waiting := [], deltas := [], early := [],
    noUpSince := none, neighbour := 0, rehomed := false, ableSince := none, childCode := [], active := false, wrapFaults := 0 }

end Sys2Proof.Machine
end

