-- ==== Sys2Proof/Machine/Seed.lean ====
section
/-! DEFINITION. The seed image as bytes (spec/16_bring_up.md R399 to R403): header, sections, register write lists,
topology entries and declarations, as every unit of a crown reads them. -/

namespace Sys2Proof.Machine

/-- The bytes from `i` on, `n` of them. -/
def slice (l : List Byte) (i n : Nat) : List Byte := (l.drop i).take n

/-- The list cut into pieces of `n`; a shorter last piece is left out. -/
def pieces (n : Nat) (l : List Byte) : List (List Byte) := (List.range (l.length / n)).map (fun i => slice l (n * i) n)

/-- An entry of the section table (R400). -/
structure Section where
  typ : Nat
  off : Nat
  len : Nat
  crc : Nat
  deriving DecidableEq, Repr

/-- The section table of an image (R399, R400). -/
def sections (img : List Byte) : List Section :=
  (List.range (field img 6 2)).map (fun i =>
    let b := 160 + 16 * i
    ⟨field img b 2, field img (b + 4) 4, field img (b + 8) 4, field img (b + 12) 4⟩)

/-- The bytes of a section. -/
def Section.bytes (s : Section) (img : List Byte) : List Byte := slice img s.off s.len

/-- The first section of a type; empty when there is none (R400). -/
def sectionOf (img : List Byte) (t : Nat) : List Byte :=
  match (sections img).find? (fun s => s.typ == t) with
  | none => []
  | some s => s.bytes img

/-- Every section of a type. -/
def sectionsOf (img : List Byte) (t : Nat) : List (List Byte) := ((sections img).filter (fun s => s.typ == t)).map (fun s => s.bytes img)

/-- SEED_GEN of an image (Table 16.1). -/
def seedGen (img : List Byte) : Nat := field img 12 4

/-- The register write lists that a section holds: TARGET and entries (R401). -/
def writeLists (fuel : Nat) (l : List Byte) : List (Nat × List (Nat × Nat)) :=
  match fuel with
  | 0 => []
  | m + 1 =>
    if l.length < 8 then []
    else
      let n := field l 4 2
      (field l 0 4, (List.range n).map (fun i => (field l (8 + 8 * i) 4, field l (12 + 8 * i) 4))) :: writeLists m (l.drop (8 + 8 * n))

/-- The lists of every section of a type in an image. -/
def listsOf (img : List Byte) (t : Nat) : List (Nat × List (Nat × Nat)) :=
  (sectionsOf img t).flatMap (fun s => writeLists (s.length + 1) s)

/-- The LEAF_CFG list of a LIST index; empty when there is none. -/
def leafList (img : List Byte) (ix : Nat) : List (Nat × Nat) := ((listsOf img 5).filter (fun e => e.1 == ix)).flatMap (·.2)

/-- A topology port entry (Table 16.3). -/
structure PortEntry where
  /-- 0 unused, 1 logical, 2 spare, 3 second lane. -/
  kind : Nat
  list : Nat
  num : Nat
  deriving DecidableEq, Repr

/-- The entry of a port that no topology lists. -/
def PortEntry.unused : PortEntry := ⟨0, 0xFF, 0⟩

/-- The port leads to a numbered child: its one lane, or a leaf's second (R15, Table 16.3). -/
def PortEntry.numbered (e : PortEntry) : Bool := e.kind == 1 || e.kind == 3

/-- The port entry a word spells. -/
def PortEntry.of (w : Nat) : PortEntry := ⟨bitsOf w 31 30, bitsOf w 15 8, bitsOf w 5 0⟩

/-- The topology record of a crown: its 64 port entries; none when the image names no such crown (R402). -/
def topoRecord (img : List Byte) (node : Nat) : Option (List PortEntry) :=
  ((pieces 264 (sectionOf img 2)).find? (fun r => sameNode (field r 0 4) node)).map (fun r =>
    (List.range 64).map (fun p => PortEntry.of (field r (8 + 4 * p) 4)))

/-- The entry of a crown's port; unused when the image names none. -/
def topoPort (img : List Byte) (node p : Nat) : PortEntry :=
  match topoRecord img node with
  | none => PortEntry.unused
  | some l => l.getD p PortEntry.unused

/-- The node word of the child with logical number `num` under a crown (R16, R20). -/
def childWord (crown num : Nat) : Nat :=
  match nodeLevel crown with
  | 1 => putBits (bitsOf crown 17 0) 5 0 num
  | 2 => 0x40000000 + putBits (putBits (bitsOf crown 17 0) 5 0 0) 11 6 num
  | _ => 0x80000000 + num * 4096

/-- The port that carries a logical number under a crown. -/
def portOfNum (img : List Byte) (crown num : Nat) : Option Nat :=
  lowest 64 (fun p => let e := topoPort img crown p; e.kind == 1 && e.num == num)

/-- Declarations of a type (R403): their bodies. -/
def declsOf (fuel : Nat) (l : List Byte) (t : Nat) : List (List Byte) :=
  match fuel with
  | 0 => []
  | m + 1 =>
    if l.length < 4 then []
    else
      let n := field l 2 2
      let r := declsOf m (l.drop (4 + n)) t
      if field l 0 2 = t then slice l 4 n :: r else r

/-- The declarations of a type in an image. -/
def decls (img : List Byte) (t : Nat) : List (List Byte) := let s := sectionOf img 12; declsOf (s.length + 1) s t

/-- The node words of every logical leaf below a crown, in the image's topology. -/
def leavesBelow (img : List Byte) (crown : Nat) : List Nat :=
  let kids := fun c => ((List.range 64).filter (fun p => (topoPort img c p).kind == 1)).map (fun p => childWord c (topoPort img c p).num)
  match nodeLevel crown with
  | 0 => []
  | 1 => kids crown
  | 2 => (kids crown).flatMap kids
  | _ => ((kids crown).flatMap kids).flatMap kids

/-- Whether a node word lies in the subtree of a crown, the crown itself among it (R16). -/
def inSubtree (crown n : Nat) : Bool :=
  match nodeLevel crown with
  | 0 => nodeKey n == nodeKey crown
  | 1 => nodeLevel n < 2 && bitsOf n 17 6 == bitsOf crown 17 6
  | 2 => nodeLevel n < 3 && bitsOf n 17 12 == bitsOf crown 17 12
  | _ => true

/-- The self leaf's node word of a crown (R16, R24). -/
def selfLeafWord (crown : Nat) : Nat := putBits crown 29 29 1

/-- The tray crown's, and the pod crown's, node word above a leaf. -/
def trayOf (leaf : Nat) : Nat := 0x40000000 + putBits (bitsOf leaf 17 0) 5 0 0

/-- The pod crown's node word above a node. -/
def podOf (n : Nat) : Nat := 0x80000000 + putBits (bitsOf n 17 0) 11 0 0

end Sys2Proof.Machine
end

