-- ==== Sys2Proof/Machine/TreeState.lean ====
section
/-! DEFINITION. The feature stage and tree unit behind their registers (spec/11_tree_ensembles.md R274 to R293). -/

namespace Sys2Proof.Machine

/-- An anchor window whose vectors were formed (R276, R277): its window number, PARTIAL, the key and QUAL of each vector, and,
once its tree job has written its completion record, the key and scores of each vector. -/
structure FormedWindow where
  k : Nat
  part : Bool
  vecs : List (Nat × Nat)
  scores : Option (List (Nat × List Nat))
  deriving DecidableEq, Repr

/-- A feature set (Table 11.1): its bytes, the first anchor window it could use and the next one, and the windows its ring holds. -/
structure FeatSet where
  raw : List Byte
  first : Nat
  next : Nat
  formed : List FormedWindow
  deriving DecidableEq, Repr

/-- An ensemble slot behind its registers: its pipelines, the image's page and what its loader read there, and the pipeline of each tree
(R284). -/
structure Ensemble where
  pbase : Nat
  pcnt : Nat
  stream : Bool
  page : Nat
  img : List Byte
  assign : List Nat
  /-- The node store's slices of its pipelines: the node words of each level region (R283); nothing where the ensemble is streamed. -/
  slices : List (List (List Nat))
  deriving DecidableEq, Repr

/-- The tree unit and feature stage. -/
structure TreeUnit where
  sets : Tab (Option FeatSet)
  ens : Tab (Option Ensemble)
  q : JobQueues
  deriving DecidableEq, Repr

/-- Nothing loaded. -/
def TreeUnit.reset : TreeUnit := ⟨[], [], ⟨[], []⟩⟩

end Sys2Proof.Machine
end

