-- ==== Sys2Proof/Machine/CrownState.lean ====
section
/-! DEFINITION. The crown: what it shares with a leaf, and its own units. -/

namespace Sys2Proof.Machine

/-- A Bazaim crown (R20 to R31). -/
structure Crown extends Node where
  red : Reduction
  /-- HBM: addresses 0 to 639,999,999,999 (R256). -/
  hbm : Tab Byte
  /-- An access has named an HBM address that does not exist (R256): the step that makes it faults. -/
  stray : Bool
  eng : Engine
  tree : TreeUnit
  win : WinEngine
  grove : Grove
  age : Ageing
  aud : AuditService
  keep : Keeping
  bring : Bring
  /-- The self leaf (R24). -/
  self : Leaf
  /-- The configuration in force in the form of a seed image (R399): the image applied, with the sections of a CONFIG applied since in
  place of its own (R418); empty before one has been applied. -/
  image : List Byte
  /-- The port entries in force: the image's, as Graft has moved them (R20, R366). -/
  ports : Tab PortEntry
  deriving DecidableEq, Repr

/-- A crown with every unit at reset. -/
def Crown.reset : Crown := { Node.reset true with red := Reduction.reset, hbm := [], stray := false, eng := Engine.reset, tree := TreeUnit.reset, win := WinEngine.reset, grove := Grove.reset, age := Ageing.reset, aud := AuditService.reset, keep := Keeping.reset, bring := Bring.reset, self := { Leaf.reset with selfWord := some 0x20000000 }, image := [], ports := [] }

end Sys2Proof.Machine
end

