-- ==== Sys2Proof/Machine/CrownOps.lean ====
section
/-! DEFINITION. The named operations of a crown over what it shares with a leaf, its place in the canopy (R16, R20, R23,
R28) and its topology. -/

namespace Sys2Proof.Machine

/-- An operation on what the crown shares with a leaf. -/
def Crown.on (c : Crown) (f : Node → Node) : Crown := { c with toNode := f c.toNode }

/-- A register field. -/
def Crown.g (c : Crown) (f : Fld) : Nat := c.toNode.g f

/-- A register field as a flag. -/
def Crown.flag (c : Crown) (f : Fld) : Bool := c.toNode.flag f

/-- A register field set. -/
def Crown.s (c : Crown) (f : Fld) (v : Nat) : Crown := c.on (·.s f v)

/-- A saturating count. -/
def Crown.inc (c : Crown) (f : Fld) (k : Nat) : Crown := c.on (·.inc f k)

/-- One more in a saturating count. -/
def Crown.count (c : Crown) (f : Fld) : Crown := c.on (·.count f)

/-- Something leaves at a port. -/
def Crown.emit (c : Crown) (o : Out) : Crown := c.on (·.emit o)

/-- A Ring log record stamped now. -/
def Crown.log (c : Crown) (typ : Nat) (body : List Byte) : Crown := c.on (·.log typ body)

/-- A free value of `w` bits and the crown after drawing it (log entry 3). -/
def Crown.draw (c : Crown) (w : Nat) : Nat × Crown :=
  (Config.free c.fresh % 2 ^ w, c.on (fun n => { n with fresh := n.fresh + 1 }))

/-- A domain's frequency in units of 100 MHz / 360,360 (R473); 360,360 is a multiple of every DIV. -/
def clockFreq (w : Nat) : Nat := if bitOf w 31 then 360360 * bitsOf w 15 8 / max 1 (w % 16) else 360360

/-- A crown domain's clock in Hz: its PLL while the multiplexer passes it, else its 100 MHz reference (R473). -/
def Crown.hz (c : Crown) (d : Nat) : Nat :=
  if c.flag (BZ_CLKd_STAT_ON_PLL d) then 100000000 * c.g (BZ_CLKd_CTRL_MULT d) / max 1 (c.g (BZ_CLKd_CTRL_DIV d)) else 100000000

/-- A message acts where its node words pass R18 and R19; else it is discarded and counted. -/
def Crown.judged (c : Crown) (ws os : List Nat) (f : Crown → Crown) : Crown := if nodesGood ws os then f c else c.count BZ_NODE_BAD_COUNT

/-- The crown's node word (R16). -/
def Crown.node (c : Crown) : Nat := c.g BZ_NODE_WORD

/-- The sampled role: 0 SOLO, 1 TRAY, 2 POD, 3 ROOT. -/
def Crown.role (c : Crown) : Nat := c.g BZ_STRAP_ROLE

/-- SOLO and TRAY crowns hold leaves. -/
def Crown.isTray (c : Crown) : Bool := c.role < 2

/-- The crown has no parent: SOLO or ROOT. -/
def Crown.top (c : Crown) : Bool := c.role == 0 || c.role == 3

/-- A change to the reduction state. -/
def Crown.onRed (c : Crown) (f : Reduction → Reduction) : Crown := { c with red := f c.red }

/-- A root is the active root: root 0 while it is ready, root 1 once it has become active (R30). -/
def Crown.activeRoot (c : Crown) : Bool :=
  c.role == 3 && (if c.bring.boot.root1 then c.red.active else c.g BZ_BOOT_STAT_PHASE == 7)

/-- A section of the configuration in force. -/
def Crown.sec (c : Crown) (t : Nat) : List Byte := sectionOf c.image t

/-- The topology entry in force of a downlink port. -/
def Crown.port (c : Crown) (p : Nat) : PortEntry := c.ports.get (fun _ => PortEntry.unused) p

/-- The node word of the die or crown on a downlink port: its logical word, or the PHYS word of the port (R20, R21). -/
def Crown.portWord (c : Crown) (p : Nat) : Nat :=
  if (c.port p).kind = 1 then childWord c.node (c.port p).num else physNode c.node p

/-- The logical ports, by rising port number. -/
def Crown.logical (c : Crown) : List Nat := numsWhere 64 (fun p => (c.port p).kind == 1)

/-- The downlink port toward a node below this crown; none for another node. -/
def Crown.portToward (c : Crown) (n : Nat) : Option Nat :=
  if !inSubtree c.node n then none
  else if bitOf n 27 && nodeLevel n + 1 = nodeLevel c.node then
    some (if nodeLevel n = 0 then bitsOf n 5 0 else if nodeLevel n = 1 then bitsOf n 11 6 else bitsOf n 17 12)
  else
    let num := match nodeLevel c.node with
      | 1 => bitsOf n 5 0
      | 2 => bitsOf n 11 6
      | _ => bitsOf n 17 12
    lowest 64 (fun p => (c.port p).kind == 1 && (c.port p).num == num)

/-- The port of the logical child that a node word names (R17). -/
def Crown.portOfChild (c : Crown) (w : Nat) : Option Nat := lowest 64 (fun p => (c.port p).kind == 1 && sameNode (childWord c.node (c.port p).num) w)

/-- The node words of the crown's time and record children, by lane: the far end's word on a downlink. -/
def Crown.farWord (c : Crown) (k : Nat) : Nat := c.g (BK_NODE_FAR_NODE (c.toNode.lb k))

/-- An up lane is in service. -/
def Crown.upInService (c : Crown) : Bool := c.toNode.up 64 || c.toNode.up 65

/-- The crown runs in host mode (R430). -/
def Crown.hostMode (c : Crown) : Bool := c.g BZ_MODE_STAT_MODE == 1

/-- A change to bring-up. -/
def Crown.onBoot (c : Crown) (f : CrownBoot → CrownBoot) : Crown := { c with bring := { c.bring with boot := f c.bring.boot } }

/-- The crown runs in basic mode (R430). -/
def Crown.basic (c : Crown) : Bool := c.g BZ_MODE_STAT_MODE == 2

/-- Records for platform software leave here (R26). -/
def Crown.exitHere (c : Crown) : Bool := c.top || c.hostMode

/-- A record for platform software (R26): out at the host interface where there is one in use, and toward the root. -/
def Crown.sendUp (c : Crown) (r : Rec) : Crown :=
  let c := if c.exitHere then c.emit (.word "host" r.bytes) else c
  if c.top then c else c.on (·.postUp r)

/-- A record whose body begins with a stamp taken now (R34). -/
def Crown.stampedRec (c : Crown) (kind cls : Nat) (rest : List Byte) (qualAt : Option (Nat × Nat)) : Rec :=
  { kind := kind, cls := cls, body := twBytes c.toNode.now ++ rest, stamp := c.toNode.stamp, stampAt := 0, qualAt := qualAt, crcTail := false }

/-- A bulk body down a lane (R415). -/
def Crown.bulkDown (c : Crown) (k : Nat) (body : List Byte) : Crown := c.on (·.bulkOn k body)

/-- A bulk body toward the parent (R415). -/
def Crown.bulkUp (c : Crown) (body : List Byte) : Crown := c.on (·.bulkUp body)

end Sys2Proof.Machine
end

