-- ==== Sys2Proof/Machine/Hbm.lean ====
section
/-! DEFINITION. HBM bytes (spec/10_crown_engine.md R256 to R258, R273) and the descriptor and completion rings that every queue
of the crown uses (R259, R260). -/

namespace Sys2Proof.Machine

/-! ### Bytes -/

/-- HBM holds 640 GB (R256). -/
def hbmSize : Nat := 640000000000

/-- What an HBM byte that nothing has written reads as (log entry 4). -/
def hbmUnwritten : Nat → Byte := fun _ => Config.unwrittenByte

/-- The HBM byte at an address. -/
def Crown.hbmByte (c : Crown) (a : Nat) : Byte := c.hbm.get hbmUnwritten a

/-- `n` HBM bytes from an address on. -/
def Crown.hbmBytes (c : Crown) (a n : Nat) : List Byte := (List.range n).map (fun i => c.hbmByte (a + i))

/-- The controller that a byte lies on: 4 KiB stripes (R256). -/
def mcOf (a : Nat) : Nat := a / 4096 % 8

/-- The first bytes of the 128-byte units that a span of an address and a length touches. -/
def hbmUnits (s : Nat × Nat) : List Nat :=
  if s.2 = 0 then [] else (List.range ((s.1 + s.2 - 1) / 128 + 1 - s.1 / 128)).map (fun i => (s.1 / 128 + i) * 128)

/-- Each controller counts its units of the spans moved (R273; log entry 32). -/
def Crown.countUnits (c : Crown) (f : Nat → Fld) (l : List (Nat × Nat)) : Crown :=
  let us := l.flatMap hbmUnits
  (List.range 8).foldl (fun (c : Crown) k =>
    let n := (us.filter (fun a => mcOf a == k)).length
    if n = 0 then c else c.inc (f k) n) c

/-- An access beyond the address space is noted (R256). -/
def Crown.bound (c : Crown) (a n : Nat) : Crown := if n = 0 ∨ a + n ≤ hbmSize then c else { c with stray := true }

/-- A read of `n` bytes from an address on. -/
def Crown.touch (c : Crown) (a n : Nat) : Crown := (c.bound a n).countUnits BZ_MCc_RDB_COUNT [(a, n)]

/-- One byte written. -/
def Crown.hbmPut (c : Crown) (a : Nat) (b : Byte) : Crown := { c with hbm := c.hbm.set hbmUnwritten a b }

/-- Bytes written from an address on. -/
def Crown.hbmWrite (c : Crown) (a : Nat) (l : List Byte) : Crown :=
  let c := (c.bound a l.length).countUnits BZ_MCc_WRB_COUNT [(a, l.length)]
  (List.range l.length).foldl (fun (c : Crown) i => c.hbmPut (a + i) (l.getD i 0)) c

/-- Bytes whose values nothing gives: the output of a job that did not complete (R267, log entry 3). Nothing is accessed: an output that lies
beyond HBM has no bytes there. -/
def Crown.hbmVoid (c : Crown) (a n : Nat) : Crown :=
  let f := c.fresh
  let c := c.on (fun x => { x with fresh := x.fresh + n })
  (List.range n).foldl (fun (c : Crown) i => if a + i < hbmSize then c.hbmPut (a + i) (BitVec.ofNat 8 (Config.free (f + i))) else c) c

/-- Each controller counts what its ECC corrected while an operation read (R257); how much that is comes with no command (free values,
log entry 119). -/
def Crown.hbmCorrected (c : Crown) : Crown :=
  (List.range 8).foldl (fun (c : Crown) k =>
    let (n, c) := c.draw 32
    c.inc (BZ_MCc_CE_COUNT k) n) c

/-- A poisoned read is counted at the controller its byte lies on (R257); the fault does not carry the byte, so which of the eight it is
is a free value (log entry 119). -/
def Crown.poisoned (c : Crown) : Crown :=
  let (k, c) := c.draw 3
  c.inc (BZ_MCc_UE_COUNT k) 1

/-- Every controller reads READY (R257). -/
def Crown.hbmReady (c : Crown) : Bool := (List.range 8).all (fun k => c.g (BZ_MCc_STAT_STATE k) == 2)

/-- A 4 KiB page's first byte. -/
def pageAddr (p : Nat) : Nat := p * 4096

/-! ### Rings (R259, R260) -/

/-- Where the registers of a ring stand. -/
structure Ring where
  en : Fld
  size : Fld
  base : Fld
  head : Fld
  tail : Fld
  cplBase : Fld
  cplHead : Fld
  cplTail : Fld
  ovr : Fld
  /-- Bytes of a descriptor slot and of a completion slot. -/
  slot : Nat
  cslot : Nat
  deriving DecidableEq, Repr

/-- An engine or tree queue whose registers begin at `b`: slots of 128 or 64 bytes (R259, R499). -/
def jobRing (b : Nat) : Ring :=
  ⟨⟨b, 31, 31⟩, ⟨b, 19, 16⟩, ⟨b + 4, 27, 0⟩, ⟨b + 8, 15, 0⟩, ⟨b + 0xC, 15, 0⟩, ⟨b + 0x10, 27, 0⟩, ⟨b + 0x14, 15, 0⟩, ⟨b + 0x18, 15, 0⟩,
    ⟨b + 0x2C, 28, 28⟩, if b < 0xC0000 then 128 else 64, 64⟩

/-- The registers of engine queue `k`. -/
def eqBase (k : Nat) : Nat := BZ_EQk_CTRL k

/-- The registers of tree queue `k`. -/
def tqBase (k : Nat) : Nat := BZ_TQk_CTRL k

/-- Grove request ring `r` (R357). -/
def groveRing (r : Nat) : Ring :=
  ⟨BZ_GRVRr_CTRL_EN r, BZ_GRVRr_CTRL_SIZE_LOG r, BZ_GRVRr_BASE_PAGE r, BZ_GRVRr_HEAD_HEAD r, BZ_GRVRr_TAIL_TAIL r, BZ_GRVRr_CPL_BASE_PAGE r,
    BZ_GRVRr_CPL_HEAD_HEAD r, BZ_GRVRr_CPL_TAIL_TAIL r, BZ_GRVRr_CTRL_OVR r, 32, 32⟩

/-- Ring `r` of tenant view `v` (R499): 0 engine, 1 tree, 2 placement. -/
def viewRing (v r : Nat) : Ring :=
  ⟨BZ_Vv_RINGr_CTRL_EN v r, BZ_Vv_RINGr_CTRL_SIZE_LOG v r, BZ_Vv_RINGr_BASE_PAGE v r, BZ_Vv_RINGr_HEAD_HEAD v r, BZ_Vv_RINGr_TAIL_TAIL v r,
    BZ_Vv_RINGr_CPL_BASE_PAGE v r, BZ_Vv_RINGr_CPL_HEAD_HEAD v r, BZ_Vv_RINGr_CPL_TAIL_TAIL v r, BZ_Vv_RINGr_STAT_ERR v r, (if r = 0 then 128 else if r = 1 then 64 else 32), (if r = 2 then 32 else 64)⟩

/-- n: the ring's slots (R260); SIZE_LOG below 4 acts as 4. -/
def Crown.ringN (c : Crown) (r : Ring) : Nat := 2 ^ max 4 (c.g r.size)

/-- The difference of two free-running counters. -/
def cdiff (a b : Nat) : Nat := (a + 65536 - b % 65536) % 65536

/-- Descriptors in the request ring. -/
def Crown.ringHeld (c : Crown) (r : Ring) : Nat := cdiff (c.g r.tail) (c.g r.head)

/-- Free completion slots. -/
def Crown.cplFree (c : Crown) (r : Ring) : Nat := c.ringN r - cdiff (c.g r.cplTail) (c.g r.cplHead)

/-- The address of descriptor `i` after HEAD. -/
def Crown.slotAddr (c : Crown) (r : Ring) (i : Nat) : Nat := pageAddr (c.g r.base) + (c.g r.head + i) % c.ringN r * r.slot

/-- A write of TAIL (R260). -/
def Crown.writeTail (c : Crown) (r : Ring) (v : Nat) : Crown :=
  if cdiff (v % 65536) (c.g r.head) > c.ringN r then c.s r.ovr 1 else c.s r.tail v

/-- A write of CPL_HEAD (R260). -/
def Crown.writeCplHead (c : Crown) (r : Ring) (v : Nat) : Crown :=
  if cdiff (c.g r.cplTail) (v % 65536) > c.ringN r then c.s r.ovr 1 else c.s r.cplHead v

/-- `n` descriptors are read and HEAD advances past them. -/
def Crown.advanceHead (c : Crown) (r : Ring) (n : Nat) : Crown :=
  ((List.range n).foldl (fun (x : Crown) i => x.touch (c.slotAddr r i) r.slot) c).s r.head (c.g r.head + n)

/-- A completion record into the next slot, and CPL_TAIL advances (R265). -/
def Crown.writeCpl (c : Crown) (r : Ring) (rec_ : List Byte) : Crown :=
  let c := c.hbmWrite (pageAddr (c.g r.cplBase) + c.g r.cplTail % c.ringN r * r.cslot) rec_
  c.s r.cplTail (c.g r.cplTail + 1)

/-- A descriptor that the block's own unit posts in hardware: written into the slot at TAIL, and TAIL advances (R259); none when
the ring is full. -/
def Crown.postDesc (c : Crown) (r : Ring) (desc : List Byte) : Option Crown :=
  if c.ringHeld r ≥ c.ringN r then none
  else
    let c := c.hbmWrite (pageAddr (c.g r.base) + c.g r.tail % c.ringN r * r.slot) desc
    some (c.s r.tail (c.g r.tail + 1))

end Sys2Proof.Machine
end

