-- ==== Sys2Proof/Machine/Gemm.lean ====
section
/-! DEFINITION. The shape of a GEMM on its cells: tiles, rounds and panel passes, what each reads and how long it takes
(spec/10_crown_engine.md R240, R241, R264, R271). -/

namespace Sys2Proof.Machine

/-- A GEMM by the figures its course depends on. -/
structure Gemm where
  m : Nat
  n : Nat
  k : Nat
  aFmt : Nat
  bFmt : Nat
  outBytes : Nat
  accIn : Bool
  mTile : Nat
  cn : Nat
  clear : Bool
  canon : Bool
  deriving DecidableEq, Repr

/-- K_c of the job's width class (Table 10.1). -/
def Gemm.kc (g : Gemm) : Nat := kcOf (max (inBits g.aFmt) (inBits g.bFmt))

/-- Panel passes of a tile. -/
def Gemm.panels (g : Gemm) : Nat := ceilDiv g.k g.kc

/-- MB and NB: tiles along M and along N. -/
def Gemm.mb (g : Gemm) : Nat := ceilDiv g.m g.mTile
def Gemm.nb (g : Gemm) : Nat := ceilDiv g.n 96

/-- Rounds of the job. -/
def Gemm.rounds (g : Gemm) : Nat := ceilDiv (g.mb * g.nb) g.cn

/-- Rows of a tile with index `mi`, columns of one with index `ni`; the last of each direction is partial. -/
def Gemm.rows (g : Gemm) (mi : Nat) : Nat := min g.mTile (g.m - mi * g.mTile)
def Gemm.cols (g : Gemm) (ni : Nat) : Nat := min 96 (g.n - 96 * ni)

/-- Tile t = mi × NB + ni. -/
def Gemm.mi (g : Gemm) (t : Nat) : Nat := t / g.nb
def Gemm.ni (g : Gemm) (t : Nat) : Nat := t % g.nb

/-- The tiles of round `j`: those with t div CN = j, on cells t mod CN after the job's first. -/
def Gemm.tiles (g : Gemm) (j : Nat) : List Nat := ((List.range g.cn).map (j * g.cn + ·)).filter (fun t => decide (t < g.mb * g.nb))

/-- The distinct mi and the distinct ni of round `j`: each A chunk and each B panel is read once for all of them. -/
def Gemm.mis (g : Gemm) (j : Nat) : List Nat := ((g.tiles j).map g.mi).eraseDups
def Gemm.nis (g : Gemm) (j : Nat) : List Nat := ((g.tiles j).map g.ni).eraseDups

/-- r: ARQ cycles of an A row, 1 in DENSE mode and 2 in CANONICAL mode. -/
def Gemm.rate (g : Gemm) : Nat := if g.canon then 2 else 1

/-- ARQ cycles of a pass of a tile, each A row taking `slow`/8 of its cycles' worth: 8 without throttle (R240, R269). -/
def Gemm.passCycles (g : Gemm) (slow mi : Nat) : Nat := max (ceilDiv (g.rows mi * g.rate * 8) slow) 192

/-- The ARQ cycles of round `j`'s compute without throttle: its passes, and 24 for pipeline fill and accumulator drain (R240). -/
def Gemm.roundCycles (g : Gemm) (j : Nat) : Nat := (g.tiles j).foldl (fun a t => max a (g.panels * g.passCycles 8 (g.mi t) + 24)) 0

/-- Bytes of K elements of a format with their scales. -/
def Gemm.lineBytes (g : Gemm) (fmt : Nat) : Nat := g.k * inBits fmt / 8 + (if inFmtMx fmt then g.k / 32 else 0)

/-- The bytes round `j` moves. -/
def Gemm.roundBytes (g : Gemm) (j : Nat) : Nat :=
  (g.tiles j).foldl (fun a t => a + g.rows (g.mi t) * g.cols (g.ni t) * (g.outBytes + (if g.accIn then 4 else 0))) 0
    + (g.mis j).foldl (fun a mi => a + g.rows mi * g.lineBytes g.aFmt) 0
    + (g.nis j).foldl (fun a ni => a + g.cols ni * g.lineBytes g.bFmt) 0

/-! ### The time model (R271), in 10^-18 s -/

/-- The time of cycles at a frequency in the units of `clockFreq`. -/
def cycleTime (cyc f : Nat) : Nat := ceilDiv (cyc * 360360 * 10000000000) f

/-- The time of bytes at a percentage of the sustained HBM bandwidth. -/
def byteTime (n share : Nat) : Nat := ceilDiv (n * 10000000000000) (1179648 * max 1 share)

/-- t_job at f_ARQ and a share of HBM bandwidth in %. -/
def Gemm.time (g : Gemm) (f share : Nat) : Nat :=
  (List.range g.rounds).foldl (fun t j => t + max (cycleTime (g.roundCycles j) f) (byteTime (g.roundBytes j) share)) 1000000000000
    + (if g.clear then cycleTime 2048 f else 0)

end Sys2Proof.Machine
end

