-- ==== Sys2Proof/Machine/Engine.lean ====
section
/-! DEFINITION. The crown engine (spec/10_crown_engine.md R242 to R270): the cell map, descriptors, jobs on their cells, the
arithmetic of a job, completion, faults and restarts. -/

namespace Sys2Proof.Machine

/-! ### The cell map (R242 to R245) -/

/-- A local logical cell is mapped. -/
def Crown.cellValid (c : Crown) (q l : Nat) : Bool := c.flag (BZ_CMAPq_l_VALID q l)

/-- A local physical cell is in the bad set. -/
def Crown.cellBad (c : Crown) (q p : Nat) : Bool := bitOf (c.g (BZ_CBADq_w_BAD q (p / 32))) (p % 32)

/-- A bad-set bit is set; none is ever cleared (R243). -/
def Crown.setBad (c : Crown) (q p : Nat) : Crown := c.s (BZ_CBADq_w_BAD q (p / 32)) (c.g (BZ_CBADq_w_BAD q (p / 32)) ||| 2 ^ (p % 32))

/-- The logical cell that a physical cell is mapped to. -/
def Crown.cellUser (c : Crown) (q p : Nat) : Option Nat := lowest 128 (fun l => c.cellValid q l && c.g (BZ_CMAPq_l_PHYS q l) == p)

/-- The lowest-numbered free good spare of a quadrant (R242, R244). -/
def Crown.freeSpare (c : Crown) (q : Nat) : Option Nat := lowest 144 (fun p => !c.cellBad q p && (c.cellUser q p).isNone)

/-- A logical cell mapped, or left vacant. -/
def Crown.mapCell (c : Crown) (q l : Nat) (p : Option Nat) : Crown :=
  match p with
  | some p => (c.s (BZ_CMAPq_l_VALID q l) 1).s (BZ_CMAPq_l_PHYS q l) p
  | none => c.s (BZ_CMAPq_l_VALID q l) 0

/-- The map formed from the bad set at bring-up (R242): logical cells in ascending number. -/
def Crown.formMap (c : Crown) : Crown :=
  (List.range 4).foldl (fun (c : Crown) q => (List.range 128).foldl (fun (c : Crown) l =>
    if c.cellValid q l && c.cellBad q (c.g (BZ_CMAPq_l_PHYS q l)) then (c.mapCell q l none).mapCell q l (c.freeSpare q) else c) c) c

/-- The global physical cell under a global logical cell. -/
def Crown.physOf (c : Crown) (g : Nat) : Nat := 144 * (g / 128) + c.g (BZ_CMAPq_l_PHYS (g / 128) (g % 128))

/-! ### Descriptors (R261, R262) -/

/-- Fields of a descriptor (Table 10.5). -/
def jOp (d : List Byte) : Nat := field d 0 1
def jCanon (d : List Byte) : Bool := bitOf (field d 1 1) 0
def jAccIn (d : List Byte) : Bool := bitOf (field d 1 1) 1
def jChain (d : List Byte) : Bool := bitOf (field d 1 1) 2
def jClear (d : List Byte) : Bool := bitOf (field d 1 1) 3
def jAFmt (d : List Byte) : Nat := field d 2 1
def jBFmt (d : List Byte) : Nat := field d 3 1
def jOutFmt (d : List Byte) : Nat := field d 4 1
def jMt (d : List Byte) : Nat := field d 5 1
def jRetry (d : List Byte) : Nat := field d 6 1 % 8
def jM (d : List Byte) : Nat := field d 8 4
def jN (d : List Byte) : Nat := field d 12 4
def jK (d : List Byte) : Nat := field d 16 4
def jCb (d : List Byte) : Nat := field d 20 2
def jCn (d : List Byte) : Nat := field d 22 2
def jA (d : List Byte) : Nat := field d 24 8
def jB (d : List Byte) : Nat := field d 32 8
def jC (d : List Byte) : Nat := field d 40 8
def jOut (d : List Byte) : Nat := field d 48 8
def jAs (d : List Byte) : Nat := field d 56 8
def jBs (d : List Byte) : Nat := field d 64 8
def jALd (d : List Byte) : Nat := field d 72 4
def jBLd (d : List Byte) : Nat := field d 76 4
def jCLd (d : List Byte) : Nat := field d 80 4
def jTag (d : List Byte) : List Byte := slice d 88 8

/-- The greatest M_TILE of a job's mode (R241). -/
def tileLimit (d : List Byte) : Nat := if jCanon d then 96 else if inFmtInt (jAFmt d) then 512 else 1024

/-- Bytes of a row of A, a column of B, a row of OUT and of C. -/
def jARow (d : List Byte) : Nat := rowBytes (inBits (jAFmt d)) (jK d)
def jBCol (d : List Byte) : Nat := rowBytes (inBits (jBFmt d)) (jK d)
def jORow (d : List Byte) : Nat := jN d * outBytes (jOutFmt d)
def jCRow (d : List Byte) : Nat := jN d * 4

/-- The span of `n` rows of `len` bytes with a stride: first address and bytes. -/
def rowSpan (a n ld len : Nat) : Nat × Nat := (a, (n - 1) * ld + len)

/-- The spans a job reads and writes. -/
def jReads (d : List Byte) : List (Nat × Nat) :=
  if jOp d = 2 then [rowSpan (jA d) (jM d) (jALd d) (jK d)]
  else [rowSpan (jA d) (jM d) (jALd d) (jARow d), rowSpan (jB d) (jN d) (jBLd d) (jBCol d)]
    ++ (if inFmtMx (jAFmt d) then [(jAs d, jM d * (jK d / 32)), (jBs d, jN d * (jK d / 32))] else [])
    ++ (if jAccIn d then [rowSpan (jC d) (jM d) (jCLd d) (jCRow d)] else [])

/-- The span a job writes. -/
def jWrites (d : List Byte) : Nat × Nat := rowSpan (jOut d) (jM d) (jCLd d) (if jOp d = 2 then jK d else jORow d)

/-- A span lies within pages lo to hi, both inclusive (R258). -/
def inPages (lo hi : Nat) (s : Nat × Nat) : Bool := decide (lo * 4096 ≤ s.1) && decide (s.1 + s.2 ≤ (hi + 1) * 4096)

/-- Whether a descriptor is bad for a queue with the given windows (R262). -/
def jBad (d : List Byte) (rlo rhi wlo whi : Nat) : Bool :=
  let gemm := jOp d == 1
  let range := fun (x lo : Nat) => decide (lo ≤ x) && decide (x ≤ 16777216)
  !(jOp d == 1 || jOp d == 2)
    || !fmtsOk (jAFmt d) (jBFmt d) (jOutFmt d)
    || jMt d == 0 || decide (32 * jMt d > tileLimit d)
    || !range (jM d) 1 || !range (jN d) 1 || !range (jK d) 32 || jK d % 32 != 0
    || (gemm && (jCn d == 0 || decide (jCb d + jCn d > 512)))
    || (if gemm then decide (jALd d < jARow d) || decide (jBLd d < jBCol d) || decide (jCLd d < jORow d) || (jAccIn d && decide (jCLd d < jCRow d))
        else decide (jALd d < jK d) || decide (jCLd d < jK d))
    || !((jReads d).all (inPages rlo rhi)) || !(inPages wlo whi (jWrites d))

/-! ### The arithmetic of a job (R247 to R254) -/

/-- The block scale of a row: a NaN scale makes its elements NaN (R246, R252). -/
def scaleNum (mx : Bool) (s : Byte) (x : Int → Num) : Num := if !mx then x 0 else if s = 0xFF then .nan else x ((s.toNat : Int) - 127)

/-- One element's products. -/
def jobProd (c : Crown) (d : List Byte) (m n k : Nat) : Num :=
  let mxa := inFmtMx (jAFmt d)
  let a := elemCode (inBits (jAFmt d)) (fun i => c.hbmByte (jA d + m * jALd d + i)) k
  let b := elemCode (inBits (jBFmt d)) (fun i => c.hbmByte (jB d + n * jBLd d + i)) k
  let x := scaleNum mxa (c.hbmByte (jAs d + m * (jK d / 32) + k / 32)) (decodeIn (jAFmt d) a)
  let y := scaleNum mxa (c.hbmByte (jBs d + n * (jK d / 32) + k / 32)) (decodeIn (jBFmt d) b)
  x.mul y

/-- The C term in units of 2^-160 (R248). -/
def jobC (c : Crown) (d : List Byte) (m n : Nat) : Num :=
  let w := ofLe (c.hbmBytes (jC d + m * jCLd d + 4 * n) 4)
  if jOutFmt d = 5 then .fin (bitOf w 31) (sgn 32 w * 2 ^ 160) else decodeFmt fmtFp32 w 160

/-- One output element (R249, R250). -/
def jobElem (c : Crown) (d : List Byte) (m n : Nat) : Rounded :=
  let cn := if jAccIn d then jobC c d m n else .fin false 0
  if inFmtInt (jAFmt d) then intElem (jOutFmt d) (jAccIn d) cn (jK d) (jobProd c d m n)
  else if jCanon d then canonElem (jOutFmt d) (jAccIn d) cn (jK d) (jobProd c d m n)
  else denseElem (jOutFmt d) (jAccIn d) cn (jK d) (jobProd c d m n)

/-- The GEMM of a descriptor. -/
def jGemm (d : List Byte) : Gemm :=
  ⟨jM d, jN d, jK d, jAFmt d, jBFmt d, outBytes (jOutFmt d), jAccIn d, 32 * jMt d, jCn d, jClear d, jCanon d⟩

/-- A job's output rows and the OR of its flags (R254). -/
def jobOut (c : Crown) (d : List Byte) : List (List Byte) × Nat :=
  if jOp d = 2 then ((List.range (jM d)).map (fun m => c.hbmBytes (jA d + m * jALd d) (jK d)), 0)
  else
    let rows := (List.range (jM d)).map (fun m => (List.range (jN d)).map (jobElem c d m))
    (rows.map (fun r => r.flatMap (fun e => le (outBytes (jOutFmt d)) e.code)), rows.foldl (fun a r => r.foldl (fun a e => a ||| e.flags) a) 0)

/-- The spans a GEMM reads as it runs, in order of its rounds (R264): in each pass each A chunk and each B panel once, with their scales; the C
rows of each tile. -/
def gemmReads (d : List Byte) : List (Nat × Nat) :=
  let g := jGemm d
  (List.range g.rounds).flatMap (fun j =>
    (List.range g.panels).flatMap (fun p =>
      let k0 := p * g.kc
      let ks := min g.kc (g.k - k0)
      let lines := fun (first n addr ld fmt scales : Nat) => (List.range n).flatMap (fun i =>
        (addr + (first + i) * ld + k0 * inBits fmt / 8, ks * inBits fmt / 8)
          :: (if inFmtMx fmt then [(scales + (first + i) * (g.k / 32) + k0 / 32, ks / 32)] else []))
      (g.mis j).flatMap (fun mi => lines (mi * g.mTile) (g.rows mi) (jA d) (jALd d) g.aFmt (jAs d))
        ++ (g.nis j).flatMap (fun ni => lines (96 * ni) (g.cols ni) (jB d) (jBLd d) g.bFmt (jBs d)))
    ++ (if g.accIn then (g.tiles j).flatMap (fun t => (List.range (g.rows (g.mi t))).map (fun i =>
          (jC d + (g.mi t * g.mTile + i) * jCLd d + 4 * (96 * g.ni t), 4 * g.cols (g.ni t)))) else []))

/-- The pieces in which a job writes its outputs: row, first byte of the row and bytes; a GEMM's tile by tile (R264), a copy's rows. -/
def jobPieces (d : List Byte) : List (Nat × Nat × Nat) :=
  if jOp d = 2 then (List.range (jM d)).map (fun m => (m, 0, jK d))
  else
    let g := jGemm d
    (List.range g.rounds).flatMap (fun j => (g.tiles j).flatMap (fun t =>
      (List.range (g.rows (g.mi t))).map (fun i => (g.mi t * g.mTile + i, 96 * g.ni t * g.outBytes, g.cols (g.ni t) * g.outBytes))))

/-- A job writes the byte at an address; its rows do not overlap (R262). -/
def jWritesByte (d : List Byte) (a : Nat) : Bool :=
  decide (jOut d ≤ a) && decide ((a - jOut d) / jCLd d < jM d) && decide ((a - jOut d) % jCLd d < (if jOp d = 2 then jK d else jORow d))

/-- The byte that a job writes at one of its addresses, from HBM as it stands. -/
def jobByte (c : Crown) (d : List Byte) (a : Nat) : Byte :=
  let m := (a - jOut d) / jCLd d
  let i := (a - jOut d) % jCLd d
  if jOp d = 2 then c.hbmByte (jA d + m * jALd d + i)
  else (le (outBytes (jOutFmt d)) (jobElem c d m (i / outBytes (jOutFmt d))).code).getD (i % outBytes (jOutFmt d)) 0

/-- The bytes of a span that some of the jobs write. -/
def bytesWritten (l : List (List Byte)) (s : Nat × Nat) : List Nat :=
  let near := l.filter (fun d => decide ((jWrites d).1 < s.1 + s.2) && decide (s.1 < (jWrites d).1 + (jWrites d).2))
  if near.isEmpty then [] else ((List.range s.2).map (s.1 + ·)).filter (fun a => near.any (jWritesByte · a))

/-- One of several bytes, which one being a free choice; an entry `none` stands for a value that nothing gives (log entries 3 and 82). -/
def Crown.pickByte (c : Crown) (l : List (Option Byte)) : Byte × Crown :=
  let (i, c) := c.draw 16
  match l[i % l.length]? with
  | some (some b) => (b, c)
  | _ =>
    let (v, c) := c.draw 8
    (BitVec.ofNat 8 v, c)

/-- HBM with each of some bytes at one of the values a function gives for it. -/
def Crown.hbmSettle (c : Crown) (l : List Nat) (values : Nat → List (Option Byte)) : Crown :=
  l.foldl (fun (c : Crown) a =>
    let (b, c) := c.pickByte (values a)
    c.hbmPut a b) c

/-- What the running jobs of other queues write at an address while a chain runs, from HBM as it stands; not given where such a job itself reads
what others write. -/
def rivalBytes (c : Crown) (own running : List (List Byte)) (a : Nat) : List (Option Byte) :=
  (running.filter (jWritesByte · a)).map (fun d =>
    if (jReads d).any (fun s => !(bytesWritten (own ++ running.filter (· != d)) s).isEmpty) then none else some (jobByte c d a))

/-- Runs one member: its outputs written; the flags (R258, R264). `own` are the chain's members, `running` the jobs that run in other queues,
`done` those that wrote while it ran. A byte it reads that another of them writes is old or new data, and a byte it writes together with them
holds one of the written values (log entry 82); what a chain reads of its own writes is open (R266). -/
def Crown.runJob (c : Crown) (own running : List (List Byte)) (done : List Rival) (d : List Byte) : Crown × Nat :=
  let seen := c.hbmSettle ((jReads d).flatMap (bytesWritten (own ++ running ++ done.map (·.desc)))) (fun a =>
    some (c.hbmByte a) :: (if own.any (jWritesByte · a) then [none] else []) ++ rivalBytes c own running a
      ++ done.flatMap (fun r => (r.old.filter (fun x => x.1 == a)).map (fun x => some x.2)))
  let (rows, fl) := jobOut seen d
  let reads := if jOp d = 2 then (List.range (jM d)).map (fun m => (jA d + m * jALd d, jK d)) else gemmReads d
  let x := ((jReads d).foldl (fun (c : Crown) s => c.bound s.1 s.2) { seen with hbm := c.hbm }).countUnits BZ_MCc_RDB_COUNT reads
  let x := (jobPieces d).foldl (fun (x : Crown) p => x.hbmWrite (jOut d + p.1 * jCLd d + p.2.1) (slice (rows.getD p.1 []) p.2.1 p.2.2)) x
  let shared := (bytesWritten (running ++ done.map (·.desc)) (jWrites d)).filter (jWritesByte d)
  (x.hbmSettle shared (fun a => some (x.hbmByte a) :: rivalBytes c own running a
    ++ (if done.any (fun r => jWritesByte r.desc a) then [some (c.hbmByte a)] else [])), fl)

/-! ### Queues (R259 to R266) -/

/-- The job of an engine queue. -/
def Crown.engJob (c : Crown) (k : Nat) : Option EngJob := c.eng.q.jobs.get (fun _ => none) k

/-- A queue's job replaced, with RUNNING. -/
def Crown.setEngJob (c : Crown) (k : Nat) (j : Option EngJob) : Crown :=
  let c : Crown := { c with eng := { c.eng with q := { c.eng.q with jobs := c.eng.q.jobs.set (fun _ => none) k j } } }
  c.s (BZ_EQk_STAT_RUNNING k) (b2n (j.any (·.running)))

/-- The descriptors of the job or chain at the head of a ring; none while its last member has not been submitted (R266). -/
def chainAt (fuel : Nat) (c : Crown) (r : Ring) (i : Nat) : Option (List (List Byte)) :=
  match fuel with
  | 0 => none
  | m + 1 =>
    if i ≥ c.ringHeld r then none
    else
      let d := c.hbmBytes (c.slotAddr r i) 96
      if jChain d then (chainAt m c r (i + 1)).map (d :: ·) else some [d]

/-- The chain a queue would start: the one it holds after a fault, else the one at its ring's head. -/
def Crown.nextChain (c : Crown) (k : Nat) : Option (List (List Byte)) :=
  match c.engJob k with
  | some j => if j.running then none else some j.descs
  | none => chainAt 65536 c (jobRing (eqBase k)) 0

/-- A queue's head is ready (R263): enabled, nothing of the queue running, and a completion slot for each member. -/
def Crown.engReady (c : Crown) (k : Nat) : Bool :=
  let r := jobRing (eqBase k)
  c.flag r.en && (match c.nextChain k with
    | none => false
    | some l => decide (l.length ≤ c.cplFree r))

/-- The cells a chain names. -/
def chainCells (l : List (List Byte)) : List Nat :=
  (l.flatMap (fun d => if jOp d = 1 then (List.range (jCn d)).map (jCb d + ·) else [])).eraseDups

/-- Every cell that running jobs hold. -/
def Crown.busyCells (c : Crown) : List Nat :=
  c.eng.q.jobs.flatMap (fun e => match e.2 with
    | some j => if j.running then chainCells j.descs else []
    | none => [])

/-- A quadrant is fenced by the self leaf's guard output (R269). -/
def Crown.fenced (c : Crown) (q : Nat) : Bool := c.self.toNode.flag (TZ_GRDg_STAT_FENCE q)

/-- A cell may start a job: valid, unfenced, free, and no map command in progress names it (R245, R263). -/
def Crown.cellFree (c : Crown) (g : Nat) : Bool :=
  c.cellValid (g / 128) (g % 128) && !c.fenced (g / 128) && !c.busyCells.contains g && c.eng.mapping != some (g / 128, g % 128)

/-- STAT of a queue: WAITING while its ready head lacks cells, CPL_FULL while its head lacks completion slots (Table 10.8). -/
def Crown.engStat (c : Crown) (k : Nat) : Crown :=
  let r := jobRing (eqBase k)
  let l := (c.nextChain k).getD []
  let full := c.flag r.en && !l.isEmpty && decide (l.length > c.cplFree r)
  let waits := c.engReady k && !((chainCells l).all c.cellFree)
  (c.s (BZ_EQk_STAT_WAITING k) (b2n waits)).s (BZ_EQk_STAT_CPL_FULL k) (b2n full)

/-- Follows which heads are ready, and since when (R263). -/
def Crown.engRescan (c : Crown) : Crown :=
  let t := c.toNode.now
  let ready := (List.range 8).foldl (fun (a : Tab (Option Nat)) k =>
    a.set (fun _ => none) k (if c.engReady k then some ((a.get (fun _ => none) k).getD t) else none)) c.eng.q.ready
  let c : Crown := { c with eng := { c.eng with q := { c.eng.q with ready := ready } } }
  (List.range 8).foldl Crown.engStat c

/-- Whether ready queue `i` ranks above `k`: lower PRIO, earlier ready time, lower number (R263). -/
def Crown.ranksAbove (c : Crown) (i k : Nat) : Bool :=
  match c.eng.q.ready.get (fun _ => none) i, c.eng.q.ready.get (fun _ => none) k with
  | some a, some b =>
    let p := c.g (BZ_EQk_CTRL_PRIO i)
    let q := c.g (BZ_EQk_CTRL_PRIO k)
    if p ≠ q then p < q else if a ≠ b then a < b else i < k
  | _, _ => false

/-- A queue's windows (R258). -/
def Crown.descBad (c : Crown) (b : Nat) (d : List Byte) : Bool :=
  jBad d (c.g ⟨b + 0x1C, 27, 0⟩) (c.g ⟨b + 0x20, 27, 0⟩) (c.g ⟨b + 0x24, 27, 0⟩) (c.g ⟨b + 0x28, 27, 0⟩)

/-- A completion record (Table 10.6). CYCLES are those of the domain's clock as it ran (R265; log entry 33). -/
def cplRecord (d : List Byte) (status fault restarts flags queue : Nat) (start end_ : Stamp) (cycles : Nat) : List Byte :=
  jTag d ++ byte status ++ byte fault ++ byte restarts ++ byte flags ++ byte (queue + 8 * b2n (jCanon d))
    ++ byte (start.qual.code + 4 * end_.qual.code) ++ zeros 2 ++ twBytes start.t ++ twBytes end_.t ++ le 8 cycles ++ zeros 8

/-- Completion records of a chain, in order, DONE counted (R265, R266). -/
def Crown.engComplete (c : Crown) (k : Nat) (recs : List (List Byte)) : Crown :=
  let r := jobRing (eqBase k)
  let c := recs.foldl (fun (c : Crown) x => (c.writeCpl r x).count (BZ_EQk_DONE_COUNT k)) c
  (c.setEngJob k none).engRescan

/-- The cells of one member as its place leaves them (R240, R264): tile t on cell CB + (t mod CN). -/
def Crown.holdCells (c : Crown) (d : List Byte) (p : JobPlace) : Crown :=
  let g := jGemm d
  let cells := (g.tiles p.round).foldl (fun (a : Tab (Option CellHold)) t =>
    a.set (fun _ => none) (c.physOf (jCb d + t % g.cn)) (some ⟨t, p.pass,
      if p.pass + 1 < g.panels then some (t, p.pass + 1) else if t + g.cn < g.mb * g.nb then some (t + g.cn, 0) else none⟩)) c.eng.cells
  if jOp d = 1 then { c with eng := { c.eng with cells := cells } } else c

/-- The cells that a job of queue `k` leaves written with zeros (R255): those of the members with CLEAR, and of every member of queues 6 and 7. -/
def Crown.clearCells (c : Crown) (k : Nat) (l : List (List Byte)) : Crown :=
  let cleared := chainCells (l.filter (fun d => decide (k ≥ 6) || jClear d))
  let cells := cleared.foldl (fun (a : Tab (Option CellHold)) g => a.set (fun _ => none) (c.physOf g) none) c.eng.cells
  { c with eng := { c.eng with cells := cells } }

/-- The clock of a chain: that of the quadrant its first member's CB names (R265; log entry 33). -/
def Crown.chainHz (c : Crown) (l : List (List Byte)) : Nat := c.hz (5 + jCb (l.getD 0 []) / 128 % 4)

/-- A chain that completes without running, or after its faults, with one status for each member (log entry 31). -/
def Crown.engEnd (c : Crown) (k : Nat) (j : EngJob) (status : Nat) : Crown :=
  c.engComplete k (j.descs.map (fun d => cplRecord d status j.lastFault j.restarts 0 k j.start c.toNode.stamp (j.cyc / 1000000000)))

/-- JOB_START (R257, R262, R263): queue `k`'s ready head completes at once, or claims its cells and starts. -/
def Crown.jobStart (c : Crown) (k : Nat) : Crown :=
  let c := c.engRescan
  let r := jobRing (eqBase k)
  if !c.engReady k then c
  else match c.nextChain k with
    | none => c
    | some l =>
      let j : EngJob := match c.engJob k with
        | some j => EngJob.begin j.descs c.toNode.stamp j.restarts j.lastFault
        | none => EngJob.begin l c.toNode.stamp 0 0
      let take := fun (c : Crown) => if (c.engJob k).isNone then c.advanceHead r l.length else c
      let cells := chainCells l
      if !c.hbmReady then (take c).engEnd k j 5
      else if !c.flag BZ_ENG_CTRL_EN || c.basic then c
      else if l.any (c.descBad (eqBase k)) then (take c).engEnd k j 2
      else if cells.any (fun g => !c.cellValid (g / 128) (g % 128)) then (take c).engEnd k j 3
      else if !(cells.all c.cellFree) then c
      else if (List.range 8).any (fun i => i != k && c.engReady i && c.ranksAbove i k
          && (match c.nextChain i with
              | none => false
              | some o => (chainCells o).any cells.contains)) then c
      else (((take c).holdCells (l.getD 0 []) j.place).setEngJob k (some j)).engRescan

/-- Descriptors of the jobs that run in other queues. -/
def Crown.otherJobs (c : Crown) (k : Nat) : List (List Byte) :=
  (List.range 8).flatMap (fun i => match c.engJob i with
    | some j => if i ≠ k ∧ j.running then j.descs else []
    | none => [])

/-- Queue `k`'s job has written: the jobs running in other queues remember what stood before in the bytes they read (R258). -/
def Crown.noteRival (c before : Crown) (k : Nat) (l : List (List Byte)) : Crown :=
  (List.range 8).foldl (fun (c : Crown) i => match c.engJob i with
    | some j =>
      if i ≠ k ∧ j.running then c.setEngJob i (some { j with rivals := j.rivals ++ l.map (fun d =>
        ⟨d, (j.descs.flatMap (fun x => (jReads x).flatMap (bytesWritten [d]))).eraseDups.map (fun a => (a, before.hbmByte a))⟩) })
      else c
    | none => c) c

/-- JOB_COMPLETE (R255, R258, R265, R266): the running job's members run in order and their records are written. What the cells' SECDED and the
controllers corrected meanwhile comes with no command (free values, log entry 119). -/
def Crown.jobComplete (c : Crown) (k : Nat) : Crown :=
  match c.engJob k with
  | none => c
  | some j =>
    if !j.running then c
    else
      let (x, recs) := j.descs.foldl (fun (a : Crown × List (List Byte)) d =>
        let (x, fl) := a.1.runJob j.descs (c.otherJobs k) j.rivals d
        (x, a.2 ++ [cplRecord d 0 j.lastFault j.restarts fl k j.start c.toNode.stamp (j.cyc / 1000000000)])) (c, [])
      let (ce, x) := x.draw 32
      (((((x.inc BZ_ENG_CE_COUNT ce).hbmCorrected).noteRival c k j.descs).clearCells k j.descs).engComplete k recs)

/-- The outputs of a stopped chain are void (R267). -/
def Crown.voidOutputs (c : Crown) (l : List (List Byte)) : Crown :=
  l.foldl (fun (c : Crown) d => (List.range (jM d)).foldl (fun (c : Crown) m =>
    c.hbmVoid (jOut d + m * jCLd d) (if jOp d = 2 then jK d else jORow d)) c) c

/-- A running chain stops: its outputs are void, and its cells are freed (R255, R267). -/
def Crown.stopChain (c : Crown) (k : Nat) (l : List (List Byte)) : Crown := ((c.voidOutputs l).noteRival c k l).clearCells k l

/-- ENGINE_FAULT (R267, R268): a fault stops queue `k`'s running job; it waits to restart, or completes FAILED past RETRY_MAX, or
NOCELL when a cell has become vacant. `pcell` is the global physical cell, 0x3FF when none. -/
def Crown.engineFault (c : Crown) (k code pcell : Nat) : Crown :=
  match c.engJob k with
  | none => c
  | some j =>
    if !j.running ∨ code = 0 ∨ code > 8 then c
    else
      let c := (((c.count BZ_ENG_FAULTS_COUNT).s BZ_ENG_FLT_LAST_CODE code).s BZ_ENG_FLT_LAST_QUEUE k).s BZ_ENG_FLT_LAST_PCELL pcell
      let c := if code = 4 then c.poisoned else c
      let c := c.stopChain k j.descs
      let j := { j with lastFault := code, running := false }
      if (chainCells j.descs).any (fun g => !c.cellValid (g / 128) (g % 128)) then c.engEnd k j 3
      else if j.restarts + 1 > jRetry (j.descs.getD 0 []) then c.engEnd k j 1
      else ((c.setEngJob k (some { j with restarts := j.restarts + 1 })).count (BZ_EQk_RESTART_COUNT k)).engRescan

/-- ABORT_QUEUE (R268): the running job completes ABORTED and EN clears. -/
def Crown.abortQueue (c : Crown) (k : Nat) : Crown :=
  let c := c.s (BZ_EQk_CTRL_EN k) 0
  match c.engJob k with
  | none => c.engRescan
  | some j => (if j.running then c.stopChain k j.descs else c).engEnd k { j with running := false } 4

/-- The queues whose running job holds a logical cell. -/
def Crown.holders (c : Crown) (g : Nat) : List Nat :=
  (List.range 8).filter (fun k => match c.engJob k with
    | some j => j.running && (chainCells j.descs).contains g
    | none => false)

/-- A map command refused (R244). -/
def Crown.mapRefuse (c : Crown) (e : Nat) : Crown := (c.s BZ_CMAP_STAT_ERR 1).s BZ_CMAP_STAT_ECODE e

/-- A running job on the cell of a map command takes fault REMAP before the change (R245). -/
def Crown.mapBegin (c : Crown) (q l : Nat) : Crown :=
  let c := (c.holders (128 * q + l)).foldl (fun (c : Crown) k => c.engineFault k 6 (c.physOf (128 * q + l))) c
  { c.s BZ_CMAP_STAT_BUSY 1 with eng := { c.eng with mapping := some (q, l) } }

/-- REMAP (R244). -/
def Crown.remap (c : Crown) (q l p : Nat) : Crown :=
  if c.flag BZ_CMAP_STAT_BUSY then c.mapRefuse 5
  else if p > 143 then c.mapRefuse 4
  else if c.cellBad q p then c.mapRefuse 1
  else if (c.cellUser q p).any (fun x => x != l) then c.mapRefuse 2
  else (c.mapBegin q l).mapCell q l (some p)

/-- RETIRE (R244); the condition on PHYS is not REMAP's alone. Where several refusals hold, BUSY's comes first, then PHYS's (log entry 120). -/
def Crown.retire (c : Crown) (q l p : Nat) : Crown :=
  if c.flag BZ_CMAP_STAT_BUSY then c.mapRefuse 5
  else if p > 143 then c.mapRefuse 4
  else if !c.cellValid q l then c.mapRefuse 3
  else
    let p := c.g (BZ_CMAPq_l_PHYS q l)
    let c := ((c.mapBegin q l).setBad q p).mapCell q l none
    c.mapCell q l (c.freeSpare q)

/-- CMAP_DONE (R245): the change is in every NI. -/
def Crown.cmapDone (c : Crown) : Crown :=
  if !c.flag BZ_CMAP_STAT_BUSY then c
  else (({ c with eng := { c.eng with mapping := none } } : Crown).s BZ_CMAP_STAT_BUSY 0).engRescan

/-- A write of BZ_CMAP_CMD (R244). -/
def Crown.mapCommand (c : Crown) (v : Nat) : Crown :=
  let c := c.on (·.write BZ_CMAP_CMD (v % 2 ^ 31))
  if !bitOf v 31 then c
  else
    let q := bitsOf v 25 24
    let l := bitsOf v 6 0
    match bitsOf v 30 29 with
    | 0 => c.remap q l (bitsOf v 23 16)
    | 1 => c.retire q l (bitsOf v 23 16)
    | _ => if c.flag BZ_CMAP_STAT_BUSY then c.mapRefuse 5 else c.mapRefuse 6

/-! ### The course of a job in time (R240, R264, R269) -/

/-- A cell's pace on quadrant `q`: A rows in at most 8 − D of every 8 cycles under THROTTLE at depth D (R269). -/
def Crown.pace (c : Crown) (q : Nat) : Nat :=
  if c.self.toNode.flag (TZ_GRDg_STAT_THROTTLE q) then 8 - c.self.toNode.g (TZ_GRDg_STAT_DEPTH q) else 8

/-- The least time of the pass at a place, in 10^-9 cycles: its passes start together on every cell of the round, and the last one is followed by
the drain. HBM may make it longer: the time model bounds it, and JOB_COMPLETE says when the job ended. -/
def Crown.passCost (c : Crown) (d : List Byte) (p : JobPlace) : Nat :=
  let g := jGemm d
  if jOp d = 2 then 0
  else
    let rows := (g.tiles p.round).foldl (fun a t => max a (g.passCycles (c.pace ((jCb d + t % g.cn) / 128)) (g.mi t))) 0
    (rows + (if p.pass + 1 < g.panels then 0 else 24)) * 1000000000

/-- The next place: the next pass of the round, the next round, the next member. -/
def JobPlace.next (p : JobPlace) (d : List Byte) : JobPlace :=
  let g := jGemm d
  if jOp d = 1 && decide (p.pass + 1 < g.panels) then { p with pass := p.pass + 1 }
  else if jOp d = 1 && decide (p.round + 1 < g.rounds) then { p with pass := 0, round := p.round + 1 }
  else { p with pass := 0, round := 0, member := p.member + 1 }

/-- A nanosecond of a running chain. -/
def Crown.jobTick (c : Crown) (k : Nat) (j : EngJob) : Crown :=
  let hz := c.chainHz j.descs
  let j := { j with cyc := j.cyc + hz }
  match j.descs[j.place.member]? with
  | none => c.setEngJob k (some j)
  | some d =>
    let cost := c.passCost d j.place
    if j.place.gone + hz < cost then c.setEngJob k (some { j with place := { j.place with gone := j.place.gone + hz } })
    else
      let p := { j.place.next d with gone := j.place.gone + hz - cost }
      let c := match j.descs[p.member]? with
        | none => c
        | some d => c.holdCells d p
      c.setEngJob k (some { j with place := p })

/-- Running jobs on a quadrant whose fence has closed take fault FENCE (R269), no cell being named; within the 256 cycles that R267 gives. -/
def Crown.fenceJobs (c : Crown) : Crown :=
  (List.range 8).foldl (fun (c : Crown) k => match c.engJob k with
    | some j => if j.running && (chainCells j.descs).any (fun g => c.fenced (g / 128)) then c.engineFault k 7 0x3FF else c
    | none => c) c

/-- A nanosecond of the engine and of the controllers' patrol scrub, which passes every byte once in HOURS hours (R256). -/
def Crown.engTick (c : Crown) : Crown :=
  let c := (List.range 8).foldl (fun (c : Crown) k => match c.engJob k with
    | some j => if j.running then c.jobTick k j else c
    | none => c) c.fenceJobs
  if c.hbmReady then { c with eng := { c.eng with scrub := (c.eng.scrub + 1) % (max 1 (c.g BZ_MC_SCRUB_HOURS) * 3600000000000) } } else c

/-- The byte that the patrol scrub has come to. -/
def Crown.scrubByte (c : Crown) : Nat := c.eng.scrub * hbmSize / (max 1 (c.g BZ_MC_SCRUB_HOURS) * 3600000000000)

/-! ### The HBM controllers -/

/-- HBM_TRAINED (R408): a controller in TRAINING reaches READY or FAILED. -/
def Crown.hbmTrained (c : Crown) (k : Nat) (ok : Bool) : Crown :=
  if c.g (BZ_MCc_STAT_STATE k) = 1 then c.s (BZ_MCc_STAT_STATE k) (if ok then 2 else 3) else c

end Sys2Proof.Machine
end

