-- ==== Sys2Proof/Machine/Partial.lean ====
section
/-! DEFINITION. Partials: the operators of Table 9.1, their merge and their bytes (spec/09_reduction_traffic.md, R214 to
R217, R222). -/

namespace Sys2Proof.Machine

/-! ### QHIST keys (R215) -/

/-- floor(log2 v) of v ≥ 1. -/
def floorLog2 (v : Nat) : Nat := Nat.log2 v

/-- The least n with n^35 ≥ m, found bit by bit from `n + 2^b` down. -/
def root35 (b n m : Nat) : Nat :=
  match b with
  | 0 => if n ^ 35 ≥ m then n else n + 1
  | k + 1 => if (n + 2 ^ k) ^ 35 < m then root35 k (n + 2 ^ k) m else root35 k n m

/-- B_j: 2^(j/35) rounded up to 24 fraction bits, as a multiple of 2^-24. -/
def bucketEdge (j : Nat) : Nat := root35 26 0 (2 ^ (j + 24 * 35))

/-- The edges B_0 to B_34, computed. -/
def bucketEdges : List Nat := (List.range 35).map bucketEdge

/-- κ(v) of v ≥ 1. -/
def histKey (v : Nat) : Nat :=
  let e := floorLog2 v
  let f := if e ≤ 24 then v * 2 ^ (24 - e) else v / 2 ^ (e - 24)
  35 * e + ((List.range 35).filter (fun j => decide (bucketEdge j ≤ f))).length - 1

/-! ### Operators -/

/-- The order of Table 9.1: the better value first, then the lower node word, then the lower INDEX. -/
def Extreme.before (large : Bool) (a b : Extreme) : Bool :=
  if a.v ≠ b.v then (if large then b.v < a.v else a.v < b.v)
  else if a.node ≠ b.node then a.node < b.node else a.index ≤ b.index

/-- The better of two kept members. -/
def keepBetter (large : Bool) (a b : Option Extreme) : Option Extreme :=
  match a, b with
  | none, y => y
  | x, none => x
  | some x, some y => if x.before large y then some x else some y

/-- An empty partial of a plan: OPS and KBASE_MIN (R216). -/
def Partial.empty (ops kmin : Nat) : Partial :=
  { ops := ops, count := 0, missing := 0, gapped := 0, qual := 0, sat := false, ovfkey := false, sum := 0, min_ := none,
    max_ := none, s1 := 0, s2 := 0, kbase := kmin, zero := 0, low := 0, hist := [], top := [] }

/-- KBASE raised, buckets below it folded into LOW (R216). -/
def Partial.raise (p : Partial) (k : Nat) : Partial :=
  if k ≤ p.kbase then p
  else
    let gone := p.hist.filter (fun e => e.1 < k)
    { p with kbase := k, low := satAdd 32 p.low (gone.foldl (fun a e => a + e.2) 0), hist := p.hist.filter (fun e => k ≤ e.1) }

/-- Counts added to the bucket of a key; a bucket stops at 2^32 - 1 and sets SAT (R216). -/
def Partial.bucket (p : Partial) (key n : Nat) : Partial :=
  let x := p.hist.get (fun _ => 0) key + n
  { p with hist := p.hist.set (fun _ => 0) key (min x (2 ^ 32 - 1)), sat := p.sat || x ≥ 2 ^ 32 }

/-- One value into the histogram (R216). -/
def Partial.histInsert (p : Partial) (v : Nat) : Partial :=
  if v = 0 then { p with zero := satAdd 32 p.zero 1 }
  else
    let key := histKey v
    let p := if key > p.kbase + 255 then p.raise (key - 255) else p
    if key < p.kbase then { p with low := satAdd 32 p.low 1 } else p.bucket key 1

/-- One member value into every operator of the partial (R212, R214). -/
def Partial.insert (p : Partial) (k : Nat) (large : Bool) (m : Extreme) (gapped : Bool) (qual : Nat) : Partial :=
  let p := { p with count := p.count + 1, gapped := p.gapped + b2n gapped, qual := max p.qual qual }
  let p := if bitOf p.ops 0 then { p with sum := p.sum + m.v } else p
  let p := if bitOf p.ops 1 then { p with min_ := keepBetter false p.min_ (some m) } else p
  let p := if bitOf p.ops 2 then { p with max_ := keepBetter true p.max_ (some m) } else p
  let p := if bitOf p.ops 3 then { p with s1 := p.s1 + m.v, s2 := p.s2 + m.v * m.v } else p
  let p := if bitOf p.ops 4 then p.histInsert m.v else p
  if bitOf p.ops 5 then { p with top := (insertBy (Extreme.before large) m p.top).take k } else p

/-- Two partials merged: the partial of the union of their members (R214, R216). -/
def Partial.merge (k : Nat) (large : Bool) (a b : Partial) : Partial :=
  let base := max a.kbase b.kbase
  let a := if bitOf a.ops 4 then a.raise base else a
  let b := if bitOf b.ops 4 then b.raise base else b
  let p : Partial :=
    { a with
      count := a.count + b.count, missing := a.missing + b.missing, gapped := a.gapped + b.gapped, qual := max a.qual b.qual,
      sat := a.sat || b.sat, ovfkey := a.ovfkey || b.ovfkey, sum := a.sum + b.sum, min_ := keepBetter false a.min_ b.min_,
      max_ := keepBetter true a.max_ b.max_, s1 := a.s1 + b.s1, s2 := a.s2 + b.s2, zero := satAdd 32 a.zero b.zero,
      low := satAdd 32 a.low b.low, top := (b.top.foldl (fun l m => insertBy (Extreme.before large) m l) a.top).take k }
  b.hist.foldl (fun p e => p.bucket e.1 e.2) p

/-! ### Bytes (Table 9.4) -/

/-- A member in 16 bytes; zeros when there is none. -/
def Extreme.bytes (e : Option Extreme) : List Byte :=
  match e with
  | none => zeros 16
  | some e => le 8 e.v ++ le 4 e.node ++ le 2 e.index ++ zeros 2

/-- The member that 16 bytes spell. -/
def Extreme.parse (l : List Byte) : Extreme := ⟨field l 0 8, field l 8 4, field l 12 2⟩

/-- The sections of a partial, in OPS bit order. -/
def Partial.sections (p : Partial) (dir : Nat) : List Byte :=
  (if bitOf p.ops 0 then le 12 p.sum else []) ++ (if bitOf p.ops 1 then Extreme.bytes p.min_ else [])
    ++ (if bitOf p.ops 2 then Extreme.bytes p.max_ else []) ++ (if bitOf p.ops 3 then le 12 p.s1 ++ le 20 p.s2 else [])
    ++ (if bitOf p.ops 4 then le 2 p.kbase ++ zeros 2 ++ le 4 p.zero ++ le 4 p.low
          ++ (List.range 256).flatMap (fun i => le 4 (p.hist.get (fun _ => 0) (p.kbase + i))) else [])
    ++ (if bitOf p.ops 5 then byte p.top.length ++ byte dir ++ zeros 2 ++ p.top.flatMap (fun m => Extreme.bytes (some m)) else [])

/-- The partial that the bytes of an AGG record after its head spell (offset 24 on, Table 9.4). -/
def Partial.parse (flags : Nat) (body : List Byte) : Partial :=
  let ops := field body 29 1
  let p := { Partial.empty ops 0 with
    count := field body 36 4, missing := field body 40 4, gapped := field body 44 4, qual := flags % 4, sat := bitOf flags 4, ovfkey := bitOf flags 5 }
  let i := 48
  let (p, i) := if bitOf ops 0 then ({ p with sum := field body i 12 }, i + 12) else (p, i)
  let one := fun (i : Nat) => if p.count = 0 then none else some (Extreme.parse (body.drop i))
  let (p, i) := if bitOf ops 1 then ({ p with min_ := one i }, i + 16) else (p, i)
  let (p, i) := if bitOf ops 2 then ({ p with max_ := one i }, i + 16) else (p, i)
  let (p, i) := if bitOf ops 3 then ({ p with s1 := field body i 12, s2 := field body (i + 12) 20 }, i + 32) else (p, i)
  let (p, i) := if bitOf ops 4 then
      let kb := field body i 2
      let h := (List.range 256).map (fun j => (kb + j, field body (i + 12 + 4 * j) 4))
      ({ p with kbase := kb, zero := field body (i + 4) 4, low := field body (i + 8) 4, hist := h.filter (fun e => e.2 != 0) }, i + 1036)
    else (p, i)
  if bitOf ops 5 then { p with top := (List.range (field body i 1)).map (fun j => Extreme.parse (body.drop (i + 4 + 16 * j))) } else p

/-- The slots a merge of one partial costs (Table 9.3). -/
def mergeSlots (ops k : Nat) : Nat :=
  1 + b2n (bitOf ops 0) + b2n (bitOf ops 1) + b2n (bitOf ops 2) + 2 * b2n (bitOf ops 3) + 64 * b2n (bitOf ops 4)
    + (if bitOf ops 5 then ceilDiv k 4 else 0)

/-- The slots an insertion of one member value costs (Table 9.3). -/
def insertSlots (ops : Nat) : Nat :=
  b2n (bitOf ops 0) + b2n (bitOf ops 1) + b2n (bitOf ops 2) + 2 * b2n (bitOf ops 3) + b2n (bitOf ops 4) + b2n (bitOf ops 5)

end Sys2Proof.Machine
end

