-- ==== Sys2Proof/Machine/Resample.lean ====
section
/-! DEFINITION. Series and their values on canopy-time grid points (spec/03_twig_counters.md R86 to R88), and the member
values of a reduction plan (spec/09_reduction_traffic.md R210 to R213, Table 9.2). -/

namespace Sys2Proof.Machine

/-! ### Plan fields (Table 9.2) -/

/-- PLAN_ID. -/
def PlanSlot.id (p : PlanSlot) : Nat := field p.raw 0 2

/-- SKIND: 0 counter, 1 channel, 2 bin BUSY, 3 bin STALL. -/
def PlanSlot.skind (p : PlanSlot) : Nat := field p.raw 3 1 % 8

/-- XFORM: 0 DELTA, 1 RATIO, 2 GAUGE. -/
def PlanSlot.xform (p : PlanSlot) : Nat := field p.raw 3 1 / 8 % 8

/-- SCOPE. -/
def PlanSlot.scope (p : PlanSlot) : Nat := field p.raw 4 4

/-- INDEX; for a bin series the Twig (log entry 28). -/
def PlanSlot.index (p : PlanSlot) : Nat := field p.raw 8 2

/-- DEN_INDEX. -/
def PlanSlot.den (p : PlanSlot) : Nat := field p.raw 10 2

/-- WIN_US. -/
def PlanSlot.win (p : PlanSlot) : Nat := field p.raw 12 3

/-- PHASE_US modulo WIN_US (R210). -/
def PlanSlot.phase (p : PlanSlot) : Nat := field p.raw 16 3 % p.win

/-- LATE_US. -/
def PlanSlot.late (p : PlanSlot) : Nat := field p.raw 20 3

/-- OPS. -/
def PlanSlot.ops (p : PlanSlot) : Nat := field p.raw 24 1 % 64

/-- K and DIR of TOPK. -/
def PlanSlot.kTop (p : PlanSlot) : Nat := field p.raw 25 1 % 128

/-- DIR: largest first. -/
def PlanSlot.large (p : PlanSlot) : Bool := bitOf (field p.raw 25 1) 7

/-- KBASE_MIN. -/
def PlanSlot.kmin (p : PlanSlot) : Nat := field p.raw 26 2

/-- GROUP_BY. -/
def PlanSlot.groupBy (p : PlanSlot) : Nat := field p.raw 28 1

/-- OUT. -/
def PlanSlot.outs (p : PlanSlot) : Nat := field p.raw 29 1

/-- E_k in µs after the epoch (R210). -/
def PlanSlot.edgeUs (p : PlanSlot) (k : Nat) : Nat := k * p.win + p.phase

/-- A moment in µs as a time word in 2^-32 ns. -/
def usTime (us : Nat) : Nat := us * 1000 * fracPerNs

/-- E_k as a time word. -/
def PlanSlot.edge (p : PlanSlot) (k : Nat) : Nat := usTime (p.edgeUs k)

/-- The first window whose E_k is at or after a moment in µs. -/
def PlanSlot.windowFrom (p : PlanSlot) (us : Nat) : Nat := if us ≤ p.phase then 0 else ceilDiv (us - p.phase) p.win

/-- An empty partial of the plan. -/
def PlanSlot.newPart (p : PlanSlot) : Partial := Partial.empty p.ops p.kmin

/-! ### Series (R86 to R88) -/

/-- A reading placed by its capture time. -/
def placePoint (x : SerPoint) (l : List SerPoint) : List SerPoint :=
  match l with
  | [] => [x]
  | y :: r => if x.t < y.t then x :: y :: r else y :: placePoint x r

/-- Whether two series entries name one series. -/
def Series.same (a : Series) (leaf kind index run : Nat) : Bool :=
  a.leaf == leaf && a.kind == kind && a.index == index && a.run == run

/-- A reading into its series, which it starts when there is none. -/
def addPoint (l : List Series) (leaf kind index run tag period : Nat) (fin : Bool) (x : SerPoint) : List Series :=
  if l.any (fun s => s.same leaf kind index run) then
    l.map (fun s => if s.same leaf kind index run then
      { s with points := placePoint x s.points, final := s.final || fin, period := if period = 0 then s.period else period } else s)
  else l ++ [⟨leaf, kind, index, run, tag, [x], period, fin⟩]

/-- The value of a series at a grid point. -/
structure GridValue where
  /-- Extended value within the run of readings of one EPOCH. -/
  x : Nat
  /-- Which run it is. -/
  run : Nat
  gap : Bool
  qual : Nat
  deriving DecidableEq, Repr

/-- R87 and R88 over the readings in time order: `x` and `run` are those of the first reading of the list. -/
def gridAt (period g x run : Nat) (l : List SerPoint) : Option GridValue :=
  match l with
  | [] => none
  | a :: r =>
    match r with
    | [] => none
    | b :: _ =>
      let same := a.gen = b.gen
      let d := (b.raw + 2 ^ 48 - a.raw % 2 ^ 48) % 2 ^ 48
      if a.t ≤ g ∧ g < b.t then
        (if same then some ⟨x + d * (g - a.t) / (b.t - a.t), run, period != 0 && decide (b.t - a.t > 4 * period), max a.qual b.qual⟩ else none)
      else gridAt period g (if same then x + d else 0) (if same then run else run + 1) r

/-- The extended value of the last reading: a closed bin's after its BIN_CLOSE record. -/
def lastValue (x run : Nat) (l : List SerPoint) : Option GridValue :=
  match l with
  | [] => none
  | a :: r =>
    match r with
    | [] => some ⟨x, run, false, a.qual⟩
    | b :: _ =>
      if a.gen = b.gen then lastValue (x + (b.raw + 2 ^ 48 - a.raw % 2 ^ 48) % 2 ^ 48) run r else lastValue 0 (run + 1) r

/-- The value of a counter series at a grid point (R87). -/
def Series.at_ (s : Series) (g : Nat) : Option GridValue := gridAt s.period g 0 0 s.points

/-- The value of a bin's series (R211; log entry 28): that of its first reading before it, that of BIN_CLOSE after it. -/
def Series.binAt (s : Series) (g : Nat) : Option GridValue :=
  match s.points with
  | [] => none
  | a :: _ =>
    if g < a.t then some ⟨0, 0, false, a.qual⟩
    else match s.at_ g with
      | some v => some v
      | none => if s.final && s.points.all (fun p => p.t ≤ g) then lastValue 0 0 s.points else none

/-- The first window in which a change of mode holds (R224): E_k at or after its start; in PRE the first whose k starts a span. -/
def PlanSlot.changeAt (p : PlanSlot) (m : ModeChange) : Nat :=
  let k := if m.start ≤ usTime p.phase then 0 else ceilDiv (m.start - usTime p.phase) (usTime p.win)
  if m.mode = 2 then ceilDiv k (2 ^ m.preLog) * 2 ^ m.preLog else k

/-- The mode of a window not yet closed (R224). -/
def PlanSlot.modeAt (p : PlanSlot) (k : Nat) : Nat := match p.change with
  | some m => if k ≥ p.changeAt m then m.mode else p.mode
  | none => p.mode

/-- The capture time of the last reading. -/
def Series.lastT (s : Series) : Nat := s.points.foldl (fun m p => max m p.t) 0

/-! ### Members and their values (R211, R212) -/

/-- A member value: the series it is of, and its tag for a bin. -/
structure MemberValue where
  v : Nat
  gap : Bool
  qual : Nat
  tag : Nat
  deriving DecidableEq, Repr

/-- The window delta of a counter series; none where R88 forbids a value at an edge or no one series spans both. -/
def deltaOf (l : List Series) (leaf index e0 e1 : Nat) : Option MemberValue :=
  match l.find? (fun s => s.same leaf 0 index 0) with
  | none => none
  | some s =>
    match s.at_ e0, s.at_ e1 with
    | some a, some b => if a.run = b.run then some ⟨b.x - a.x, a.gap || b.gap, max a.qual b.qual, 0⟩ else none
    | _, _ => none

/-- RATIO (R211). -/
def ratioOf (l : List Series) (leaf num den e0 e1 : Nat) : Option MemberValue :=
  match deltaOf l leaf num e0 e1, deltaOf l leaf den e0 e1 with
  | some n, some d => if d.v = 0 then none else some ⟨min (n.v * 2 ^ 16 / d.v) (2 ^ 48 - 1), n.gap || d.gap, max n.qual d.qual, 0⟩
  | _, _ => none

/-- GAUGE (R211): the channel in the last SENSOR record of the window; a signed channel's code with 0x8000 added. -/
def gaugeOf (l : List Series) (leaf chan e0 e1 : Nat) (signed : Bool) : Option MemberValue :=
  match l.find? (fun s => s.same leaf 1 chan 0) with
  | none => none
  | some s =>
    match (s.points.filter (fun p => e0 ≤ p.t && p.t < e1)).getLast? with
    | none => none
    | some p => some ⟨if signed then (p.raw + 0x8000) % 0x10000 else p.raw, false, p.qual, 0⟩

/-- The runs of a leaf's Twig that touch a window (R211). -/
def runsOf (l : List Series) (leaf kind twig e0 e1 : Nat) : List Series :=
  l.filter (fun s => s.leaf == leaf && s.kind == kind && s.index == twig
    && !(s.points.all (fun p => e1 ≤ p.t)) && !(s.final && s.points.all (fun p => p.t ≤ e0)))

/-- The member value of one tag: the sum over its runs; none when an edge of a run has no value. -/
def tagOf (runs : List Series) (tag e0 e1 : Nat) : Option MemberValue :=
  (runs.filter (fun s => s.tag == tag)).foldl (fun (a : Option MemberValue) s =>
    match a, s.binAt e0, s.binAt e1 with
    | some a, some x, some y => if x.run = y.run then some ⟨(a.v + y.x - x.x) % 2 ^ 48, a.gap || x.gap || y.gap, max a.qual (max x.qual y.qual), tag⟩ else none
    | _, _, _ => none) (some ⟨0, false, 0, tag⟩)

/-- Whether the seed declares a channel of a LEAF_CFG list signed (Table 16.4). -/
def chanSigned (img : List Byte) (list chan : Nat) : Bool :=
  (decls img 3).any (fun d => field d 0 1 == list && field d 1 1 == chan && field d 3 1 != 0)

/-- The LEAF_CFG list of a leaf by the image's topology; a self leaf's is 0xFF (log entry 55). -/
def listOfLeaf (img : List Byte) (leaf : Nat) : Nat :=
  if bitOf leaf 29 then 0xFF else match portOfNum img (trayOf leaf) (bitsOf leaf 5 0) with
  | none => 0xFF
  | some p => (topoPort img (trayOf leaf) p).list

/-- The member values of a leaf in one window by tag, 0 for a series without one; none where the value is missing (R211, R212). -/
def memberValues (img : List Byte) (l : List Series) (p : PlanSlot) (leaf e0 e1 : Nat) : List (Nat × Option MemberValue) :=
  if p.xform = 1 then [(0, ratioOf l leaf p.index p.den e0 e1)]
  else if p.xform = 2 then [(0, gaugeOf l leaf p.index e0 e1 (chanSigned img (listOfLeaf img leaf) p.index))]
  else if p.skind < 2 then [(0, if p.skind = 0 then deltaOf l leaf p.index e0 e1 else none)]
  else
    let runs := runsOf l leaf p.skind p.index e0 e1
    let tags := (runs.map (·.tag)).eraseDups
    if tags.isEmpty then [(0, none)] else tags.map (fun t => (t, tagOf runs t e0 e1))

/-- GKEY of a member value (R218). -/
def gkeyOf (p : PlanSlot) (leaf tag : Nat) : Nat :=
  match p.groupBy with
  | 1 => trayOf leaf
  | 2 => podOf leaf
  | 3 => tag / 65536 * 65536
  | 4 => tag
  | 5 => leaf
  | _ => 0

/-- Whether a leaf's member of a plan has a reading at or after a moment (R213). -/
def memberThere (l : List Series) (p : PlanSlot) (leaf e1 : Nat) : Bool :=
  let has := fun kind index => l.any (fun s => s.leaf == leaf && s.kind == kind && (s.index == index) && s.lastT ≥ e1)
  if p.xform = 1 then has 0 p.index && has 0 p.den
  else if p.xform = 2 then has 1 p.index
  else has p.skind p.index

end Sys2Proof.Machine
end

