-- ==== Sys2Proof/Machine/PlanCost.lean ====
section
/-! DEFINITION. What a plan is predicted to cost a crown (spec/09_reduction_traffic.md R221, Table 9.3), from the configuration's leaf lists
and topology. -/

namespace Sys2Proof.Machine

/-! ### Leaf lists (R79, R401) -/

/-- What a LEAF_CFG list leaves in the registers the checker reads: membership words, group controls, TWIG_CTRL by Twig, the HP word
of each watch unit, and SEN_CTRL. -/
structure ListView where
  memAddr : Nat
  members : Tab Nat
  ctrl : Tab Nat
  data : Nat
  twigs : Tab Nat
  hp : Tab Nat
  sen : Nat
  deriving DecidableEq, Repr

/-- One entry of the list applied. -/
def ListView.apply (v : ListView) (off w : Nat) : ListView :=
  if off = TZ_SAP_MEM_ADDR then { v with memAddr := w }
  else if off = TZ_SAP_MEM_DATA then
    { v with members := v.members.set memberReset (v.memAddr % 512) w, memAddr := if bitOf v.memAddr 31 then putBits v.memAddr 8 0 (v.memAddr + 1) else v.memAddr }
  else if off = TZ_TWIG_CFG_DATA then { v with data := w }
  else if off = TZ_TWIG_CFG_ADDR then
    if bitOf w 31 && bitOf w 30 && w % 64 == 1 then { v with twigs := v.twigs.set (fun _ => 0) (bitsOf w 13 6) v.data } else v
  else if off = TZ_SEN_CTRL then { v with sen := w }
  else match famIx off 0x840 0x10 8 with
    | some g => { v with ctrl := v.ctrl.set (fun _ => 0) g w }
    | none => match famIx off 0x1408 0x10 32 with
      | some u => { v with hp := v.hp.set (fun _ => 0) u w }
      | none => v

/-- The registers after a list, from their reset values (R85). -/
def viewList (l : List (Nat × Nat)) : ListView :=
  l.foldl (fun (v : ListView) e => v.apply e.1 e.2)
    ⟨0, [], [(0, 0x800003E8)], 0, [], (List.range 32).filterMap (fun u =>
      let w := (resetOf leafTable (0x1408 + 0x10 * u)).toNat
      if w = 0 then none else some (u, w)), (resetOf leafTable TZ_SEN_CTRL).toNat⟩

/-- A group's PERIOD in µs; none while it is disabled or out of range (R77). -/
def ListView.period (v : ListView) (g : Nat) : Option Nat :=
  let w := v.ctrl.get (fun _ => 0) g
  let p := w % 2 ^ 24
  if bitOf w 31 && decide (5 ≤ p) && decide (p ≤ 16000000) then some p else none

/-- Members of a group among the counters of `n` Twigs. -/
def ListView.count (v : ListView) (g n : Nat) : Nat :=
  (numsWhere (16 * n) (fun i =>
    let e := bitsOf (v.members.get memberReset (i / 8)) (4 * (i % 8) + 3) (4 * (i % 8))
    bitOf e 3 && e % 8 == g)).length

/-- The largest number of bin readings a sweep of a group can take: 16 for each Twig whose bins it reads (R69, R73). -/
def ListView.bins (v : ListView) (g n : Nat) : Nat :=
  16 * (numsWhere n (fun t =>
    let w := v.twigs.get (fun _ => 0) t
    bitOf w 0 && bitsOf w 6 4 == g)).length

/-- The tray crowns at and below a node. -/
def traysBelow (img : List Byte) (node : Nat) : List Nat :=
  let kids := fun c => ((List.range 64).filter (fun p => (topoPort img c p).kind == 1)).map (fun p => childWord c (topoPort img c p).num)
  match nodeLevel node with
  | 1 => [node]
  | 2 => kids node
  | _ => (kids node).flatMap kids

/-! ### Plans (R221) -/

/-- A plan as its bytes spell it. -/
def planOf (raw : List Byte) : PlanSlot := { raw := raw, next := 0, mode := 0, preLog := 0, change := none, widx := 0, used := 0, cost := 0 }

/-- A bin series. -/
def PlanSlot.binned (p : PlanSlot) : Bool := p.xform == 0 && (p.skind == 2 || p.skind == 3)

/-- Group keys a plan can have in one window at a crown; a tag is bounded by 16 bins per member, at most 4,096 groups (R69, R219). -/
def planKeys (img : List Byte) (node : Nat) (p : PlanSlot) : Nat :=
  let n := (leavesBelow img node).length
  match p.groupBy with
  | 0 => 1
  | 1 => (traysBelow img node).length
  | 2 => if nodeLevel node = 3 then ((List.range 64).filter (fun q => (topoPort img node q).kind == 1)).length else 1
  | 5 => n
  | _ => min 4096 (16 * n)

/-- Bytes of an AGG record of a plan (Table 9.4). -/
def aggBytes (p : PlanSlot) : Nat :=
  48 + 12 * b2n (bitOf p.ops 0) + 16 * b2n (bitOf p.ops 1) + 16 * b2n (bitOf p.ops 2) + 32 * b2n (bitOf p.ops 3) + 1036 * b2n (bitOf p.ops 4)
    + (if bitOf p.ops 5 then 4 + 16 * p.kTop else 0)

/-- The members of a plan below a tray crown: its leaves, and its self leaf when SCOPE names it (Table 9.2). -/
def planMembers (img : List Byte) (node : Nat) (p : PlanSlot) : List Nat :=
  leavesBelow img node ++ (if nodeLevel node = 1 ∧ sameNode p.scope node then [selfLeafWord node] else [])

/-- Values that the members of a plan give in one window at a tray crown. -/
def planValues (img : List Byte) (node : Nat) (p : PlanSlot) : Nat := (planMembers img node p).length * (if p.binned then 16 else 1)

/-- The sampling group of a counter; its membership entry's group, whether or not it is a member (R77). -/
def ListView.groupOf (v : ListView) (i : Nat) : Nat := bitsOf (v.members.get memberReset (i / 8)) (4 * (i % 8) + 3) (4 * (i % 8)) % 8

/-- The groups whose sweeps bring a plan its readings: of the counter, and of DEN_INDEX for RATIO; of a Twig's bins; of SENSOR snapshots for
GAUGE, none while they are off (R73, R77, R96, R211). -/
def ListView.groupsOf (v : ListView) (p : PlanSlot) : List Nat :=
  if p.xform = 2 then (if bitOf v.sen 11 then [bitsOf v.sen 10 8] else [])
  else if p.xform = 1 then [v.groupOf p.index, v.groupOf p.den]
  else if p.binned then [bitsOf (v.twigs.get (fun _ => 0) p.index) 6 4]
  else [v.groupOf p.index]

/-- Readings per 10^6 s that a plan's series bring to a tray crown, from the sampling groups' periods (R221). -/
def planReadings (img : List Byte) (node : Nat) (p : PlanSlot) : Nat :=
  (planMembers img node p).foldl (fun a l =>
    let v := viewList (leafList img (listOfLeaf img l))
    (v.groupsOf p).foldl (fun a g => match v.period g with
      | none => a
      | some us => a + (if p.binned then 16 else 1) * 1000000000000 / us) a) 0

/-- Slots per 10^6 s that a plan is predicted to cost a crown in NORMAL mode (Table 9.3). -/
def planSlotRate (img : List Byte) (node : Nat) (p : PlanSlot) : Nat :=
  let win := max 1 p.win
  let keys := planKeys img node p
  let emit := keys * ceilDiv (aggBytes p) 64
  let kids := ((List.range 64).filter (fun q => (topoPort img node q).kind == 1)).length
  if nodeLevel node = 1 then
    planReadings img node p + (planValues img node p * insertSlots p.ops + emit) * 1000000000000 / win
  else (kids * (if p.groupBy = 0 ∨ p.groupBy > 2 then keys else 1) * mergeSlots p.ops p.kTop + emit) * 1000000000000 / win

end Sys2Proof.Machine
end

