-- ==== Sys2Proof/Machine/Reduce.lean ====
section
/-! DEFINITION. Reduction at a crown (spec/09_reduction_traffic.md R210 to R222, R224, R225): leaf records into series, windows
closed, partials merged, emitted and forwarded. -/

namespace Sys2Proof.Machine

/-! ### Plan slots -/

/-- A plan slot. -/
def Crown.plan (c : Crown) (s : Nat) : Option PlanSlot := c.red.plans.get (fun _ => none) s

/-- A plan slot replaced, with its status registers (Table 9.6). -/
def Crown.setPlan (c : Crown) (s : Nat) (p : PlanSlot) : Crown :=
  let c := c.onRed (fun r => { r with plans := r.plans.set (fun _ => none) s (some p) })
  (((((c.s (BZ_PLANp_STAT_ACTIVE s) 1).s (BZ_PLANp_STAT_MODE s) p.mode).s (BZ_PLANp_STAT_PRE_LOG s) (if p.mode = 2 then p.preLog else 0)).s
    (BZ_PLANp_STAT_PLAN_ID s) p.id).s (BZ_PLANp_WIDX_WIDX s) p.widx).s (BZ_PLANp_COST_SLOTS s) p.cost

/-- The running plans by slot. -/
def Crown.planSlots (c : Crown) : List (Nat × PlanSlot) := c.red.plans.filterMap (fun e => e.2.map (fun p => (e.1, p)))

/-- The slot of a PLAN_ID. -/
def Crown.slotOf (c : Crown) (id : Nat) : Option (Nat × PlanSlot) := c.planSlots.find? (fun e => e.2.id == id)

/-- Slots of the reduction datapath used by a plan (Table 9.3). -/
def Crown.spend (c : Crown) (s n : Nat) : Crown :=
  c.onRed (fun r => { r with plans := r.plans.map (fun e => if e.1 = s then (e.1, e.2.map (fun p => { p with used := p.used + n })) else e) })

/-- A plan this crown runs as stand-in for another pod (R371): its SCOPE does not hold the crown. -/
def Crown.guestPlan (c : Crown) (p : PlanSlot) : Bool := !inSubtree p.scope c.node

/-- The children whose partials a plan waits for: a key, the downlink lane or for a stand-in 1000 more than the tray's number, and
the child's node word. -/
def Crown.planKids (c : Crown) (p : PlanSlot) : List (Nat × Nat) :=
  if c.guestPlan p then
    ((List.range 64).filter (fun i => (topoPort c.image p.scope i).kind == 1)).map (fun i =>
      let n := (topoPort c.image p.scope i).num
      (1000 + n, childWord p.scope n))
  else c.logical.map (fun l => (l, c.portWord l))

/-- The plans the crown runs from a configuration: every plan whose SCOPE holds the crown, from the first window at or after the
activation (R218, R220: at most 256). -/
def Crown.loadPlans (c : Crown) (records : List (List Byte)) (actUs : Nat) : Crown :=
  let mine := (records.filter (fun r => inSubtree (field r 4 4) c.node)).take 256
  let c := c.onRed (fun r => { r with plans := [], opens := [], seen := [], missed := [], copies := [] })
  let c := (List.range 256).foldl (fun (c : Crown) s => (c.s (BZ_PLANp_STAT_ACTIVE s) 0).s (BZ_PLANp_STAT_PLAN_ID s) 0) c
  let c := (List.range mine.length).foldl (fun (c : Crown) s =>
    let p : PlanSlot := { raw := mine.getD s [], next := 0, mode := 0, preLog := 0, change := none, widx := 0, used := 0, cost := 0 }
    c.setPlan s { p with next := p.windowFrom actUs }) c
  c.s BZ_RED_PLANS_NPLAN mine.length

/-! ### Open partials (R219) -/

/-- The open partial of a span and group changed; the 4,097th group of a plan in one window goes into the overflow group
(R219). -/
def Reduction.put (r : Reduction) (slot k log gkey : Nat) (empty : Partial) (f : Partial → Partial) : Reduction :=
  let here := fun (o : OpenPart) => o.slot == slot && o.k == k && o.log == log
  let known := r.opens.any (fun o => here o && o.gkey == gkey)
  let full := !known && decide ((r.opens.filter here).length ≥ 4096)
  let g := if full then 0xFFFFFFFF else gkey
  let f := fun p => if full then { f p with ovfkey := true } else f p
  if r.opens.any (fun o => here o && o.gkey == g)
  then { r with opens := r.opens.map (fun o => if here o && o.gkey == g then { o with part := f o.part } else o) }
  else { r with opens := r.opens ++ [⟨slot, k, log, g, f empty⟩] }

/-- LEVEL of the uplink's Q4 (R236). -/
def Crown.q4Level (c : Crown) : Nat := (c.toNode.q (c.toNode.weightLane * 8 + 4)).level

/-- The span window `k` of a plan goes into: max(PRE_LOG, LEVEL) where a span of that length may start; a window inside an open span goes
into that span, so that each window is in one (R224, R236). -/
def Crown.spanLog (c : Crown) (slot : Nat) (p : PlanSlot) (k : Nat) : Nat :=
  let s := min 7 (max (if p.mode = 2 then p.preLog else 0) c.q4Level)
  let g := c.red.opens.foldl (fun g o => if o.slot = slot ∧ o.k ≤ k ∧ k < o.k + 2 ^ o.log then max g o.log else g) 0
  if k % 2 ^ s = 0 then max s g else g

/-! ### Emitting (R218, R222) -/

/-- An AGG record (Table 9.4). -/
def Crown.aggBody (c : Crown) (p : PlanSlot) (k log gkey : Nat) (q : Partial) (supp raw : Bool) : List Byte :=
  let flags := q.qual + 4 * b2n supp + 8 * b2n raw + 16 * b2n q.sat + 32 * b2n q.ovfkey
  let ops := if raw then 0 else q.ops
  twBytes (p.edge k) ++ byte 0x30 ++ byte flags ++ le 2 p.id ++ le 4 c.node ++ le 4 (k % 2 ^ 32) ++ byte log ++ byte ops ++ zeros 2
    ++ le 4 gkey ++ le 4 q.count ++ le 4 q.missing ++ le 4 q.gapped
    ++ (if raw then [] else q.sections (b2n p.large))

/-- A KIND 0x0F record toward the parent. -/
def Crown.redUp (c : Crown) (body : List Byte) : Crown := if c.top then c else c.on (·.postUp (plainRec 0x0F 4 body))

/-- The latest window of plan `p` that ends at or before E_{k+1} of the anchor plan, counted from 1; 0: none (R276). -/
def PlanSlot.upTo (p anchor : PlanSlot) (k : Nat) : Nat :=
  let e := anchor.edgeUs (k + 1)
  if e < p.phase then 0 else (e - p.phase) / p.win

/-- Whether a feature set has used window `w` of a plan in a vector (R277). -/
def FeatSet.usedWindow (f : FeatSet) (anchor p : PlanSlot) (w : Nat) : Bool :=
  (List.range (f.next - f.first)).any (fun i =>
    (pieces 16 (f.raw.drop 16)).any (fun e => field e 0 2 == p.id && p.upTo anchor (f.first + i) == w + 1 + field e 3 1 % 16))

/-- A supplementary partial for windows that feature sets have used changes no vector and is counted (R277). -/
def Crown.lateForSets (c : Crown) (p : PlanSlot) (k log : Nat) : Crown :=
  c.tree.sets.foldl (fun (c : Crown) e =>
    match e.2 with
    | none => c
    | some f =>
      match c.slotOf (field f.raw 4 2) with
      | none => c
      | some (_, a) =>
        if (List.range (2 ^ log)).any (fun i => f.usedWindow a p (k + i)) then c.count (BZ_FSs_LATE_COUNT e.1) else c) c

/-- Whether OUT names a destination at a node's level (Table 9.2): history store 0, platform software 3. -/
def PlanSlot.outAt (p : PlanSlot) (dest node : Nat) : Bool := bitOf p.outs (dest + nodeLevel node - 1)

/-- A result on its way to platform software (R26): out at the host interface where there is one in use, and toward the root. -/
def Crown.toPlatform (c : Crown) (body : List Byte) : Crown := c.sendUp (plainRec 0x0F 4 body)

/-- One partial leaves: to the parent when it is in the plan's scope, and to where OUT names (R218). A result that OUT sends to platform
software goes with the partial where the parent takes it, which passes it on (`Crown.passOn`). -/
def Crown.emitAgg (c : Crown) (slot : Nat) (p : PlanSlot) (k log gkey : Nat) (q : Partial) (supp raw : Bool) : Crown :=
  let body := c.aggBody p k log gkey q supp raw
  let up := !sameNode p.scope c.node && !c.top && !c.guestPlan p
  let c := (c.spend slot (ceilDiv body.length 64)).count (BZ_PLANp_OUT_COUNT slot)
  let c := if up then c.redUp body else c
  let kept := p.outAt 0 c.node || (c.isTray && bitOf p.outs 6)
  let c := if raw || !kept then c else c.onRed (fun r => { r with closed := r.closed ++ [⟨p.id, k, log, gkey, q, supp, c.ns⟩] })
  let c := if supp then c.lateForSets p k log else c
  if raw || !p.outAt 3 c.node then c
  else if !up then c.toPlatform body
  else if c.exitHere then c.emit (.word "host" (envelope 0x0F body)) else c

/-- Children's results for platform software follow this crown's own partial of their windows, so that the crowns above know them for copies
(log entry 118). -/
def Crown.passOn (c : Crown) (slot k : Nat) : Crown :=
  let (go, stay) := c.red.copies.partition (fun x => x.1 == slot && decide (x.2.1 < k))
  go.foldl (fun (c : Crown) x => c.toPlatform x.2.2) (c.onRed (fun r => { r with copies := stay }))

/-- Every open partial whose span ends before window `k` leaves. -/
def Crown.emitSpans (c : Crown) (slot : Nat) (p : PlanSlot) (k : Nat) : Crown :=
  let due := c.red.opens.filter (fun o => o.slot == slot && o.k + 2 ^ o.log ≤ k)
  let c := c.onRed (fun r => { r with opens := r.opens.filter (fun o => !(o.slot == slot && o.k + 2 ^ o.log ≤ k)) })
  (due.foldl (fun (c : Crown) o => c.emitAgg slot p o.k o.log o.gkey o.part false false) c).passOn slot k

/-! ### Member values of a window -/

/-- A leaf that can give no value: vacant, Pruned (its die at G0), or its C4 class DEAD on its port (R212). -/
def Crown.leafGone (c : Crown) (leaf : Nat) : Bool :=
  if leaf = selfLeafWord c.node then false
  else match c.portToward leaf with
    | none => true
    | some p => bitOf (c.g (BZ_SAPRXk_STAT_DEAD p)) 4 || (c.grove.dies.get (fun _ => Die.reset) p).grade == 0

/-- The members below a tray crown. -/
def Crown.members (c : Crown) (p : PlanSlot) : List Nat := planMembers c.image c.node p

/-- A window's values of a leaf, by tag. -/
def Crown.valuesOf (c : Crown) (p : PlanSlot) (k leaf : Nat) : List (Nat × Option MemberValue) :=
  memberValues c.image c.red.series p leaf (p.edge k) (p.edge (k + 1))

/-- One leaf's member values of window `k` into the open partials; missing ones are counted, and what a late reading may still supply is
remembered: of a bin series the tags that have been taken, for any other member that it is missing (R212, R213). -/
def Crown.reduceLeaf (c : Crown) (slot : Nat) (p : PlanSlot) (k sk log leaf : Nat) (gone : Bool) : Crown :=
  let vs := if gone then [(0, none)] else c.valuesOf p k leaf
  let done := vs.filterMap (fun v => v.2.map (fun _ => v.1))
  let c := if done.isEmpty || p.binned then c.onRed (fun r => { r with missed := r.missed ++ [⟨slot, k, leaf, p.index, done⟩] }) else c
  vs.foldl (fun (c : Crown) v =>
    match v.2 with
    | none =>
      (c.count BZ_RED_MISS_COUNT).onRed (fun r =>
        r.put slot sk log (gkeyOf p leaf v.1) p.newPart (fun q => { q with missing := q.missing + 1 }))
    | some m =>
      let c := c.onRed (fun r => r.put slot sk log (gkeyOf p leaf m.tag) p.newPart
        (fun q => q.insert p.kTop p.large ⟨m.v, leaf, p.index⟩ m.gap m.qual))
      c.spend slot (insertSlots p.ops)) c

/-! ### Leaf records (R83, R84, R96, R225) -/

/-- The period of a leaf's sampling group in 2^-32 ns, from its LEAF_CFG list; group 0 of the boot set has 1,000 µs (R85, R88). -/
def groupPeriod (img : List Byte) (leaf group : Nat) : Nat :=
  match ((leafList img (listOfLeaf img leaf)).filter (fun e => e.1 == TZ_SAP_GRPn_CTRL group)).getLast? with
  | some e => e.2 % 2 ^ 24 * 1000 * fracPerNs
  | none => if group = 0 then 1000000 * fracPerNs else 0

/-- The readings of a sweep record as points: SKIND, INDEX, run, TAG and the reading. -/
def sweepPoints (boot : Nat) (body : List Byte) : List (Nat × Nat × Nat × Nat × SerPoint) :=
  let t0 := twOf (body.take 16)
  let q := field body 21 1 % 4
  let nr := field body 22 2
  let rd := (List.range nr).filterMap (fun i =>
    let b := 32 + 12 * i
    let w := field body (b + 6) 2
    if bitOf (field body (b + 11) 1) 1 then none
    else some (0, w % 4096, 0, 0, (⟨t0 + field body (b + 8) 3 * 2 ^ 28, field body b 6, boot * 16 + w / 4096, q, bitOf (field body (b + 11) 1) 0⟩ : SerPoint)))
  let bins := (List.range (field body 24 2)).flatMap (fun i =>
    let b := 32 + 12 * nr + 24 * i
    let t := t0 + field body (b + 20) 3 * 2 ^ 28
    let run := field body (b + 16) 2 * 16 + field body (b + 19) 1 % 16
    let at_ := fun kind off => (kind, field body (b + 18) 1, run, field body (b + 12) 4, (⟨t, field body (b + off) 6, boot, q, false⟩ : SerPoint))
    [at_ 2 0, at_ 3 6])
  rd ++ bins

/-- The valid channels of a SENSOR record as points. -/
def sensorPoints (boot : Nat) (body : List Byte) : List (Nat × Nat × Nat × Nat × SerPoint) :=
  (numsWhere 64 (fun ch => bitOf (field body 20 8) ch)).map (fun ch =>
    (1, ch, 0, 0, ⟨twOf (body.take 16), field body (28 + 2 * ch) 2, boot, field body 17 1 % 4, false⟩))

/-- The points of a BIN_CLOSE record. -/
def closePoints (boot : Nat) (body : List Byte) : List (Nat × Nat × Nat × Nat × SerPoint) :=
  let run := field body 20 2 * 16 + field body 22 1 % 16
  let at_ := fun kind off => (kind, field body 18 1, run, field body 24 4, (⟨twOf (body.take 16), field body off 6, boot, field body 17 1 % 4, false⟩ : SerPoint))
  [at_ 2 28, at_ 3 34]

/-- The points a leaf record carries: KIND 0x01 sweep, 0x02 Twig event, 0x03 SENSOR. -/
def recordPoints (kind boot : Nat) (body : List Byte) : List (Nat × Nat × Nat × Nat × SerPoint) :=
  match kind with
  | 1 => sweepPoints boot body
  | 2 => if field body 16 1 = 1 then closePoints boot body else []
  | 3 => sensorPoints boot body
  | _ => []

/-- Whether a plan reads a series. -/
def PlanSlot.reads (p : PlanSlot) (kind index : Nat) : Bool :=
  if p.xform = 1 then kind == 0 && (index == p.index || index == p.den)
  else if p.xform = 2 then kind == 1 && index == p.index
  else kind == p.skind && index == p.index

/-- Whether a leaf's series is one of a plan's: the leaf is a member (Table 9.2). -/
def Crown.memberOf (c : Crown) (p : PlanSlot) (leaf : Nat) : Bool :=
  if bitOf leaf 29 then sameNode p.scope c.node && sameNode leaf (selfLeafWord c.node) else inSubtree p.scope leaf

/-- A supplementary partial for one late member value (R213). -/
def Crown.emitLate (c : Crown) (m : MissedMember) (v : MemberValue) : Crown :=
  match c.plan m.slot with
  | none => c
  | some p =>
    let q := p.newPart.insert p.kTop p.large ⟨v.v, m.leaf, p.index⟩ v.gap v.qual
    (c.count BZ_RED_LATE_COUNT).emitAgg m.slot p m.k 0 (gkeyOf p m.leaf v.tag) q true false

/-- The values a remembered member has now and had not when its window closed. -/
def Crown.lateValues (c : Crown) (m : MissedMember) : List MemberValue := match c.plan m.slot with
  | none => []
  | some p => ((c.valuesOf p m.k m.leaf).filter (fun v => !m.done.contains v.1)).filterMap (·.2)

/-- Members of closed windows that a leaf's new readings supply (R213): each value once. -/
def Crown.lateMembers (c : Crown) (leaf : Nat) : Crown :=
  let hit := c.red.missed.filter (fun m => m.leaf == leaf && !(c.lateValues m).isEmpty)
  hit.foldl (fun (c : Crown) m =>
    let vs := c.lateValues m
    let c := c.onRed (fun r => { r with missed := if (c.plan m.slot).any PlanSlot.binned then r.missed.map (fun x => if x = m then { m with done := m.done ++ vs.map (·.tag) } else x) else r.missed.filter (· != m) })
    vs.foldl (fun (c : Crown) v => c.emitLate m v) c) c

/-- A counter's reading contradicts the one before it of its EPOCH: WRAP set with VALUE not below, or clear with VALUE below (R86). -/
def wrapFault (l : List Series) (leaf index : Nat) (x : SerPoint) : Bool := match l.find? (fun s => s.same leaf 0 index 0) with
  | none => false
  | some s => match (s.points.takeWhile (fun p => decide (p.t < x.t))).getLast? with
    | none => false
    | some a => a.gen == x.gen && x.wrap != decide (x.raw < a.raw)

/-- A leaf record reduced here: its readings enter their series, and those whose WRAP contradicts their VALUE are counted (R86, R211, R225). -/
def Crown.leafRecord (c : Crown) (leaf boot kind : Nat) (body : List Byte) : Crown :=
  let pts := recordPoints kind boot body
  let c := c.onRed (fun r => { r with wrapFaults := r.wrapFaults + (pts.filter (fun e => e.1 == 0 && wrapFault r.series leaf e.2.1 e.2.2.2.2)).length })
  let period := if kind = 1 then groupPeriod c.image leaf (field body 20 1 % 8) else 0
  let c := c.onRed (fun r => { r with series := pts.foldl (fun l e =>
    addPoint l leaf e.1 e.2.1 e.2.2.1 e.2.2.2.1 period (kind == 2) e.2.2.2.2) r.series })
  let c := c.planSlots.foldl (fun (c : Crown) e => c.spend e.1 (if c.memberOf e.2 leaf then (pts.filter (fun x => e.2.reads x.1 x.2.1)).length else 0)) c
  c.lateMembers leaf

/-- A RAW record of a leaf record (Table 9.4). -/
def rawBody (leaf kind : Nat) (body : List Byte) : List Byte :=
  let q := if kind = 1 then field body 21 1 % 4 else field body 17 1 % 4
  body.take 16 ++ byte 0x31 ++ byte q ++ le 2 0 ++ le 4 leaf ++ zeros 4 ++ envelope kind body

/-- A RAW record toward the root: of sweeps, only those that the LEVEL of Q4 lets through, the others counted as THIN (R236). -/
def Crown.rawUp (c : Crown) (kind : Nat) (rec_ raw : List Byte) : Crown :=
  let r := plainRec 0x0F 4 raw
  c.on (fun n => (n.upLanes 4).foldl (fun n k => match n.offer (n.key k 4) r (if kind = 1 then some (field rec_ 16 4) else none) with
    | (true, n) => n
    | (false, n) => n.post k r) n)

/-- Whether a leaf's record goes up raw for a plan: the plan reads it and is in RAW_UP, or is about to be, so that the readings on both sides
of its first window's start are there (R224, R225). -/
def Crown.wantsRaw (c : Crown) (p : PlanSlot) (leaf : Nat) (pts : List (Nat × Nat × Nat × Nat × SerPoint)) : Bool :=
  (p.mode == 1 || p.change.any (fun m => m.mode == 1)) && c.memberOf p leaf && pts.any (fun x => p.reads x.1 x.2.1)

/-- A tray crown takes a C4 or BIN_CLOSE record of a leaf: forwarded as RAW for plans in RAW_UP, reduced for the others (R225,
R236). -/
def Crown.ingest (c : Crown) (leaf boot kind : Nat) (body : List Byte) : Crown :=
  let pts := recordPoints kind boot body
  let plans := c.planSlots.map (·.2)
  let c := if plans.any (fun p => c.memberOf p leaf && pts.any (fun x => p.reads x.1 x.2.1))
    then c.onRed (fun r => { r with rawBytes := r.rawBytes + 4 + body.length }) else c
  let c := if plans.any (fun p => c.wantsRaw p leaf pts) then c.rawUp kind body (rawBody leaf kind body) else c
  c.leafRecord leaf boot kind body

/-! ### Closing windows (R213, R224) -/

/-- A pending change of mode whose first window is `k` takes effect (R224). -/
def Crown.applyChange (c : Crown) (slot : Nat) (p : PlanSlot) (k : Nat) : Crown × PlanSlot :=
  match p.change with
  | none => (c, p)
  | some m =>
    if k ≥ p.changeAt m then
      let p := { p with mode := m.mode, preLog := m.preLog, change := none }
      (c.setPlan slot p, p)
    else (c, p)

/-- A tray crown's window is complete: every member has a reading at or after its end, or is missing, or LATE_US has passed
(R213). -/
def Crown.trayReady (c : Crown) (p : PlanSlot) (k : Nat) : Bool :=
  let e1 := p.edge (k + 1)
  c.toNode.now ≥ e1 && (decide (c.toNode.now ≥ e1 + usTime p.late)
    || (c.members p).all (fun m => c.leafGone m || memberThere c.red.series p m e1))

/-- The window is done: WIDX, the next window, and what leaves. -/
def Crown.finishWindow (c : Crown) (slot : Nat) (last : Nat) : Crown :=
  match c.plan slot with
  | none => c
  | some p =>
    let p := { p with next := last + 1, widx := last % 2 ^ 32 }
    (c.setPlan slot p).emitSpans slot p (last + 1)

/-- The member values of window `k`, kept for the window engine (R295). -/
def Crown.recordMembers (c : Crown) (p : PlanSlot) (k : Nat) : Crown :=
  let of := fun leaf : Nat =>
    let vs := if c.leafGone leaf then [(0, none)] else c.valuesOf p k leaf
    vs.map (fun v => match v.2 with
      | none => (⟨p.id, k, leaf, 0, none, false, 0⟩ : MemberWindow)
      | some m => ⟨p.id, k, leaf, m.tag, some m.v, m.gap, m.qual⟩)
  c.onRed (fun r => { r with members := r.members ++ (c.members p).flatMap of })

/-- A tray or SOLO crown closes the plan's next window. -/
def Crown.closeTray (c : Crown) (slot : Nat) (p : PlanSlot) : Crown :=
  let k := p.next
  if !c.trayReady p k then c
  else
    let (c, p) := (c.recordMembers p k).applyChange slot p k
    if p.mode = 1 then
      (c.emitAgg slot p k 0 0 { p.newPart with ops := 0 } false true).finishWindow slot k
    else
      let log := c.spanLog slot p k
      let sk := k / 2 ^ log * 2 ^ log
      let c := (c.members p).foldl (fun (c : Crown) m => c.reduceLeaf slot p k sk log m (c.leafGone m)) c
      c.finishWindow slot k

/-- The span a higher crown closes next: the largest that its inputs name around its next window (R224). -/
def spanOf (fuel : Nat) (seen : List Reported) (slot k log : Nat) : Nat :=
  match fuel with
  | 0 => log
  | m + 1 =>
    let k0 := k / 2 ^ log * 2 ^ log
    let g := seen.foldl (fun g r => if r.slot = slot ∧ k0 ≤ r.k + 2 ^ r.log - 1 ∧ r.k < k0 + 2 ^ log then max g r.log else g) log
    if g = log then log else spanOf m seen slot k g

/-- The windows of a span that a lane has reported. -/
def covered (seen : List Reported) (slot k log lane : Nat) : List Nat :=
  (List.range (2 ^ log)).map (k + ·) |>.filter (fun w =>
    seen.any (fun r => r.slot == slot && r.lane == lane && r.k ≤ w && w < r.k + 2 ^ r.log))

/-- A pod crown or root closes the plan's next span: complete, or LATE_US and its HOP_US have passed (R213, R224). -/
def Crown.closeUpper (c : Crown) (slot : Nat) (p : PlanSlot) : Crown :=
  let k := p.next
  let log := spanOf 8 c.red.seen slot k 0
  let k0 := k / 2 ^ log * 2 ^ log
  let stop := k0 + 2 ^ log
  let kids := c.planKids p
  let hop := (nodeLevel c.node - 1) * c.g BZ_RED_TIMING_HOP_US
  let full := kids.all (fun l => (covered c.red.seen slot k0 log l.1).length = 2 ^ log)
  let now := c.toNode.now
  if now < p.edge stop ∨ !(full || decide (now ≥ p.edge stop + usTime (p.late + hop))) then c
  else
    let (c, p) := c.applyChange slot p k
    let own := c.spanLog slot p k
    let slog := max log own
    let sk := k / 2 ^ slog * 2 ^ slog
    let inSpan := fun (o : OpenPart) => o.slot == slot && k0 ≤ o.k && o.k + 2 ^ o.log ≤ stop
    let parts := c.red.opens.filter inSpan
    let seen := c.red.seen
    let c := c.onRed (fun r => { r with
      opens := r.opens.filter (fun o => !inSpan o)
      seen := r.seen.filter (fun x => !(x.slot == slot && decide (x.k + 2 ^ x.log + (if x.raw then 0 else 256) ≤ stop))) })
    let c := parts.foldl (fun (c : Crown) o => c.onRed (fun r =>
      r.put slot sk slog o.gkey p.newPart (fun q => Partial.merge p.kTop p.large q o.part))) c
    let c := (if p.mode = 1 then [] else kids).foldl (fun (c : Crown) kid =>
      let (l, child) := kid
      let leaves := leavesBelow c.image child
      let got := covered seen slot k0 log l
      (List.range (2 ^ log)).foldl (fun (c : Crown) i =>
        let w := k0 + i
        if !got.contains w then leaves.foldl (fun (c : Crown) m => c.reduceLeaf slot p w sk slog m true) c
        else if seen.any (fun r => r.slot == slot && r.lane == l && r.raw && r.k == w) then
          leaves.foldl (fun (c : Crown) m =>
            if c.red.series.any (fun s => s.leaf == m) || nodeLevel child = 1 then c.reduceLeaf slot p w sk slog m false else c) c
        else c) c) c
    let c := if p.mode = 1
      then c.emitAgg slot p k0 log 0 { p.newPart with ops := 0 } false true
      else c
    c.finishWindow slot (stop - 1)

/-- WINDOW_CLOSE (R210, R213): the plan's next window, or span, closes when its condition holds. -/
def Crown.windowClose (c : Crown) (slot : Nat) : Crown :=
  match c.plan slot with
  | none => c
  | some p =>
    if !c.flag BZ_RED_CTRL_EN ∨ !c.toNode.stepped then c
    else if c.isTray then c.closeTray slot p else c.closeUpper slot p

/-! ### Records between crowns (R222 to R225) -/

/-- Whether a lane has reported its own partial of a window, the last 256 closed ones among them. -/
def Crown.reported (c : Crown) (slot lane k : Nat) : Bool :=
  c.red.seen.any (fun r => r.slot == slot && r.lane == lane && !r.raw && decide (r.k ≤ k) && decide (k < r.k + 2 ^ r.log))

/-- A child's result that OUT sends to platform software at the child's level (R26, R218): at the top it leaves at once, elsewhere once this
crown's own partial of the window has gone. -/
def Crown.namedResult (c : Crown) (slot : Nat) (p : PlanSlot) (k : Nat) (body : List Byte) (done : Bool) : Crown :=
  if !p.outAt 3 (field body 20 4) then c
  else if done || c.top then c.toPlatform body
  else c.onRed (fun r => { r with copies := r.copies ++ [(slot, k, body)] })

/-- AGG (R213, R224): merged into its window; a closed window's is sent up as a supplementary partial; one of a plan this crown
does not run goes on toward the root. The RAW_MARK of a tray crown that comes by a detour has its RAW records reduced at once (R229). A crown in RAW_UP for the window forwards it (R225). One that a crown in between has formed no partial of
its own for is merged too; where that crown has, it is a result on its way to platform software (log entry 118). -/
def Crown.takeAgg (c : Crown) (lane : Nat) (body : List Byte) : Crown :=
  let flags := field body 17 1
  let node := field body 20 4
  match c.slotOf (field body 18 2) with
  | none => c.sendUp (plainRec 0x0F 4 body)
  | some (slot, p) =>
    let us := twOf (body.take 16) / fracPerNs / 1000
    let k := (us - p.phase) / p.win
    let log := field body 28 1 % 8
    let supp := bitOf flags 2
    let raw := bitOf flags 3
    let q := Partial.parse flags body
    let kid := if sameNode node (c.farWord lane) then some lane else ((c.planKids p).find? (fun x => sameNode x.2 node)).map (·.1)
    let way := nodeLevel c.node == 3 && inSubtree (c.farWord lane) node
    if kid.isNone && way && p.outAt 3 node && c.reported slot lane k then c.toPlatform body
    else
      let c := c.spend slot (mergeSlots q.ops p.kTop)
      if k < p.next then
        if raw then c
        else ((c.count BZ_RED_LATE_COUNT).emitAgg slot p k log (field body 32 4) q true false).namedResult slot p k body true
      else
        let up := p.modeAt k == 1
        let c := if raw then c else if up then c.redUp body else c.onRed (fun r => r.put slot k log (field body 32 4) p.newPart (fun o => Partial.merge p.kTop p.large o q))
        let c := if raw || up then c else c.namedResult slot p k body false
        match kid with
        | none =>
          if raw && !up && nodeLevel node == 1 then
            (leavesBelow c.image node).foldl (fun (c : Crown) m => c.reduceLeaf slot p k (k / 2 ^ log * 2 ^ log) log m false) c
          else c
        | some l => if supp then c else c.onRed (fun r => { r with seen := r.seen ++ [(⟨slot, k, log, l, raw⟩ : Reported)] })

/-- RAW (R225): resampled as the leaf's tray crown would; a crown in RAW_UP for a plan that reads it forwards it too, by the LEVEL of its own
Q4 (R236). RAW carries no BOOT: 0 (log entry 113). -/
def Crown.takeRaw (c : Crown) (body : List Byte) : Crown :=
  let leaf := field body 20 4
  let env := body.drop 28
  let kind := field env 3 1
  let rec_ := (env.drop 4).take (field env 0 3)
  let pts := recordPoints kind 0 rec_
  let c := if c.planSlots.any (fun e => c.wantsRaw e.2 leaf pts) then c.rawUp kind rec_ body else c
  c.leafRecord leaf 0 kind rec_

/-- SHIFT (R224): the new mode from the first window with E_k at or after max(EFFECT, arrival + 1 ms); PLAN_ID 0xFFFF names every
plan. -/
def Crown.takeShift (c : Crown) (body : List Byte) : Crown :=
  let id := field body 18 2
  let mode := field body 24 1
  let start := max (twOf ((body.drop 32).take 16)) (c.toNode.now + usTime 1000)
  if mode > 2 ∨ !sameNode (field body 28 4) c.node then c
  else
    let c := c.count BZ_RED_SHIFTS_COUNT
    c.planSlots.foldl (fun (c : Crown) e =>
      if id = 0xFFFF ∨ e.2.id = id then c.setPlan e.1 { e.2 with change := some ⟨mode, field body 25 1 % 8, start⟩ } else c) c

end Sys2Proof.Machine
end

