-- ==== Sys2Proof/Machine/Trees.lean ====
section
/-! DEFINITION. Feature vectors and tree ensembles (spec/11_tree_ensembles.md R274 to R292). -/

namespace Sys2Proof.Machine

/-- Missing, as an FP32 code (R274). -/
def fpMissing : Nat := 0x7FC00001

/-! ### Feature values (R276) -/

/-- The FP32 code of the rational ±p/q times 2^shift, rounded once (R253). -/
def ratFp32 (neg : Bool) (p q : Nat) (shift : Int) : Nat :=
  let u := 400 + shift
  let n := p * 2 ^ u.toNat
  let m := 2 * (n / q) + b2n (n % q != 0)
  (convert fmtFp32 (.fin neg (if neg then -(m : Int) else m)) 401).code

/-- The greatest n, found bit by bit from `n + 2^b` down, with n^70 ≤ m. -/
def root70 (b n m : Nat) : Nat :=
  match b with
  | 0 => n
  | k + 1 => if (n + 2 ^ k) ^ 70 ≤ m then root70 k (n + 2 ^ k) m else root70 k n m

/-- 2^((κ + 0.5)/35), cut to 60 fraction bits, with one more bit to say that it goes on (R217). -/
def bucketMid (κ : Nat) : Nat := 2 * root70 112 0 (2 ^ (2 * κ + 1 + 70 * 60)) + 1

/-- The answer of R217 for quantile `num`/1000. -/
inductive Quantile where
  | zero
  | low
  | bucket (key : Nat)
  deriving DecidableEq, Repr

/-- Walks the buckets in key order to rank `r`. -/
def walkBuckets (l : Tab Nat) (r : Nat) : Quantile :=
  match l with
  | [] => .zero
  | [e] => .bucket e.1
  | e :: t => if r ≤ e.2 then .bucket e.1 else walkBuckets t (r - e.2)

/-- R217; none when N = 0. -/
def Partial.quantile (p : Partial) (num : Nat) : Option Quantile :=
  let n := p.hist.foldl (fun a e => a + e.2) (p.zero + p.low)
  let r := max 1 (ceilDiv (num * n) 1000)
  if n = 0 then none
  else if r ≤ p.zero then some .zero
  else if r ≤ p.zero + p.low then some .low
  else some (walkBuckets p.hist (r - p.zero - p.low))

/-- The value of a statistic of a partial as FP32 (Table 11.2). -/
def statValue (stat param : Nat) (shift : Int) (p : Partial) : Nat :=
  let whole := fun v : Nat => ratFp32 false v 1 shift
  match stat with
  | 0 => whole p.count
  | 1 => whole p.missing
  | 2 => whole p.gapped
  | 3 => whole p.sum
  | 4 => (p.min_.map (fun m => whole m.v)).getD fpMissing
  | 5 => (p.max_.map (fun m => whole m.v)).getD fpMissing
  | 6 => if p.count = 0 then fpMissing else ratFp32 false p.s1 p.count shift
  | 7 => if p.count = 0 then fpMissing else ratFp32 false (p.count * p.s2 - p.s1 * p.s1) (p.count * p.count) shift
  | 8 =>
    match p.quantile param with
    | some .zero => 0
    | some (.bucket κ) =>
      match decodeFmt fmtFp32 (convert fmtFp32 (.fin false (bucketMid κ)) 61).code 149 with
      | .fin _ v => ratFp32 false v.natAbs (2 ^ 149) shift
      | _ => fpMissing
    | _ => fpMissing
  | 9 => ((p.top[param - 1]?).map (fun m => if param = 0 then fpMissing else whole m.v)).getD fpMissing
  | _ => fpMissing

/-! ### Feature sets (Table 11.1) -/

/-- FSET_ID. -/
def FeatSet.id (f : FeatSet) : Nat := field f.raw 0 2

/-- ENS. -/
def FeatSet.ens (f : FeatSet) : Nat := field f.raw 3 1 % 16

/-- EVAL, STORE and EXPORT are bits 4, 5 and 6. -/
def FeatSet.bit (f : FeatSet) (i : Nat) : Bool := bitOf (field f.raw 3 1) i

/-- ANCHOR. -/
def FeatSet.anchor (f : FeatSet) : Nat := field f.raw 4 2

/-- NFEAT. -/
def FeatSet.nfeat (f : FeatSet) : Nat := field f.raw 6 2

/-- WAIT_US. -/
def FeatSet.wait (f : FeatSet) : Nat := field f.raw 8 3

/-- The entries. -/
def FeatSet.entries (f : FeatSet) : List (List Byte) := (pieces 16 (f.raw.drop 16)).take f.nfeat

/-- VSTRIDE. -/
def FeatSet.vstride (f : FeatSet) : Nat := 64 * ceilDiv (4 * f.nfeat) 64

/-- SSTRIDE for a number of outputs (R289). -/
def sstride (nout : Nat) : Nat := 64 * ceilDiv (36 + 4 * nout) 64

/-- A feature set. -/
def Crown.fset (c : Crown) (s : Nat) : Option FeatSet := c.tree.sets.get (fun _ => none) s

/-- A feature set replaced. -/
def Crown.setFset (c : Crown) (s : Nat) (f : Option FeatSet) : Crown :=
  { c with tree := { c.tree with sets := c.tree.sets.set (fun _ => none) s f } }

/-- The feature sets of a configuration: TRAY and SOLO roles, at most 32 (R275). Called when the plans stand. -/
def Crown.loadFsets (c : Crown) (records : List (List Byte)) : Crown :=
  let mine := if c.isTray then records.take 32 else []
  (List.range 32).foldl (fun (c : Crown) s =>
    match mine[s]? with
    | none => ((c.setFset s none).s (BZ_FSs_STAT_ACTIVE s) 0).s (BZ_FSs_STAT_FSET_ID s) 0
    | some r =>
      let n := ((c.slotOf (field r 4 2)).map (·.2.next)).getD 0
      let f : FeatSet := ⟨r, n, n, []⟩
      ((c.setFset s (some f)).s (BZ_FSs_STAT_ACTIVE s) 1).s (BZ_FSs_STAT_FSET_ID s) f.id) c

/-- A window of a plan is closed here (R213): its number is behind the next one, and no open partial covers it. -/
def Crown.windowShut (c : Crown) (slot : Nat) (p : PlanSlot) (k : Nat) : Bool :=
  decide (k < p.next) && !c.red.opens.any (fun o => o.slot == slot && decide (o.k ≤ k) && decide (k < o.k + 2 ^ o.log))

/-- The main partials of a window closed here (log entry 35: a span's partial stands for each of its windows). -/
def Crown.mainPartials (c : Crown) (plan k : Nat) : List Closed :=
  c.red.closed.filter (fun x => x.plan == plan && !x.supp && decide (x.k ≤ k) && decide (k < x.k + 2 ^ x.log))

/-- The partial that an entry of a feature set reads for a vector's key: none when it does not exist, is not closed, or is not sent to
the feature stage by OUT (R218, R276). -/
def Crown.entryPartial (c : Crown) (a : PlanSlot) (k key : Nat) (e : List Byte) : Option Partial :=
  match c.slotOf (field e 0 2) with
  | none => none
  | some (slot, p) =>
    let j := p.upTo a k
    let lag := field e 3 1 % 16
    if !bitOf p.outs 6 ∨ j < lag + 1 ∨ !c.windowShut slot p (j - lag - 1) then none
    else
      let g := if bitOf (field e 3 1) 4 then field e 8 4 else key
      ((c.mainPartials p.id (j - lag - 1)).find? (fun x => x.gkey == g)).map (·.part)

/-- A feature (R276). -/
def featureOf (e : List Byte) (p : Option Partial) : Nat :=
  match p with
  | none => fpMissing
  | some q => statValue (field e 2 1) (field e 4 2) (sgn 8 (field e 6 1)) q

/-- Whether every window the vectors of anchor window `k` use has closed (R277); a window before the first one counts as closed. -/
def Crown.inputsShut (c : Crown) (f : FeatSet) (a : PlanSlot) (k : Nat) : Bool :=
  f.entries.all (fun e => match c.slotOf (field e 0 2) with
    | none => true
    | some (slot, p) =>
      let j := p.upTo a k
      let lag := field e 3 1 % 16
      decide (j < lag + 1) || c.windowShut slot p (j - lag - 1))

/-- The addresses of ring slot of anchor window `k`: keys, vectors and scores (R278). -/
def Crown.fsetSlot (c : Crown) (s : Nat) (f : FeatSet) (k : Nat) : Nat × Nat × Nat :=
  let st := sstride (c.g (BZ_ENSe_STAT_NOUT f.ens))
  let size := 16384 + 4096 * (f.vstride + st)
  let b := pageAddr (c.g (BZ_FSs_RBASE_PAGE s)) + k % 2 ^ c.g (BZ_FSs_RBASE_DEPTH_LOG s) * size
  (b, b + 16384, b + 16384 + 4096 * f.vstride)

/-- A tree job descriptor (Table 11.5). -/
def treeDesc (flags ens retry nvec vec vstride key out tag fset widx : Nat) : List Byte :=
  byte 0x10 ++ byte flags ++ byte ens ++ byte retry ++ le 4 nvec ++ le 8 vec ++ le 4 vstride ++ zeros 4 ++ le 8 key ++ le 8 out
    ++ le 8 tag ++ le 2 fset ++ zeros 2 ++ le 4 widx ++ zeros 8

/-- Forms the vectors of anchor window `k` (R276 to R278). They stand in the order of their keys (log entry 34); the job's tag and
RETRY_MAX are free values (log entry 36). -/
def Crown.formVectors (c : Crown) (s : Nat) (f : FeatSet) (a : PlanSlot) (k : Nat) (part : Bool) : Crown :=
  let keys := ((sortBy (fun (x y : Nat) => x ≤ y) ((c.mainPartials a.id k).map (·.gkey))).eraseDups.filter (· != 0xFFFFFFFF)).take 4096
  let vec := fun key => f.entries.map (fun e => c.entryPartial a k key e)
  let rows := keys.map (fun key => (List.zipWith featureOf f.entries (vec key)).flatMap (le 4))
  let quals := keys.map (fun key => (vec key).foldl (fun q p => max q ((p.map (·.qual)).getD 0)) 0)
  let (ka, va, oa) := c.fsetSlot s f k
  let c := c.hbmWrite ka (keys.flatMap (le 4))
  let c := (List.range rows.length).foldl (fun (c : Crown) i => c.hbmWrite (va + i * f.vstride) (rows.getD i [])) c
  let n := keys.length
  let w : FormedWindow := ⟨k, part, List.zip keys quals, none⟩
  let held := 2 ^ c.g (BZ_FSs_RBASE_DEPTH_LOG s)
  let f := { f with next := k + 1, formed := (f.formed.filter (fun x => k < x.k + held)) ++ [w] }
  let c := ((c.setFset s (some f)).inc (BZ_FSs_VEC_COUNT s) n).inc (BZ_FSs_PART_COUNT s) (if part then n else 0)
  let c := c.s (BZ_FSs_WIDX_WIDX s) k
  if !f.bit 4 || n == 0 then c
  else
    let (tag, c) := c.draw 64
    let (retry, c) := c.draw 3
    (c.postDesc (jobRing (tqBase 0)) (treeDesc 0 f.ens retry n va f.vstride ka oa tag f.id (k % 2 ^ 32))).getD c

/-- A closed anchor window is passed over: no vector forms (BZ_FS_CTRL.EN = 0, or basic mode, R292). -/
def Crown.skipAnchor (c : Crown) (s : Nat) (f : FeatSet) : Crown := (c.setFset s (some { f with next := f.next + 1 })).count (BZ_FSs_PART_COUNT s)

/-- VECTOR_FORM (R277): the next anchor window of set `s` once its inputs are closed, or WAIT_US after it closed. -/
def Crown.vectorForm (c : Crown) (s : Nat) : Crown :=
  match c.fset s with
  | none => c
  | some f =>
    match c.slotOf f.anchor with
    | none => c
    | some (slot, a) =>
      let k := f.next
      if !c.windowShut slot a k then c
      else if !c.flag BZ_FS_CTRL_EN || c.basic then c.skipAnchor s f
      else
        let mains := c.mainPartials a.id k
        let at_ := mains.foldl (fun m x => max m x.at_) 0
        let all := c.inputsShut f a k
        let r := jobRing (tqBase 0)
        if f.bit 4 && c.ringHeld r ≥ c.ringN r then c
        else if all then c.formVectors s f a k false
        else if mains.isEmpty || c.ns ≥ at_ + f.wait * 1000 then c.formVectors s f a k true
        else c

/-! ### Ensemble images (Tables 11.3 and 11.4) -/

/-- Header fields. -/
def iNout (i : List Byte) : Nat := field i 1 1
def iNfeat (i : List Byte) : Nat := field i 2 2
def iNtree (i : List Byte) : Nat := field i 4 4
def iDepth (i : List Byte) : Nat := field i 8 1
def iLen (i : List Byte) : Nat := field i 12 4

/-- The tree table's entry of tree `t`. -/
def iTree (i : List Byte) (t : Nat) : List Byte := slice i (96 + 64 * t) 64

/-- NCNT at a level. -/
def tCnt (e : List Byte) (d : Nat) : Nat := if d > 20 then 0 else field e (8 + 2 * d) 2

/-- Nodes of a tree. -/
def tNodes (e : List Byte) : Nat := (List.range 21).foldl (fun a d => a + tCnt e d) 0

/-- Node `n` of level `d` of a tree: its 64-bit word. -/
def tNode (i e : List Byte) (d n : Nat) : Nat := field i (field e 0 4 + 8 * ((List.range d).foldl (fun a x => a + tCnt e x) 0 + n)) 8

/-- Node fields. -/
def nLeaf (w : Nat) : Bool := bitOf w 31
def nDefault (w : Nat) : Bool := bitOf w 30
def nFeature (w : Nat) : Nat := bitsOf w 27 16
def nChild (w : Nat) : Nat := bitsOf w 15 0
def nValue (w : Nat) : Nat := bitsOf w 63 32

/-- A node's reserved bits, and the fields that Table 11.4 has a leaf leave at 0, which are reserved there (log entry 122). -/
def nReserved (w : Nat) : Bool := bitsOf w 29 28 != 0 || (nLeaf w && (nDefault w || nFeature w != 0 || nChild w != 0))

/-- Every node word of a tree, with its level. -/
def tAll (i e : List Byte) : List (Nat × Nat) := (List.range 21).flatMap (fun d => (List.range (tCnt e d)).map (fun n => (d, tNode i e d n)))

/-- FP32 codes that are NaN, and those that are not finite. -/
def fpNan (v : Nat) : Bool := decide (v % 2 ^ 31 > 0x7F800000)
def fpFinite (v : Nat) : Bool := decide (v % 2 ^ 31 < 0x7F800000)

/-- Whether the bytes are all 0. -/
def allZero (l : List Byte) : Bool := l.all (· == 0)

/-- ECODE 1 (R281). -/
def imgCode1 (i : List Byte) : Bool :=
  field i 0 1 != 1 || crc32c (overwrite i 24 (zeros 4)) != field i 24 4 || !allZero (slice i 9 3) || !allZero (slice i 28 4)
    || (List.range (iNtree i)).any (fun t =>
      let e := iTree i t
      !allZero (slice e 6 2) || !allZero (slice e 50 14) || (tAll i e).any (fun x => nReserved x.2))

/-- ECODE 2 for the header alone. -/
def imgRange (i : List Byte) : Bool :=
  iNout i == 0 || decide (iNout i > 16) || iNfeat i == 0 || decide (iNfeat i > 4096) || iNtree i == 0 || decide (iNtree i > 65536)
    || decide (iDepth i > 20) || decide (iLen i > 33554432) || decide (iLen i < 96 + 64 * iNtree i)

/-- ECODE 2 (R281). -/
def imgCode2 (i : List Byte) : Bool :=
  imgRange i || (List.range (iNtree i)).any (fun t =>
    let e := iTree i t
    decide (field e 4 1 > iDepth i) || decide (field e 0 4 + 8 * tNodes e > iLen i))

/-- ECODE 3 for one tree: NCNT[0], DEPTH, children and OUT. -/
def treeBroken (i e : List Byte) : Bool :=
  let kids := fun d => (List.range (tCnt e d)).flatMap (fun n =>
    let w := tNode i e d n
    if nLeaf w then [] else [nChild w, nChild w + 1])
  tCnt e 0 != 1 || decide (field e 5 1 ≥ iNout i) || (List.range 21).any (fun d => decide (d > field e 4 1) && tCnt e d != 0)
    || tCnt e (field e 4 1) == 0
    || (List.range 21).any (fun d =>
      (kids d).any (fun x => decide (x ≥ tCnt e (d + 1)))
        || (List.range (tCnt e (d + 1))).any (fun n => (kids d).count n != 1))

/-- ECODE 3 (R281). -/
def imgCode3 (i : List Byte) : Bool := (List.range (iNtree i)).any (fun t => treeBroken i (iTree i t))

/-- ECODE 4 (R281). -/
def imgCode4 (i : List Byte) : Bool :=
  (List.range (iNout i)).any (fun o => !fpFinite (field i (32 + 4 * o) 4))
    || (List.range (iNtree i)).any (fun t => (tAll i (iTree i t)).any (fun x =>
      if nLeaf x.2 then !fpFinite (nValue x.2) else fpNan (nValue x.2) || decide (nFeature x.2 ≥ iNfeat i)))

/-- The check an image fails, lowest code first; 0: none (R281). A length beyond its range leaves no bytes for IMG_CRC. -/
def imgCheck (i : List Byte) : Nat :=
  if field i 0 1 ≠ 1 then 1
  else if iLen i > 33554432 then 2
  else if imgCode1 i then 1
  else if imgCode2 i then 2
  else if imgCode3 i then 3
  else if imgCode4 i then 4
  else 0

/-! ### Loading (R284 to R286) -/

/-- The pipeline of each tree: the one with the fewest node words so far, the lower on equal counts (R284). -/
def assignTrees (sizes : List Nat) (load : List Nat) : List Nat :=
  match sizes with
  | [] => []
  | n :: r =>
    let best := (List.range load.length).foldl (fun b p => if load.getD p 0 < load.getD b 0 then p else b) 0
    best :: assignTrees r (load.set best (load.getD best 0 + n))

/-- Node words on each pipeline. -/
def pipeLoads (sizes assign : List Nat) (n : Nat) : List Nat :=
  (List.range n).map (fun p => ((List.zip sizes assign).filter (fun x => x.2 == p)).foldl (fun a x => a + x.1) 0)

/-- The trees of a pipeline, in assignment order. -/
def treesOn (assign : List Nat) (p : Nat) : List Nat := (List.range assign.length).filter (fun t => assign[t]? == some p)

/-- The level regions of trees compiled onto a pipeline: the nodes of each level one after another, each CHILD moved by its tree's base in the
region of the next level (R284). -/
def compileTrees (i : List Byte) (ts : List Nat) : List (List Nat) :=
  (List.range 21).map (fun d => (ts.foldl (fun (a : List Nat × Nat) t =>
    let e := iTree i t
    (a.1 ++ (List.range (tCnt e d)).map (fun n =>
      let w := tNode i e d n
      if nLeaf w then w else putBits w 15 0 (nChild w + a.2)), a.2 + tCnt e (d + 1))) ([], 0)).1)

/-- Trees cut into blocks of whole trees of at most 32,768 node words, in order (R285). -/
def cutBlocks (size : Nat → Nat) (l cur : List Nat) : List (List Nat) :=
  match l with
  | [] => if cur.isEmpty then [] else [cur]
  | t :: r => if cur.isEmpty || decide (cur.foldl (fun a x => a + size x) 0 + size t ≤ 32768) then cutBlocks size r (cur ++ [t]) else cur :: cutBlocks size r [t]

/-- The blocks that a pipeline evaluates: its one resident share, or a streamed ensemble's blocks in order (R285). Each is its trees and their
level regions. -/
def Ensemble.blocks (x : Ensemble) (p : Nat) : List (List Nat × List (List Nat)) :=
  if x.stream then (cutBlocks (fun t => tNodes (iTree x.img t)) (treesOn x.assign p) []).map (fun b => (b, compileTrees x.img b))
  else [(treesOn x.assign p, x.slices.getD p [])]

/-- An ensemble slot. -/
def Crown.ensemble (c : Crown) (e : Nat) : Option Ensemble := c.tree.ens.get (fun _ => none) e

/-- An ensemble slot replaced; PFREE follows. -/
def Crown.setEns (c : Crown) (e : Nat) (x : Option Ensemble) : Crown :=
  let c : Crown := { c with tree := { c.tree with ens := c.tree.ens.set (fun _ => none) e x } }
  c.s BZ_TRE_STAT_PFREE (64 - c.tree.ens.foldl (fun a y => a + (y.2.map (·.pcnt)).getD 0) 0)

/-- A slot's STATE. -/
def Crown.ensState (c : Crown) (e : Nat) : Nat := c.g (BZ_ENSe_STAT_STATE e)

/-- A load or unload command refused: ECODE 5. -/
def Crown.ensRefuse (c : Crown) (e : Nat) : Crown := c.s (BZ_ENSe_STAT_ECODE e) 5

/-- LOAD (R284). -/
def Crown.ensLoad (c : Crown) (e : Nat) : Crown :=
  let b := c.g (BZ_ENSe_CMD_PBASE e)
  let n := c.g (BZ_ENSe_CMD_PCNT e)
  let taken := c.tree.ens.any (fun y => match y.2 with
    | some x => decide (b < x.pbase + x.pcnt) && decide (x.pbase < b + n)
    | none => false)
  if c.ensState e ≠ 0 ∨ n = 0 ∨ b + n > 64 ∨ taken then c.ensRefuse e
  else
    let c := c.setEns e (some ⟨b, n, c.flag (BZ_ENSe_CMD_STREAM e), c.g (BZ_ENSe_IMG_PAGE e), [], [], []⟩)
    (c.s (BZ_ENSe_STAT_STATE e) 1).s (BZ_ENSe_STAT_ECODE e) 0

/-- The tree job of a queue. -/
def Crown.treeJob (c : Crown) (k : Nat) : Option EngJob := c.tree.q.jobs.get (fun _ => none) k

/-- The slot a descriptor names. -/
def tEns (d : List Byte) : Nat := field d 2 1 % 16

/-- A running job on a slot. -/
def Crown.ensBusy (c : Crown) (e : Nat) : Bool :=
  (List.range 4).any (fun k => (c.treeJob k).any (fun j => j.running && tEns (j.descs.getD 0 []) == e))

/-- A job on a slot that has started and has not completed: one that a fault stopped and that waits to run again is not complete (R291). -/
def Crown.ensInUse (c : Crown) (e : Nat) : Bool :=
  (List.range 4).any (fun k => (c.treeJob k).any (fun j => tEns (j.descs.getD 0 []) == e))

/-- UNLOADING ends once any running job on the slot has completed (R286). -/
def Crown.ensSettle (c : Crown) (e : Nat) : Crown :=
  if c.ensState e = 4 && !c.ensInUse e then
    let c := (c.setEns e none).on (fun n => ((n.setWord (BZ_ENSe_STAT e) 0).setWord (BZ_ENSe_INFO e) 0))
    (c.s (BZ_ENSe_TAG_LO_TAG_LO e) 0).s (BZ_ENSe_TAG_HI_TAG_HI e) 0
  else c

/-- UNLOAD (R286). A FREE slot stays FREE. -/
def Crown.ensUnload (c : Crown) (e : Nat) : Crown :=
  if c.ensState e = 0 then c else (c.s (BZ_ENSe_STAT_STATE e) 4).ensSettle e

/-- A write of BZ_ENSe_CMD (R284, R286). -/
def Crown.ensCommand (c : Crown) (e v : Nat) : Crown :=
  let c := c.on (·.write (BZ_ENSe_CMD e) (v % 2 ^ 31))
  if !bitOf v 31 then c
  else match bitsOf v 30 29 with
    | 0 => c.ensLoad e
    | 1 => c.ensUnload e
    | _ => c.ensRefuse e

/-- ENSEMBLE_LOADED (R281, R284, R285, R291): the loader has read the image, or its HBM read failed; a reload of a DAMAGED slot ends
the same way. -/
def Crown.ensLoaded (c : Crown) (e : Nat) (ok : Bool) : Crown :=
  match c.ensemble e with
  | none => c
  | some x =>
    if c.ensState e ≠ 1 ∧ c.ensState e ≠ 5 then c
    else
      let fail := fun (c : Crown) code => (c.s (BZ_ENSe_STAT_STATE e) 3).s (BZ_ENSe_STAT_ECODE e) code
      if !ok then fail c 7
      else
        let a := pageAddr x.page
        let img := c.hbmBytes a (min (iLen (c.hbmBytes a 96)) 33554432)
        let c := (c.touch a img.length).hbmCorrected
        let bad := imgCheck img
        if bad ≠ 0 then fail c bad
        else
          let sizes := (List.range (iNtree img)).map (fun t => tNodes (iTree img t))
          let assign := assignTrees sizes (List.replicate x.pcnt 0)
          let stream := x.stream || (pipeLoads sizes assign x.pcnt).any (· > 65536)
          if stream && sizes.any (· > 32768) then fail c 6
          else
            let slices := if stream then [] else (List.range x.pcnt).map (fun p => compileTrees img (treesOn assign p))
            let c := c.setEns e (some { x with img := img, assign := assign, stream := stream, slices := slices })
            let c := (((c.s (BZ_ENSe_STAT_STATE e) 2).s (BZ_ENSe_STAT_STREAMED e) (b2n stream)).s (BZ_ENSe_STAT_ECODE e) 0).s (BZ_ENSe_STAT_NOUT e) (iNout img)
            let c := ((c.s (BZ_ENSe_INFO_NFEAT e) (iNfeat img)).s (BZ_ENSe_INFO_NTREE e) (iNtree img)).s (BZ_ENSe_TAG_LO_TAG_LO e) (field img 16 4)
            (c.s (BZ_ENSe_TAG_HI_TAG_HI e) (field img 20 4)).s (BZ_ENSe_GEN_COUNT e) (c.g (BZ_ENSe_GEN_COUNT e) + 1)

/-! ### Scoring (R282, R287, R289) -/

/-- Whether FP32 value x goes left of threshold t: x < t, neither of them NaN (R282). -/
def fpLess (x t : Nat) : Bool :=
  let ord := fun v : Nat => if bitOf v 31 then -((v % 2 ^ 31 : Nat) : Int) else ((v % 2 ^ 31 : Nat) : Int)
  decide (ord x < ord t)

/-- The leaf value that a vector reaches in level regions from node `n` of region `d` on, one comparison stage for each level, and how many
comparisons took DEFAULT (R282, R283). -/
def treeWalk (fuel : Nat) (regions : List (List Nat)) (vec : Nat → Nat) (d n miss : Nat) : Nat × Nat :=
  let w := (regions.getD d []).getD n 0
  match fuel with
  | 0 => (nValue w, miss)
  | m + 1 =>
    if nLeaf w then (nValue w, miss)
    else
      let x := vec (nFeature w)
      if fpNan x then treeWalk m regions vec (d + 1) (nChild w + b2n (nDefault w)) (miss + 1)
      else treeWalk m regions vec (d + 1) (nChild w + b2n (!fpLess x (nValue w))) miss

/-- What a block's trees answer for a vector: OUT, leaf value and comparisons that took DEFAULT of each; the trees' roots stand in their order
in region 0. -/
def blockWalks (i : List Byte) (b : List Nat × List (List Nat)) (vec : Nat → Nat) : List (Nat × Nat × Nat) :=
  (List.range b.1.length).map (fun r => (field (iTree i (b.1.getD r 0)) 5 1, treeWalk 21 b.2 vec 0 r 0))

/-- A vector's scores: the code and flags of each output, and MISSED (R287). Every block of every pipeline adds its leaf values to the long
accumulator of their output, which begins at BASE; one rounding follows. -/
def scoreVector (x : Ensemble) (vec : Nat → Nat) : List Rounded × Nat :=
  let walks := (List.range x.pcnt).flatMap (fun p => (x.blocks p).flatMap (fun b => blockWalks x.img b vec))
  let out := fun o =>
    let l := (walks.filter (fun y => y.1 == o)).map (fun y => decodeFmt fmtFp32 y.2.1 149)
    convert fmtFp32 ((Num.sum (decodeFmt fmtFp32 (field x.img (32 + 4 * o) 4) 149 :: l)).add (.fin false 0)) 149
  ((List.range (iNout x.img)).map out, walks.foldl (fun a y => a + y.2.2) 0)

/-- Descriptor fields (Table 11.5). -/
def tNvec (d : List Byte) : Nat := field d 4 4
def tVec (d : List Byte) : Nat := field d 8 8
def tVstride (d : List Byte) : Nat := field d 16 4
def tKey (d : List Byte) : Nat := field d 24 8
def tOut (d : List Byte) : Nat := field d 32 8
def tFset (d : List Byte) : Nat := field d 48 2
def tWidx (d : List Byte) : Nat := field d 52 4

/-- The feature set and formed window that a job of queue `k` belongs to: the feature stage posts on queue 0 (R278). -/
def Crown.jobFset (c : Crown) (k : Nat) (d : List Byte) : Option (Nat × FeatSet × FormedWindow) :=
  if k ≠ 0 ∨ tFset d = 0xFFFF then none
  else (c.tree.sets.filterMap (fun e => match e.2 with
    | none => none
    | some f => if f.id = tFset d then (f.formed.find? (fun w => w.k % 2 ^ 32 == tWidx d)).map (fun w => (e.1, f, w)) else none)).head?

/-- One SCORE record (Table 11.6). -/
def scoreRecord (stamp fset ens flags node key widx missed : Nat) (codes : List Nat) : List Byte :=
  twBytes stamp ++ le 2 fset ++ byte ens ++ byte flags ++ le 4 node ++ le 4 key ++ le 4 widx ++ le 2 (min missed 0xFFFF) ++ byte codes.length
    ++ zeros 1 ++ codes.flatMap (le 4)

/-- Runs a tree job: every SCORE record written, sent in C5 where EXPORT asks for it; its flags, and the scores by key. -/
def Crown.runTree (c : Crown) (k : Nat) (j : EngJob) (d : List Byte) (x : Ensemble) : Crown × Nat × List (Nat × List Nat) :=
  let fs := c.jobFset k d
  let nout := iNout x.img
  let stamp : Stamp := match fs with
    | some (_, f, w) => ⟨((c.slotOf f.anchor).map (fun a => a.2.edge w.k)).getD j.start.t, j.start.qual⟩
    | none => j.start
  let export_ := bitOf (field d 1 1) 0 || fs.any (fun y => y.2.1.bit 6)
  (List.range (tNvec d)).foldl (fun (a : Crown × Nat × List (Nat × List Nat)) v =>
    let (c, fl, acc) := a
    let vec := fun f => field (c.hbmBytes (tVec d + v * tVstride d + 4 * f) 4) 0 4
    let key := if tKey d = 0 then v else field (c.hbmBytes (tKey d + 4 * v) 4) 0 4
    let (out, missed) := scoreVector x vec
    let codes := out.map (·.code)
    let rf := out.foldl (fun a o => a ||| o.flags) 0
    let qual := match fs with
      | some (_, _, w) => ((w.vecs[v]?).map (·.2)).getD 0
      | none => j.start.qual.code
    let flags := qual + 4 * b2n (bitOf rf 2) + 8 * b2n (bitOf rf 4) + 16 * b2n (fs.any (fun y => y.2.2.part))
    let r := scoreRecord stamp.t (tFset d) (tEns d) flags c.node key (if fs.isSome then tWidx d else v) missed codes
    let c := c.hbmWrite (tOut d + v * sstride nout) r
    let rec_ : Rec := { kind := 0x10, cls := 5, body := r, stamp := stamp, stampAt := 0, qualAt := if fs.isSome then none else some (19, 0), crcTail := false }
    let c := if export_ then (if fs.isSome then c.sendUp (plainRec 0x10 5 r) else c.sendUp rec_) else c
    (c, fl ||| rf, acc ++ [(key, codes)])) (c, 0, [])

/-! ### Tree queues (R288, R289) -/

/-- A queue's job replaced, with RUNNING. -/
def Crown.setTreeJob (c : Crown) (k : Nat) (j : Option EngJob) : Crown :=
  let c : Crown := { c with tree := { c.tree with q := { c.tree.q with jobs := c.tree.q.jobs.set (fun _ => none) k j } } }
  c.s (BZ_TQk_STAT_RUNNING k) (b2n (j.any (·.running)))

/-- The descriptor a queue would start. -/
def Crown.nextTree (c : Crown) (k : Nat) : Option (List Byte) :=
  let r := jobRing (tqBase k)
  match c.treeJob k with
  | some j => if j.running then none else j.descs.head?
  | none => if c.ringHeld r = 0 then none else some (c.hbmBytes (c.slotAddr r 0) 64)

/-- A queue's head is ready (R263, R288). -/
def Crown.treeReady (c : Crown) (k : Nat) : Bool :=
  let r := jobRing (tqBase k)
  c.flag r.en && (c.nextTree k).isSome && decide (1 ≤ c.cplFree r)

/-- STAT of a queue (Table 11.10). -/
def Crown.treeStat (c : Crown) (k : Nat) : Crown :=
  let r := jobRing (tqBase k)
  let d := c.nextTree k
  let full := c.flag r.en && d.isSome && c.cplFree r == 0
  let waits := c.treeReady k && d.any (fun d => c.ensBusy (tEns d))
  (c.s (BZ_TQk_STAT_WAITING k) (b2n waits)).s (BZ_TQk_STAT_CPL_FULL k) (b2n full)

/-- Follows which heads are ready, and since when (R263). -/
def Crown.treeRescan (c : Crown) : Crown :=
  let t := c.toNode.now
  let ready := (List.range 4).foldl (fun (a : Tab (Option Nat)) k =>
    a.set (fun _ => none) k (if c.treeReady k then some ((a.get (fun _ => none) k).getD t) else none)) c.tree.q.ready
  let c : Crown := { c with tree := { c.tree with q := { c.tree.q with ready := ready } } }
  (List.range 4).foldl Crown.treeStat c

/-- A nanosecond of the tree unit: its running jobs count their cycles. -/
def Crown.treeTick (c : Crown) : Crown :=
  let hz := c.hz 9
  (List.range 4).foldl (fun (c : Crown) k => match c.treeJob k with
    | some j => if j.running then c.setTreeJob k (some { j with cyc := j.cyc + hz }) else c
    | none => c) c

/-- Whether ready queue `i` ranks above `k` (R263). -/
def Crown.treeAbove (c : Crown) (i k : Nat) : Bool :=
  match c.tree.q.ready.get (fun _ => none) i, c.tree.q.ready.get (fun _ => none) k with
  | some a, some b =>
    let p := c.g (BZ_TQk_CTRL_PRIO i)
    let q := c.g (BZ_TQk_CTRL_PRIO k)
    if p ≠ q then p < q else if a ≠ b then a < b else i < k
  | _, _ => false

/-- Descriptor checks that need no ensemble (R288). -/
def treeBadOp (d : List Byte) : Bool := field d 0 1 != 0x10 || tNvec d == 0 || decide (tNvec d > 1048576)

/-- Descriptor checks against the slot's ensemble and the queue's windows (R288). -/
def Crown.treeBad (c : Crown) (k : Nat) (d : List Byte) (x : Ensemble) : Bool :=
  let n := tNvec d
  let nf := iNfeat x.img
  let inR := inPages (c.g (BZ_TQk_RLO_PAGE k)) (c.g (BZ_TQk_RHI_PAGE k))
  let inW := inPages (c.g (BZ_TQk_WLO_PAGE k)) (c.g (BZ_TQk_WHI_PAGE k))
  let st := sstride (iNout x.img)
  decide (tVstride d < 4 * nf) || !inR (rowSpan (tVec d) n (tVstride d) (4 * nf)) || (tKey d != 0 && !inR (tKey d, 4 * n))
    || !inW (rowSpan (tOut d) n st (36 + 4 * iNout x.img))

/-- A tree job's completion record; its CYCLES are those of TRE (R288; log entry 33). -/
def Crown.treeEnd (c : Crown) (k : Nat) (j : EngJob) (status flags : Nat) : Crown :=
  let d := j.descs.getD 0 []
  let r := cplRecord (zeros 88 ++ slice d 40 8) status j.lastFault j.restarts flags k j.start c.toNode.stamp (j.cyc / 1000000000)
  let c := (c.writeCpl (jobRing (tqBase k)) r).count (BZ_TQk_DONE_COUNT k)
  let c := match c.jobFset k d with
    | some (s, f, w) => if w.scores.isSome then c else
        c.setFset s (some { f with formed := f.formed.map (fun (x : FormedWindow) => if x.k = w.k then { x with scores := some [] } else x) })
    | none => c
  ((c.setTreeJob k none).ensSettle (tEns d)).treeRescan

/-- TREE_JOB_START (R286, R288, R289). A restarted job waits while its slot is DAMAGED, and runs on a slot that unloads once it has
completed (log entry 37). While a controller is not READY a ready job completes with NOHBM, as R257 says of the engine's (log entry 121). -/
def Crown.treeStart (c : Crown) (k : Nat) : Crown :=
  let c := c.treeRescan
  let r := jobRing (tqBase k)
  if !c.treeReady k then c
  else match c.nextTree k with
    | none => c
    | some d =>
      let again := (c.treeJob k).isSome
      let j : EngJob := match c.treeJob k with
        | some j => EngJob.begin j.descs c.toNode.stamp j.restarts j.lastFault
        | none => EngJob.begin [d] c.toNode.stamp 0 0
      let take := fun (c : Crown) => if again then c else c.advanceHead r 1
      if !c.hbmReady then (take c).treeEnd k j 5 0
      else if !c.flag BZ_TRE_CTRL_EN || c.basic then c
      else if treeBadOp d then (take c).treeEnd k j 2 0
      else if again && c.ensState (tEns d) == 5 then c
      else match c.ensemble (tEns d) with
        | none => (take c).treeEnd k j 6 0
        | some x =>
          if c.ensState (tEns d) ≠ 2 && !(again && c.ensState (tEns d) == 4) then (take c).treeEnd k j 6 0
          else if c.treeBad k d x then (take c).treeEnd k j 2 0
          else if c.ensBusy (tEns d) then c
          else if (List.range 4).any (fun i => i != k && c.treeReady i && c.treeAbove i k && (c.nextTree i).any (fun o => tEns o == tEns d)) then c
          else ((take c).setTreeJob k (some j)).treeRescan

/-- TREE_JOB_COMPLETE (R283, R287, R289): what the node store and the controllers corrected meanwhile comes with no command (free values, log
entry 119). -/
def Crown.treeComplete (c : Crown) (k : Nat) : Crown :=
  match c.treeJob k with
  | none => c
  | some j =>
    let d := j.descs.getD 0 []
    match c.ensemble (tEns d) with
    | none => c
    | some x =>
      if !j.running then c
      else
        let c := (List.range (tNvec d)).foldl (fun (c : Crown) v => c.touch (tVec d + v * tVstride d) (4 * iNfeat x.img)) c
        let c := c.touch (tKey d) (if tKey d = 0 then 0 else 4 * tNvec d)
        let c := if x.stream then (List.range (ceilDiv (tNvec d) 256)).foldl (fun (c : Crown) _ => c.touch (pageAddr x.page) x.img.length) c else c
        let (c, fl, scores) := c.runTree k j d x
        let c := match c.jobFset k d with
          | some (s, f, w) => c.setFset s (some { f with formed := f.formed.map (fun (y : FormedWindow) => if y.k = w.k then { y with scores := some scores } else y) })
          | none => c
        let (ce, c) := c.draw 32
        ((c.treeEnd k j 0 (fl &&& (flOflow ||| flInexact))).inc BZ_TRE_CE_COUNT ce).hbmCorrected

/-- The SCORE records of a stopped job are void (R291). -/
def Crown.voidScores (c : Crown) (d : List Byte) : Crown :=
  let nout := c.g (BZ_ENSe_STAT_NOUT (tEns d))
  (List.range (tNvec d)).foldl (fun (c : Crown) v => c.hbmVoid (tOut d + v * sstride nout) (36 + 4 * nout)) c

/-- TREE_FAULT (R291): `cause` 0 a node-store error, 1 a poisoned HBM read, 2 a domain reset. FAULT of the completion record takes
the codes of Table 10.7: HBM_UE and DOMAIN_RESET; a node-store error has no code there (log entry 38). -/
def Crown.treeFault (c : Crown) (k cause : Nat) : Crown :=
  match c.treeJob k with
  | none => c
  | some j =>
    if !j.running ∨ cause > 2 then c
    else
      let d := j.descs.getD 0 []
      let e := tEns d
      let c := (c.count BZ_TRE_FAULTS_COUNT).voidScores d
      let c := if cause = 0 then c.count BZ_TRE_UE_COUNT else if cause = 1 then c.poisoned else c
      let c := if cause = 0 && c.ensState e == 2 && !c.flag (BZ_ENSe_STAT_STREAMED e) then c.s (BZ_ENSe_STAT_STATE e) 5 else c
      let (code, c) := if cause = 0 then c.draw 8 else (if cause = 1 then 4 else 8, c)
      let j := { j with lastFault := code, running := false }
      if j.restarts + 1 > field d 3 1 % 8 then c.treeEnd k j 1 0
      else (((c.setTreeJob k (some { j with restarts := j.restarts + 1 })).count (BZ_TQk_RESTART_COUNT k)).ensSettle e).treeRescan

/-- ABORT of a tree queue (R268, R288). -/
def Crown.treeAbort (c : Crown) (k : Nat) : Crown :=
  let c := c.s (BZ_TQk_CTRL_EN k) 0
  match c.treeJob k with
  | none => c.treeRescan
  | some j => (c.voidScores (j.descs.getD 0 [])).treeEnd k { j with running := false } 4 0

end Sys2Proof.Machine
end

