-- ==== Sys2Proof/Machine/Drift.lean ====
section
/-! DEFINITION. Straggler and drift search (spec/12_stragglers_drift.md R294 to R315): window plans, detectors, Burls and the history
store. -/

namespace Sys2Proof.Machine

/-! ### Plan fields (Table 12.1) -/

def WinPlan.id (p : WinPlan) : Nat := field p.raw 0 2
def WinPlan.det (p : WinPlan) : Nat := field p.raw 3 1 % 8
def WinPlan.high (p : WinPlan) : Bool := bitOf (field p.raw 3 1) 3
def WinPlan.two (p : WinPlan) : Bool := bitOf (field p.raw 3 1) 4
def WinPlan.src (p : WinPlan) : Nat := field p.raw 4 2
def WinPlan.source (p : WinPlan) : Nat := field p.raw 6 1 % 4
def WinPlan.level (p : WinPlan) (lv : Nat) : Bool := bitOf (field p.raw 6 1) (2 + lv)
def WinPlan.stat (p : WinPlan) : Nat := field p.raw 7 1
def WinPlan.param (p : WinPlan) : Nat := field p.raw 8 2
def WinPlan.depthLog (p : WinPlan) : Nat := field p.raw 10 1
def WinPlan.bps (p : WinPlan) : Nat := field p.raw 11 1
def WinPlan.nOn (p : WinPlan) : Nat := field p.raw 12 1
def WinPlan.nOff (p : WinPlan) : Nat := field p.raw 13 1
def WinPlan.refQ (p : WinPlan) : Nat := field p.raw 14 2
def WinPlan.minPeers (p : WinPlan) : Nat := field p.raw 16 2
def WinPlan.frac (p : WinPlan) : Nat := field p.raw 18 1
def WinPlan.sev (p : WinPlan) : Nat := field p.raw 19 1
def WinPlan.ratioT (p : WinPlan) : Nat := fOf32 (field p.raw 20 4)
def WinPlan.absT (p : WinPlan) : Nat := fOf32 (field p.raw 24 4)
def WinPlan.kRef (p : WinPlan) : Nat := fOf32 (field p.raw 28 4)
def WinPlan.h (p : WinPlan) : Nat := fOf32 (field p.raw 32 4)
def WinPlan.sigmaMin (p : WinPlan) : Nat := fOf32 (field p.raw 36 4)
def WinPlan.baseLen (p : WinPlan) : Nat := field p.raw 40 2
def WinPlan.lambdaLog (p : WinPlan) : Nat := field p.raw 42 1
def WinPlan.arP (p : WinPlan) : Nat := field p.raw 43 1
def WinPlan.refit (p : WinPlan) : Nat := field p.raw 44 2
def WinPlan.budget (p : WinPlan) : Nat := field p.raw 46 2

/-- The plan learns a baseline: CUSUM, EWMA and RESIDUAL (R302). -/
def WinPlan.learns (p : WinPlan) : Bool := p.det == 2 || p.det == 3 || p.det == 4

/-- A window plan slot. -/
def Crown.winPlan (c : Crown) (s : Nat) : Option WinPlan := c.win.plans.get (fun _ => none) s

/-- A change to the window engine. -/
def Crown.onWin (c : Crown) (f : WinEngine → WinEngine) : Crown := { c with win := f c.win }

/-- A window plan slot replaced, with NWP, ALARM and BASED (Table 12.5). -/
def Crown.setWin (c : Crown) (s : Nat) (p : WinPlan) : Crown :=
  let c := c.onWin (fun w => { w with plans := w.plans.set (fun _ => none) s (some p) })
  let alarms := (p.series.filter (·.run.alarm)).length + (p.groups.filter (·.run.alarm)).length
  let based := p.learns && !p.series.isEmpty && p.series.all (fun x => x.base.isSome)
  let c := c.s BZ_WIN_STAT_NWP (c.win.plans.filter (fun e => e.2.isSome)).length
  (((c.s (BZ_WPp_STAT_ACTIVE s) 1).s (BZ_WPp_STAT_DET s) p.det).s (BZ_WPp_STAT_BASED s) (b2n based)).s (BZ_WPp_ALARM_COUNT s) alarms

/-- A window plan slot emptied. -/
def Crown.dropWin (c : Crown) (s : Nat) : Crown :=
  let c := (c.onWin (fun w => { w with plans := w.plans.set (fun _ => none) s none })).on (fun n => (n.setWord (BZ_WPp_STAT s) 0).setWord (BZ_WPp_ALARM s) 0)
  c.s BZ_WIN_STAT_NWP (c.win.plans.filter (fun e => e.2.isSome)).length

/-- The running window plans by slot. -/
def Crown.winSlots (c : Crown) : List (Nat × WinPlan) := c.win.plans.filterMap (fun e => e.2.map (fun p => (e.1, p)))

/-- The plan behind a window plan's source: the reduction plan, or the anchor of the feature set (R295, R296). -/
def Crown.winSource (c : Crown) (p : WinPlan) : Option (Nat × PlanSlot) :=
  if p.source = 2 then
    match (c.tree.sets.filterMap (·.2)).find? (fun f => f.id == p.src) with
    | none => none
    | some f => c.slotOf f.anchor
  else c.slotOf p.src

/-- The window a plan starts from: the first of its source after activation (R294). -/
def Crown.winFirst (c : Crown) (p : WinPlan) : Nat := ((c.winSource p).map (·.2.next)).getD 0

/-- Posted fits whose plan has gone: their completion records are consumed and nothing follows. -/
def orphaned (l : List Fit) : List Fit := l.map (fun f => { f with slot := 256 })

/-- The window plans of a configuration: those that LEVELS gives this crown, at most 256 (R294). Called when the reduction plans and
feature sets stand. Pages are allotted afresh. -/
def Crown.loadWins (c : Crown) (records : List (List Byte)) : Crown :=
  let lv := nodeLevel c.node - 1
  let mine := (records.filter (fun r => bitOf (field r 6 1) (2 + lv) && (field r 3 1 % 8 != 1 || c.isTray))).take 256
  let c := c.onWin (fun w => { w with plans := [], fits := orphaned w.fits, pages := 0, guestPages := 0 })
  let c := (List.range 256).foldl (fun (c : Crown) s =>
    match mine[s]? with
    | none => c.on (fun n => (n.setWord (BZ_WPp_STAT s) 0).setWord (BZ_WPp_ALARM s) 0)
    | some r =>
      let p : WinPlan := ⟨r, 0, [], [], false, false, false, 0, 0, 0, 0, 0⟩
      (c.setWin s { p with next := c.winFirst p }).s (BZ_WPp_STAT_WP_ID s) p.id) c
  (c.s BZ_WIN_STAT_NWP mine.length).s BZ_HS_FREE_COUNT (c.g BZ_HS_PAGES_COUNT)

/-- The window plans a stand-in runs for a pod: those of LEVELS pod whose source it now holds, in slots after its own (R371). -/
def Crown.loadGuestWins (c : Crown) (records : List (List Byte)) : Crown :=
  let free := (List.range 256).filter (fun s => (c.winPlan s).isNone)
  let mine := records.filter (fun r => bitOf (field r 6 1) 3 && (c.slotOf (field r 4 2)).any (fun e => c.guestPlan e.2))
  (List.zip free mine).foldl (fun (c : Crown) e =>
    let p : WinPlan := ⟨e.2, 0, [], [], false, false, true, 0, 0, 0, 0, 0⟩
    (c.setWin e.1 { p with next := c.winFirst p }).s (BZ_WPp_STAT_WP_ID e.1) p.id) c

/-! ### The history store (R310 to R312) -/

/-- Pages of a plan's ring. -/
def WinPlan.ringPages (p : WinPlan) : Nat := ceilDiv (2 ^ p.depthLog * p.bps) 65536

/-- A series gets its ring and staging page from the region, the last pages of which are a stand-in's (R371); none when the plan keeps
no history or its pages are used up. -/
def Crown.allotHistory (c : Crown) (p : WinPlan) (gap : Bool) : Option History × Crown :=
  let n := p.ringPages
  let spare := min (c.g BZ_GRV_GUEST_PAGES_COUNT) (c.g BZ_HS_PAGES_COUNT)
  let own := c.g BZ_HS_PAGES_COUNT - spare
  let start := if p.guest then own + c.win.guestPages else c.win.pages
  let limit := if p.guest then own + spare else own
  let base := c.g BZ_HS_BASE_PAGE + start
  if p.depthLog = 0 ∨ start + n + 1 > limit then (none, c)
  else
    let c := c.onWin (fun w => if p.guest then { w with guestPages := w.guestPages + n + 1 } else { w with pages := w.pages + n + 1 })
    (some ⟨base, n, base + n, 0, 0, [], [], 0, b2n gap⟩, c.s BZ_HS_FREE_COUNT (c.g BZ_HS_PAGES_COUNT - c.win.pages - c.win.guestPages))

/-- Bytes into a ring at an offset, going round at its end (log entry 40). -/
def Crown.ringWrite (c : Crown) (h : History) (off : Nat) (l : List Byte) : Crown :=
  let size := h.ringPages * 4096
  let at_ := off % size
  (c.hbmWrite (pageAddr h.ringPage + at_) (l.take (size - at_))).hbmWrite (pageAddr h.ringPage) (l.drop (size - at_))

/-- Samples a history holds. -/
def History.held (h : History) : Nat := h.segs.foldl (fun a s => a + s.samples.length) 0

/-- Old segments dropped until `need` bytes are free; SHORT counts the samples lost before full depth (R312). -/
def History.makeRoom (h : History) (need depth coming : Nat) : List HistSegment → History × Nat
  | [] => ({ h with segs := [] }, 0)
  | s :: r =>
    let usedBytes := (s :: r).foldl (fun a x => a + x.len) 0
    if usedBytes + need ≤ h.ringPages * 4096 then ({ h with segs := s :: r }, 0)
    else
      let kept := r.foldl (fun a x => a + x.samples.length) 0 + coming
      let (h, n) := History.makeRoom { h with oldest := (s.off + s.len) % (h.ringPages * 4096) } need depth coming r
      (h, n + min s.samples.length (2 ^ depth - kept))

/-- The open segment closes: header, payload, OLDEST and NEXT (R311, R312). -/
def Crown.closeSegment (c : Crown) (slot : Nat) (p : WinPlan) (x : DriftSeries) : Crown × DriftSeries :=
  match x.hist with
  | none => (c, x)
  | some h =>
    if h.stage.isEmpty then (c, x)
    else
      let raw := h.stage.flatMap (le 8)
      let (pay, _, _) := riceEncode raw 8 (4 * raw.length + 4096)
      let head := le 4 h.stageFirst ++ le 2 h.stage.length ++ byte h.flags ++ zeros 1 ++ le 2 p.id ++ zeros 2 ++ le 4 x.key ++ le 4 pay.length ++ zeros 12
      let need := 32 * ceilDiv (32 + pay.length) 32
      let (h1, short) := History.makeRoom h need p.depthLog h.stage.length h.segs
      let c := (c.inc (BZ_WPp_SHORT_COUNT slot) short).ringWrite h1 h1.next (head ++ pay)
      let seg : HistSegment := ⟨h.stageFirst, h.stage, h.flags, h1.next, need⟩
      let h2 := { h1 with segs := h1.segs ++ [seg], next := (h1.next + need) % (h.ringPages * 4096), stage := [], flags := 0 }
      (c, { x with hist := some h2 })

/-- A sample appended; the segment closes at 512 (R311). -/
def Crown.appendSample (c : Crown) (slot : Nat) (p : WinPlan) (x : DriftSeries) (k sample : Nat) : Crown × DriftSeries :=
  match x.hist with
  | none => (c, x)
  | some h =>
    let c := c.hbmWrite (pageAddr h.stagePage + 8 * h.stage.length) (le 8 sample)
    let h := { h with stageFirst := if h.stage.isEmpty then k % 2 ^ 32 else h.stageFirst, stage := h.stage ++ [sample] }
    let x := { x with hist := some h }
    if h.stage.length ≥ 512 then c.closeSegment slot p x else (c, x)

/-- The open segment closes early and the next one carries a flag: GAP_BEFORE 0, GRAFT 1, REBASE 2. -/
def Crown.breakHistory (c : Crown) (slot : Nat) (p : WinPlan) (flag : Nat) (x : DriftSeries) : Crown × DriftSeries :=
  let (c, x) := c.closeSegment slot p x
  (c, { x with hist := x.hist.map (fun h => { h with flags := h.flags ||| 2 ^ flag }) })

/-- The same for every series of a plan that a test picks. -/
def Crown.breakAll (c : Crown) (slot : Nat) (p : WinPlan) (flag : Nat) (pick : DriftSeries → Bool) : Crown × WinPlan :=
  let (c, l) := p.series.foldl (fun (a : Crown × List DriftSeries) x =>
    let (c, x) := if pick x then a.1.breakHistory slot p flag x else (a.1, x)
    (c, a.2 ++ [x])) (c, [])
  (c, { p with series := l })

/-- A directory entry (Table 12.4). -/
def dirEntry (p : WinPlan) (x : DriftSeries) (h : History) : List Byte :=
  le 2 p.id ++ zeros 2 ++ le 4 x.key ++ le 4 h.ringPage ++ le 4 h.ringPages ++ le 4 h.oldest ++ le 4 h.next ++ le 4 h.stagePage ++ le 2 h.stage.length ++ zeros 2

/-- The directory as it now stands: plans by slot, entries by key (R311; log entry 41). -/
def Crown.writeDirectory (c : Crown) : Crown :=
  let entries := c.winSlots.flatMap (fun e => e.2.series.filterMap (fun x => x.hist.map (dirEntry e.2 x)))
  if entries.isEmpty then c else c.hbmWrite (pageAddr (c.g BZ_HS_DIR_PAGE)) entries.flatten

/-! ### The values of a window (R295, R296) -/

/-- One series' value in a window. -/
structure WinValue where
  key : Nat
  tag : Nat
  twig : Nat
  index : Nat
  /-- GKEY of its Burls, a bin series' tag; and the group key of its peers (R297, R307). -/
  gkey : Nat
  group : Nat
  /-- The 48 bits of its sample; none: missing. -/
  v : Option Nat
  gap : Bool
  part : Bool
  qual : Nat
  deriving DecidableEq, Repr

/-- The Twig and INDEX of a reduction plan's series (R60, R295). -/
def planTwig (p : PlanSlot) : Nat × Nat :=
  if p.xform = 2 then (0xFF, p.index)
  else if p.skind < 2 then (if p.skind = 0 then p.index / 16 else 0xFF, p.index)
  else (p.index % 256, 0xFFFF)

/-- The values of MEMBER series. -/
def Crown.memberInputs (c : Crown) (sp : PlanSlot) (k : Nat) : List WinValue :=
  let (tw, ix) := planTwig sp
  (c.red.members.filter (fun m => m.plan == sp.id && m.k == k)).filterMap (fun m =>
    if sp.binned && m.v.isNone then none
    else some ⟨m.leaf, m.tag, tw, ix, if sp.binned then m.tag else gkeyOf sp m.leaf m.tag, gkeyOf sp m.leaf m.tag, m.v, m.gap, false, m.qual⟩)

/-- The values of GROUP series, where OUT sends the results to the history store (R218). Gapped is said of member values only (R212). -/
def Crown.groupInputs (c : Crown) (p : WinPlan) (sp : PlanSlot) (k : Nat) : List WinValue :=
  (if sp.outAt 0 c.node then c.mainPartials sp.id k else []).filterMap (fun x =>
    let v := statValue p.stat p.param 0 x.part
    if x.gkey = 0xFFFFFFFF then none
    else some ⟨x.gkey, 0, 0xFF, 0xFFFF, x.gkey, x.gkey, if v = fpMissing then none else some v, false, false, x.part.qual⟩)

/-- The values of SCORE series. -/
def scoreInputs (p : WinPlan) (w : FormedWindow) : List WinValue :=
  (w.scores.getD []).map (fun x =>
    ⟨x.1, 0, 0xFF, 0xFFFF, x.1, x.1, x.2[p.param]?, false, w.part, ((w.vecs.find? (fun y => y.1 == x.1)).map (·.2)).getD 0⟩)

/-- A value's sample (R311). -/
def WinValue.sample (x : WinValue) : Nat :=
  x.v.getD 0 + x.qual * 2 ^ 48 + b2n x.gap * 2 ^ 50 + b2n x.v.isNone * 2 ^ 51 + b2n x.part * 2 ^ 52

/-- The value in binary64 (R295). -/
def WinPlan.num (p : WinPlan) (v : Nat) : Nat := if p.source = 0 then fNat v else fOf32 (v % 2 ^ 32)

/-! ### Runs (R300) -/

/-- What a window says of a series. -/
inductive Verdict where
  | skip
  | onset
  | clear
  | neither
  deriving DecidableEq, Repr

/-- Both runs after a verdict, and whether it completes an onset (true) or a clear (false). A verdict that meets neither condition
of a drift detector sets both runs to 0 (log entry 42). -/
def RunState.step (r : RunState) (nOn nOff k : Nat) (v : Verdict) : RunState × Option Bool :=
  match v with
  | .skip => (r, none)
  | .neither => ({ r with on := 0, off := 0 }, none)
  | .onset =>
    let r := { r with on := satAdd 16 r.on 1, off := 0, onFrom := if r.on = 0 then k else r.onFrom }
    if !r.alarm && r.on ≥ nOn then ({ r with alarm := true }, some true) else (r, none)
  | .clear =>
    let r := { r with off := satAdd 16 r.off 1, on := 0, offFrom := if r.off = 0 then k else r.offFrom }
    if r.alarm && r.off ≥ nOff then ({ r with alarm := false }, some false) else (r, none)

/-! ### Baselines and detectors (R302 to R306) -/

/-- One value into the baseline; complete after BASE_N (R302). s is formed as (Σx² − Σx × Σx / n) / (n − 1) (log entry 43). -/
def DriftSeries.learn (s : DriftSeries) (p : WinPlan) (x : Nat) : DriftSeries :=
  let n := s.baseN + 1
  let s := { s with baseN := n, sx := fAdd s.sx x, sxx := fAdd s.sxx (fMul x x) }
  if n < p.baseLen then s
  else
    let nf := fNat n
    let mu := fDiv s.sx nf
    let s2 := fDiv (fSub s.sxx (fDiv (fMul s.sx s.sx) nf)) (fNat (n - 1))
    let sd := if fLt 0 s2 then fSqrt s2 else 0
    { s with base := some (mu, fMax p.sigmaMin sd), hi := 0, lo := 0, e := mu, rebased := s.rebased || s.again, again := false, sinceFit := p.refit }

/-- Both CUSUM sums after z (R303); a side the plan does not select stays at 0. -/
def DriftSeries.cusum (s : DriftSeries) (p : WinPlan) (z k : Nat) : DriftSeries × Verdict :=
  let cap := fMul (fNat 2) p.h
  let up := p.two || p.high
  let down := p.two || !p.high
  let hi := if up then fMin cap (fMax 0 (fSub (fAdd s.hi z) p.kRef)) else 0
  let lo := if down then fMin cap (fMax 0 (fSub (fSub s.lo z) p.kRef)) else 0
  let s' := { s with
    hi := hi
    lo := lo
    hiFrom := if s.hi = 0 then k else s.hiFrom
    loFrom := if s.lo = 0 then k else s.loFrom }
  (s', if fLt p.h hi || fLt p.h lo then .onset else if hi = 0 ∧ lo = 0 then .clear else .neither)

/-- EWMA (R304). -/
def DriftSeries.ewma (s : DriftSeries) (p : WinPlan) (mu sg x : Nat) : DriftSeries × Verdict :=
  let lam := fPow p.lambdaLog
  let e := fAdd s.e (fMul lam (fSub x s.e))
  let lim := fMul (fMul p.kRef sg) (fSqrt (fDiv lam (fSub (fNat 2) lam)))
  let d := fSub e mu
  let on := if p.two then fLt lim (fAbs d) else if p.high then fLt lim d else fLt lim (fSub mu e)
  ({ s with e := e }, if on then .onset else if fLe (fAbs d) (fDiv lim (fNat 2)) then .clear else .neither)

/-- LEVEL (R305). -/
def levelVerdict (p : WinPlan) (x : Nat) : Verdict :=
  if (if p.high then fLe p.absT x else fLe x p.absT) then .onset
  else if (if p.high then fLt x p.absT else fLt p.absT x) then .clear else .neither

/-- u of a value (R306). -/
def normal (mu sg x : Nat) : Nat := fDiv (fSub x mu) sg

/-- û from the coefficients and the last p values of u, newest first: the terms added in order of i. -/
def arPredict (coef us : List Nat) : Nat := (List.zipWith fMul (coef.drop 1) us).foldl fAdd (coef.getD 0 0)

/-- One value of a drift plan that yields a verdict (R302 to R306). -/
def DriftSeries.drift (s : DriftSeries) (p : WinPlan) (x k : Nat) : DriftSeries × Verdict :=
  if p.det = 5 then (s, levelVerdict p x)
  else match s.base with
    | none => ({ (s.learn p x) with lags := (x :: s.lags).take p.arP }, .skip)
    | some (mu, sg) =>
      if p.det = 2 then s.cusum p (normal mu sg x) k
      else if p.det = 3 then s.ewma p mu sg x
      else
        let u := normal mu sg x
        let us := s.lags.map (normal mu sg)
        let s1 := { s with lags := (x :: s.lags).take p.arP, sinceFit := s.sinceFit + 1 }
        match s.model with
        | none => (s1, .skip)
        | some m => if us.length < p.arP then (s1, .skip) else s1.cusum p (fDiv (fSub u (arPredict m.coef us)) m.sigma) k

/-- STAT of a finding (Table 12.3). -/
def DriftSeries.statOf (s : DriftSeries) (p : WinPlan) (x : Nat) : Nat :=
  match p.det, s.base with
  | 3, some (mu, sg) => fDiv (fAbs (fSub s.e mu)) sg
  | 5, _ => x
  | _, _ => if fLt p.h s.hi then s.hi else if fLt p.h s.lo then s.lo else 0

/-- The first window of the excursion behind an onset (Table 12.3). -/
def DriftSeries.firstOn (s : DriftSeries) (p : WinPlan) : Nat :=
  if p.det = 2 ∨ p.det = 4 then (if fLt p.h s.hi then s.hiFrom else s.loFrom) else s.run.onFrom

/-! ### Burls (R307 to R309) -/

/-- A finding before its BURL_SEQ. -/
structure Finding where
  typ : Nat
  qual : Nat
  rebased : Bool
  twig : Nat
  node : Nat
  index : Nat
  job : Nat
  gkey : Nat
  first : Nat
  value : Nat
  ref : Nat
  stat : Nat
  run : Nat
  count : Nat
  deriving DecidableEq, Repr

/-- A Burl's body (Table 12.3). -/
def burlBody (p : WinPlan) (origin seq stamp : Nat) (f : Finding) : List Byte :=
  twBytes stamp ++ byte f.typ ++ byte (f.qual + 4 * p.det + 32 * b2n p.high + 64 * b2n f.rebased) ++ byte p.sev ++ byte f.twig ++ le 4 f.node
    ++ le 4 origin ++ le 4 seq ++ le 2 p.id ++ le 2 f.index ++ le 4 f.job ++ le 4 f.gkey ++ le 4 f.first ++ le 4 f.value ++ le 4 f.ref
    ++ le 4 f.stat ++ le 2 f.run ++ le 2 f.count

/-- The order of R309 within one plan's window. -/
def Finding.before (a b : Finding) : Bool :=
  if a.node ≠ b.node then a.node < b.node
  else if a.index ≠ b.index then a.index < b.index
  else if a.twig ≠ b.twig then a.twig < b.twig
  else a.gkey ≤ b.gkey

/-- The whole hour of canopy time (R308). -/
def hourOf (t : Nat) : Nat := t / fracPerNs / nsPerSec / 3600

/-- A Burl takes its number: the crown, and the body. -/
def Crown.burl (c : Crown) (p : WinPlan) (stamp : Nat) (f : Finding) : Crown × List Byte :=
  let n := (c.g BZ_BURL_SEQ_SEQ + 1) % 2 ^ 32
  (c.s BZ_BURL_SEQ_SEQ n, burlBody p c.node n stamp f)

/-- A Burl goes upward. -/
def Crown.burlUp (c : Crown) (body : List Byte) : Crown := (c.count BZ_BURL_OUT_COUNT).sendUp (plainRec 0x0E 5 body)

/-- BUDGET_HOUR_END (R308): a plan that held back onsets in an hour now past sends one SUPPRESSED Burl, stamped with E_{k+1} of the
first finding it held back (log entry 44). -/
def Crown.hourEnd (c : Crown) (slot : Nat) : Crown :=
  match c.winPlan slot with
  | none => c
  | some p =>
    if hourOf c.toNode.now ≤ p.hour then c
    else
      let c1 := c.setWin slot { p with hour := hourOf c.toNode.now, sent := 0, held := 0 }
      if p.held = 0 then c1
      else
        let f : Finding := ⟨0x44, 0, false, 0xFF, c.node, 0xFFFF, 0, 0, p.heldFirst, 0, 0, 0, 0, min p.held 0xFFFF⟩
        let (c2, body) := c1.burl p p.heldStamp f
        ((c2.inc (BZ_WPp_SUPP_COUNT slot) p.held).inc BZ_BURL_SUPP_COUNT p.held).burlUp body

/-- One finding of a plan issued: to Grove always, upward within BUDGET (R308). -/
def Crown.issue (c : Crown) (slot stamp : Nat) (f : Finding) : Crown :=
  match c.winPlan slot with
  | none => c
  | some p =>
    let on := f.typ = 0x40 ∨ f.typ = 0x42
    let (c, body) := c.burl p stamp f
    let c := c.onWin (fun w => { w with toGrove := w.toGrove ++ [body] })
    if !on then c.burlUp body
    else
      let c := c.count (BZ_WPp_ONSET_COUNT slot)
      if p.budget ≠ 0 ∧ p.sent ≥ p.budget then
        c.setWin slot { p with
          held := p.held + 1
          heldFirst := if p.held = 0 then f.first else p.heldFirst
          heldStamp := if p.held = 0 then stamp else p.heldStamp }
      else (c.setWin slot { p with sent := p.sent + 1 }).burlUp body

/-! ### Stragglers (R297 to R301) -/

/-- The job Grove had recorded for a die at a moment. -/
def Crown.jobAt (c : Crown) (leaf t : Nat) : Nat :=
  (((c.win.jobLog.get (fun _ => []) leaf).find? (fun e => e.1 ≤ t)).map (·.2)).getD 0

/-- The die's job changed in a window. -/
def Crown.jobChanged (c : Crown) (leaf e0 e1 : Nat) : Bool := (c.win.jobLog.get (fun _ => []) leaf).any (fun e => e0 ≤ e.1 && e.1 < e1)

/-- A peer group of a window: its sketch's COUNT, REF in binary64, and members over. -/
structure PeerGroup where
  job : Nat
  gkey : Nat
  count : Nat
  ref : Option Nat
  nOver : Nat
  deriving DecidableEq, Repr

/-- 2^((κ + 0.5)/35) in binary64, to nearest (log entry 45). -/
def refOf (q : Quantile) : Option Nat :=
  match q with
  | .zero => some 0
  | .low => none
  | .bucket κ => some (toF64 (.fin false (bucketMid κ)) 61)

/-- Whether a value is over its reference (R299). -/
def isOver (p : WinPlan) (v ref : Nat) : Bool :=
  if p.high then fLe (fMul p.ratioT ref) v && fLe p.absT (fSub v ref)
  else fLe (fMul v p.ratioT) ref && fLe p.absT (fSub ref v)

/-- The peer group of a job and key over a window's values (R298). -/
def peerGroup (p : WinPlan) (kmin : Nat) (l : List (WinValue × Nat)) (job gkey : Nat) : PeerGroup :=
  let vs := (l.filter (fun x => x.2 == job && x.1.group == gkey)).filterMap (fun x => x.1.v)
  let sketch := vs.foldl (fun q v => q.histInsert v) (Partial.empty 16 kmin)
  let ref := if vs.length < p.minPeers then none else (sketch.quantile p.refQ).bind refOf
  let n := match ref with
    | none => 0
    | some r => (vs.filter (fun v => isOver p (fNat v) r)).length
  ⟨job, gkey, vs.length, ref, n⟩

/-- R301: too many of the group are over in one window. -/
def PeerGroup.shifts (g : PeerGroup) (p : WinPlan) : Bool := p.frac != 0 && decide (g.nOver * 256 > p.frac * g.count)

/-! ### Fits (R306) -/

/-- A series' samples as binary64 values, oldest first: none where a sample is not valid, or where windows are absent. -/
def DriftSeries.values (s : DriftSeries) (p : WinPlan) : List (Option Nat) :=
  let one := fun (x : Nat) => if bitsOf x 52 50 ≠ 0 then none else some (p.num (x % 2 ^ 48))
  match s.hist with
  | none => []
  | some h => h.segs.flatMap (fun g => (if bitOf g.flags 0 then [none] else []) ++ g.samples.map one)
      ++ (if bitOf h.flags 0 then [none] else []) ++ h.stage.map one

/-- The rows of a fit: target and its p predecessors, newest predecessor first. -/
def fitRows (n : Nat) (l : List (Option Nat)) (prev : List Nat) : List (List Nat) :=
  match l with
  | [] => []
  | none :: r => fitRows n r []
  | some x :: r =>
    if prev.length = n then (x :: prev) :: fitRows n r ((x :: prev).take n) else fitRows n r ((x :: prev).take n)

/-- A place for the lag matrix and for the result: free pages in the queue's windows (log entry 39). -/
def Crown.freePage (c : Crown) (lo hi : Nat) : Nat × Crown :=
  let (r, c) := c.draw 28
  (pageAddr (lo + r % (hi + 1 - lo)), c)

/-- Posts the fit of a series, when its rows are not empty and the queue has room (R306). -/
def Crown.postFit (c : Crown) (slot : Nat) (p : WinPlan) (s : DriftSeries) : Crown × Bool :=
  match s.base with
  | none => (c, false)
  | some (mu, sg) =>
    let n := p.arP
    let all := fitRows n (s.values p) []
    let rows := (all.drop (all.length - 2 ^ p.depthLog)).map (fun r => r.map (normal mu sg))
    let q := c.win.turn
    let r := jobRing (eqBase q)
    let w := rows.length
    if w = 0 ∨ c.ringHeld r ≥ c.ringN r then (c, false)
    else
      let kk := 32 * ceilDiv w 32
      let col := fun (f : List Nat → Nat) => (rows.map f).flatMap (fun v => le 2 (bf16Of v)) ++ zeros (2 * (kk - w))
      let cols := (col (fun _ => fNat 1)) :: ((List.range n).map (fun i => col (fun r => r.getD (i + 1) 0)) ++ [col (fun r => r.getD 0 0)])
      let (a, c) := c.freePage (c.g (BZ_EQk_RLO_PAGE q)) (c.g (BZ_EQk_RHI_PAGE q))
      let (o, c) := c.freePage (c.g (BZ_EQk_WLO_PAGE q)) (c.g (BZ_EQk_WHI_PAGE q))
      let (mt, c) := c.draw 8
      let (retry, c) := c.draw 3
      let (cb, c) := c.draw 9
      let (tag, c) := c.draw 64
      let c := (List.range cols.length).foldl (fun (c : Crown) i => c.hbmWrite (a + i * 2 * kk) (cols.getD i [])) c
      let d := byte 1 ++ byte 1 ++ byte 8 ++ byte 8 ++ byte 0 ++ byte (1 + mt % 3) ++ byte retry ++ zeros 1 ++ le 4 (n + 1) ++ le 4 (n + 2) ++ le 4 kk
        ++ le 2 cb ++ le 2 1 ++ le 8 a ++ le 8 a ++ zeros 8 ++ le 8 o ++ zeros 16 ++ le 4 (2 * kk) ++ le 4 (2 * kk) ++ le 4 (4 * (n + 2)) ++ zeros 4 ++ le 8 tag
      let c := (c.postDesc r d).getD c
      let c := c.onWin (fun e => { e with turn := 5 - q, fits := e.fits ++ [⟨q, slot, s.key, s.tag, n, o, rows⟩] })
      (c.engRescan, true)

/-- Cholesky factor L of a symmetric matrix, row by row; none when a pivot is not positive. Rows so far are in `l`. -/
def cholesky (fuel : Nat) (m : Nat → Nat → Nat) (n : Nat) (l : List (List Nat)) : Option (List (List Nat)) :=
  match fuel with
  | 0 => some l
  | f + 1 =>
    let i := l.length
    if i ≥ n then some l
    else
      let at_ := fun (r : List Nat) (j : Nat) => r.getD j 0
      let row := (List.range i).foldl (fun (r : List Nat) j =>
        let lj := l.getD j []
        let sum := (List.range j).foldl (fun a t => fSub a (fMul (at_ r t) (at_ lj t))) (m i j)
        r ++ [fDiv sum (at_ lj j)]) []
      let piv := (List.range i).foldl (fun a t => fSub a (fMul (at_ row t) (at_ row t))) (m i i)
      if fLt 0 piv then cholesky f m n (l ++ [row ++ [fSqrt piv]]) else none

/-- Forward, then back substitution: the solution of L Lᵀ a = b. -/
def cholSolve (l : List (List Nat)) (b : Nat → Nat) : List Nat :=
  let n := l.length
  let at_ := fun i j => (l.getD i []).getD j 0
  let y := (List.range n).foldl (fun (y : List Nat) i =>
    y ++ [fDiv ((List.range i).foldl (fun a t => fSub a (fMul (at_ i t) (y.getD t 0))) (b i)) (at_ i i)]) []
  (List.range n).reverse.foldl (fun (a : List Nat) i =>
    fDiv ((List.range a.length).foldl (fun s t => fSub s (fMul (at_ (i + 1 + t) i) (a.getD t 0))) (y.getD i 0)) (at_ i i) :: a) []

/-- The model of a completed fit (R306): none when a pivot is not positive. The sums run in index order (log entry 46). -/
def Crown.solveFit (c : Crown) (f : Fit) (p : WinPlan) (sg : Nat) : Option ArModel :=
  let n := f.p + 1
  let g := fun i j => fOf32 (field (c.hbmBytes (f.out + (i * (f.p + 2) + j) * 4) 4) 0 4)
  let trace := (List.range n).foldl (fun a i => fAdd a (g i i)) 0
  let rho := fDiv (fMul (fPow 20) trace) (fNat n)
  match cholesky n (fun i j => if i = j then fAdd (g i i) rho else g i j) n [] with
  | none => none
  | some l =>
    let a := cholSolve l (fun i => g i n)
    let sq := f.rows.foldl (fun s r => let e := fSub (r.getD 0 0) (arPredict a (r.drop 1)); fAdd s (fMul e e)) 0
    some ⟨a, fMax (fDiv p.sigmaMin sg) (fSqrt (fDiv sq (fNat f.rows.length)))⟩

/-- REFIT_COMPLETE (R306): queue `q`'s next completion record is consumed. `ue`: a history read of the fit met HBM_UE (R314). -/
def Crown.refitComplete (c : Crown) (q : Nat) (ue : Bool) : Crown :=
  let r := jobRing (eqBase q)
  match c.win.fits.find? (fun f => f.queue == q) with
  | none => c
  | some f =>
    if cdiff (c.g r.cplTail) (c.g r.cplHead) = 0 then c
    else
      let rec_ := c.hbmBytes (pageAddr (c.g r.cplBase) + c.g r.cplHead % c.ringN r * r.cslot) 64
      let c := (c.touch (pageAddr (c.g r.cplBase) + c.g r.cplHead % c.ringN r * r.cslot) r.cslot).s r.cplHead (c.g r.cplHead + 1)
      let c := c.touch f.out ((f.p + 1) * (f.p + 2) * 4)
      let c := (c.onWin (fun w => { w with fits := w.fits.erase f })).engRescan
      match c.winPlan f.slot with
      | none => c
      | some p =>
        let fail := c.count (BZ_WPp_REFIT_FAIL f.slot)
        match (p.series.find? (fun s => s.key == f.key && s.tag == f.tag)).bind (fun s => s.base) with
        | none => c
        | some (_, sg) =>
          if ue ∨ field rec_ 8 1 ≠ 0 then fail
          else match c.solveFit f p sg with
            | none => fail
            | some m =>
              let up := fun (s : DriftSeries) => if s.key = f.key ∧ s.tag = f.tag then { s with model := some m } else s
              (c.setWin f.slot { p with series := p.series.map up }).count (BZ_WPp_REFIT_DONE f.slot)

/-! ### Processing a window (R296) -/

/-- A series of a plan that has just been seen. -/
def newSeries (x : WinValue) (h : Option History) : DriftSeries :=
  { key := x.key, tag := x.tag, twig := x.twig, index := x.index, run := RunState.reset, baseN := 0, sx := 0, sxx := 0, base := none, hi := 0,
    lo := 0, hiFrom := 0, loFrom := 0, e := 0, lags := [], model := none, sinceFit := 0, again := false, rebased := false, hist := h }

/-- Every value's series exists; series stand by key, then tag. -/
def Crown.ensureSeries (c : Crown) (p : WinPlan) (l : List WinValue) : Crown × WinPlan :=
  l.foldl (fun (a : Crown × WinPlan) x =>
    let (c, p) := a
    if p.series.any (fun s => s.key == x.key && s.tag == x.tag) then a
    else
      let (h, c) := c.allotHistory p p.guest
      let le := fun (a b : DriftSeries) => decide (a.key < b.key) || (a.key == b.key && decide (a.tag ≤ b.tag))
      (c, { p with series := insertBy le (newSeries x h) p.series })) (c, p)

/-- The next window a plan may process here and E_{k+1} of its source; none yet (R296). -/
def Crown.winReady (c : Crown) (p : WinPlan) : Option (Nat × Nat × PlanSlot) :=
  match c.winSource p with
  | none => none
  | some (slot, sp) =>
    if p.source = 2 then
      match (c.tree.sets.filterMap (·.2)).find? (fun f => f.id == p.src) with
      | none => none
      | some f => (f.formed.find? (fun w => p.next ≤ w.k && w.scores.isSome)).map (fun w => (w.k, sp.edge (w.k + 1), sp))
    else if c.windowShut slot sp p.next then some (p.next, sp.edge (p.next + 1), sp) else none

/-- The plan whose window is next in order: the earliest end, then the lower slot. -/
def Crown.winNext (c : Crown) : Option (Nat × WinPlan × Nat × Nat × PlanSlot) :=
  (c.winSlots.filterMap (fun e => (c.winReady e.2).map (fun r => (e.1, e.2, r)))).foldl
    (fun (b : Option (Nat × WinPlan × Nat × Nat × PlanSlot)) x =>
      match b with
      | none => some x
      | some y => if x.2.2.2.1 < y.2.2.2.1 then some x else b) none

/-- What one series made of its value: the series, and its finding. -/
def driftOne (p : WinPlan) (k node : Nat) (late : Bool) (s : DriftSeries) (x : WinValue) : DriftSeries × Verdict × Option Finding :=
  match x.v with
  | none => (s, .skip, none)
  | some v =>
    if x.gap || x.part || late then (s, .skip, none)
    else
      let n := p.num v
      let (s, vd) := if p.det = 0 then (s, .neither) else s.drift p n k
      let (r, ev) := s.run.step p.nOn p.nOff k vd
      let s := { s with run := if p.det = 0 then s.run else r }
      let mu := match p.det, s.base with
        | 5, _ => 0
        | _, some (m, _) => m
        | _, none => 0
      match ev with
      | none => (s, vd, none)
      | some on =>
        let f : Finding := ⟨if on then 0x40 else 0x41, x.qual, s.rebased, x.twig, node, x.index, 0, x.gkey, (if on then s.firstOn p else r.offFrom) % 2 ^ 32,
          f32Of n, f32Of mu, f32Of (s.statOf p n), if on then r.on else r.off, 0⟩
        ({ s with rebased := false }, vd, some f)

/-- One series of a STRAGGLER plan (R297 to R301). -/
def stragglerOne (p : WinPlan) (k node : Nat) (dead : Bool) (job : Nat) (g : Option PeerGroup) (s : DriftSeries) (x : WinValue) :
    DriftSeries × Verdict × Option Finding :=
  match x.v, g with
  | some v, some g =>
    match g.ref with
    | none => (s, .skip, none)
    | some ref =>
      if x.gap || dead || g.shifts p then (s, .skip, none)
      else
        let n := fNat v
        let vd : Verdict := if isOver p n ref then .onset else .clear
        let (r, ev) := s.run.step p.nOn p.nOff k vd
        let s := { s with run := r }
        match ev with
        | none => (s, vd, none)
        | some on =>
          let f : Finding := ⟨if on then 0x40 else 0x41, x.qual, false, x.twig, node, x.index, job, x.gkey, (if on then r.onFrom else r.offFrom) % 2 ^ 32,
            f32Of n, f32Of ref, f32Of (fDiv n ref), if on then r.on else r.off, min g.count 0xFFFF⟩
          (s, vd, some f)
  | _, _ => (s, .skip, none)

/-- A peer group's run (R301). VALUE and STAT of a group's Burl have no value in the spec: free values (log entry 47). -/
def Crown.groupRun (c : Crown) (p : WinPlan) (k tw ix qual : Nat) (g : PeerGroup) : Crown × WinPlan × Option Finding :=
  match g.ref with
  | none => (c, p, none)
  | some ref =>
    if p.frac = 0 then (c, p, none)
    else
      let old := ((p.groups.find? (fun x => x.job == g.job && x.gkey == g.gkey)).map (·.run)).getD RunState.reset
      let (r, ev) := old.step p.nOn p.nOff k (if g.shifts p then .onset else .clear)
      let rest := p.groups.filter (fun x => !(x.job == g.job && x.gkey == g.gkey))
      let p := { p with groups := rest ++ [(⟨g.job, g.gkey, r⟩ : GroupRun)] }
      match ev with
      | none => (c, p, none)
      | some on =>
        let (v, c) := c.draw 32
        let (st, c) := c.draw 32
        let f : Finding := ⟨if on then 0x42 else 0x43, qual, false, tw, c.node, ix, g.job, g.gkey, (if on then r.onFrom else r.offFrom) % 2 ^ 32, v, f32Of ref, st,
          if on then r.on else r.off, min g.count 0xFFFF⟩
        (c, p, some f)

/-- Slots a series' value costs (R313). -/
def WinPlan.slots (p : WinPlan) : Nat := b2n (p.depthLog != 0) + (match p.det with | 0 => 0 | 1 => 2 | 4 => p.arP + 2 | _ => 1)

/-- Every series of the plan takes its value of window `k`, its sample and, for RESIDUAL, its next fit. -/
def Crown.processSeries (c : Crown) (slot : Nat) (p : WinPlan) (k : Nat) (l : List WinValue)
    (one : DriftSeries → WinValue → DriftSeries × Verdict × Option Finding) : Crown × WinPlan × List Finding :=
  let (c, series, fs) := p.series.foldl (fun (a : Crown × List DriftSeries × List Finding) s =>
    let (c, acc, fs) := a
    let x := (l.find? (fun x => x.key == s.key && x.tag == s.tag)).getD ⟨s.key, s.tag, s.twig, s.index, 0, 0, none, false, false, 0⟩
    let learnt := s.baseN
    let (s, vd, f) := one s x
    let c := if vd = .skip && p.det != 0 && s.baseN == learnt then c.count (BZ_WPp_SKIP_COUNT slot) else c
    let (c, s) := c.appendSample slot p s k x.sample
    let (c, s) := if p.det = 4 && s.base.isSome && s.sinceFit ≥ p.refit then
        (match c.postFit slot p s with
          | (c, true) => (c, { s with sinceFit := 0 })
          | (c, false) => (c, s))
      else (c, s)
    (c, acc ++ [s], fs ++ f.toList)) (c, [], [])
  (c, { p with series := series }, fs)

/-- The plan's window `k` processed (R296 to R306). -/
def Crown.processWindow (c : Crown) (slot : Nat) (p : WinPlan) (k stamp : Nat) (sp : PlanSlot) : Crown :=
  let (c, p) := if p.gap then c.breakAll slot p 0 (fun _ => true) else (c, p)
  let calm := fun (r : RunState) => { r with on := 0, off := 0 }
  let p := if p.clearRuns then { p with
      series := p.series.map (fun (s : DriftSeries) => { s with run := calm s.run })
      groups := p.groups.map (fun (g : GroupRun) => { g with run := calm g.run }) } else p
  let late := p.source != 2 && c.red.closed.any (fun x => x.plan == sp.id && x.supp && decide (x.k ≤ k) && decide (k < x.k + 2 ^ x.log))
  let l := match p.source with
    | 0 => c.memberInputs sp k
    | 1 => c.groupInputs p sp k
    | _ => (((c.tree.sets.filterMap (·.2)).find? (fun f => f.id == p.src)).bind (fun f => f.formed.find? (fun w => w.k == k))).elim [] (scoreInputs p)
  let (c, p) := c.ensureSeries p l
  let (c, p, fs) :=
    if p.det = 1 then
      let e0 := sp.edge k
      let withJob := l.map (fun x => (x, c.jobAt x.key stamp))
      let groups := ((withJob.map (fun x => (x.2, x.1.group))).eraseDups).map (fun y => peerGroup p sp.kmin withJob y.1 y.2)
      let (c, p, fg) := groups.foldl (fun (a : Crown × WinPlan × List Finding) g =>
        if late then a
        else
          let q := withJob.foldl (fun q x => if x.2 = g.job ∧ x.1.group = g.gkey ∧ x.1.v.isSome then max q x.1.qual else q) 0
          let (c, p, f) := a.1.groupRun a.2.1 k (planTwig sp).1 (planTwig sp).2 q g
          (c, p, a.2.2 ++ f.toList)) (c, p, [])
      let (c, p, fs) := c.processSeries slot p k l (fun s x =>
        let job := c.jobAt s.key stamp
        stragglerOne p k s.key (late || c.jobChanged s.key e0 stamp) job (groups.find? (fun g => g.job == job && g.gkey == x.group)) s x)
      (c, p, fg ++ fs)
    else
      let node := fun (s : DriftSeries) => if p.source = 0 then s.key else c.node
      c.processSeries slot p k l (fun s x => driftOne p k (node s) late s x)
  let p := { p with next := k + 1, gap := false, clearRuns := false }
  let short := p.guest && p.depthLog != 0 && p.series.any (fun s => s.hist.isNone)
  let c := (c.setWin slot p).s (BZ_WPp_WIDX_WIDX slot) k
  let c := c.onWin (fun w => { w with used := w.used + p.slots * p.series.length })
  let c := c.hourEnd slot
  let c := ((sortBy Finding.before fs).foldl (fun (c : Crown) f => c.issue slot stamp f) c).writeDirectory
  if short then c.dropWin slot else c

/-- A closed window passed over: EN = 0 counts it; basic mode also restarts the runs (R314). -/
def Crown.skipWindow (c : Crown) (slot : Nat) (p : WinPlan) (k : Nat) (basic : Bool) : Crown :=
  let c := if basic then c else c.inc (BZ_WPp_SKIP_COUNT slot) p.series.length
  c.setWin slot { p with next := k + 1, gap := true, clearRuns := p.clearRuns || basic }

/-- WINDOW_PROCESS (R296): the next closed window in order, if there is one. -/
def Crown.windowProcess (c : Crown) : Crown :=
  match c.winNext with
  | none => c
  | some (slot, p, k, stamp, sp) =>
    if c.basic then c.skipWindow slot p k true
    else if !c.flag BZ_WIN_CTRL_EN then c.skipWindow slot p k false
    else c.processWindow slot p k stamp sp

/-- Leaving basic mode (R314): the windows that closed while it held processing are passed over, each series closes its open segment, and
the next one carries GAP_BEFORE. -/
def Crown.winResume (fuel : Nat) (c : Crown) : Crown :=
  match fuel with
  | 0 => c
  | n + 1 =>
    match c.winNext with
    | none =>
      (c.winSlots.foldl (fun (c : Crown) e =>
        let (c, p) := c.breakAll e.1 e.2 0 (fun _ => true)
        c.setWin e.1 { p with gap := false, clearRuns := true }) c).writeDirectory
    | some (slot, p, k, _, _) => (c.skipWindow slot p k true).winResume n

/-! ### Commands, Graft and resets (R302, R314) -/

/-- A series learns its baseline again. -/
def DriftSeries.relearn (s : DriftSeries) : DriftSeries :=
  { s with baseN := 0, sx := 0, sxx := 0, base := none, hi := 0, lo := 0, e := 0, lags := [], model := none, sinceFit := 0, again := true }

/-- REBASE of a plan slot (R302, R311). -/
def Crown.rebase (c : Crown) (slot : Nat) : Crown :=
  match c.winPlan slot with
  | none => c
  | some p =>
    let (c, p) := c.breakAll slot p 2 (fun _ => true)
    (c.setWin slot { p with series := p.series.map DriftSeries.relearn }).writeDirectory

/-- RESET_RUNS of a plan slot: runs set to 0 (Table 12.5). -/
def Crown.resetRuns (c : Crown) (slot : Nat) : Crown :=
  match c.winPlan slot with
  | none => c
  | some p =>
    let calm := fun (r : RunState) => { r with on := 0, off := 0 }
    c.setWin slot { p with
      series := p.series.map (fun (s : DriftSeries) => { s with run := calm s.run })
      groups := p.groups.map (fun (g : GroupRun) => { g with run := calm g.run }) }

/-- A write of BZ_WIN_CMD. -/
def Crown.winCommand (c : Crown) (v : Nat) : Crown :=
  let c := c.on (·.write BZ_WIN_CMD (v % 2 ^ 31))
  if !bitOf v 31 then c
  else match bitsOf v 30 29 with
    | 0 => c.rebase (bitsOf v 7 0)
    | 1 => c.resetRuns (bitsOf v 7 0)
    | _ => c

/-- Graft moved a number: every MEMBER series of it is re-baselined, its runs reset, its next segment carries GRAFT (R314). -/
def Crown.winGraft (c : Crown) (leaf : Nat) : Crown :=
  let mine := fun (s : DriftSeries) => s.key == leaf
  (c.winSlots.foldl (fun (c : Crown) e =>
    if e.2.source ≠ 0 then c
    else
      let (c, p) := c.breakAll e.1 e.2 1 mine
      c.setWin e.1 { p with series := p.series.map (fun (s : DriftSeries) => if mine s then { s.relearn with run := { s.run with on := 0, off := 0 } } else s) }) c).writeDirectory

/-- A write of BZ_HS_BASE, BZ_HS_PAGES or BZ_HS_DIR: no effect while EN = 1 (R315). FREE follows PAGES. -/
def Crown.hsWrite (c : Crown) (off v : Nat) : Crown :=
  if c.flag BZ_WIN_CTRL_EN then c
  else
    let c := c.on (·.write off v)
    c.s BZ_HS_FREE_COUNT (c.g BZ_HS_PAGES_COUNT - c.win.pages - c.win.guestPages)

/-- SL of BZ_WIN_LOAD over the last 1 ms: of 32 slots in each of 1,600,000 SCN cycles (R313). -/
def Crown.winLoad (c : Crown) : Crown :=
  (c.s BZ_WIN_LOAD_SL (min 100 (c.win.used * 100 / max 1 (32 * c.hz 10 / 1000)))).onWin (fun w => { w with used := 0 })

/-- SCN domain reset: every run, sum, baseline, model and staging page; each plan starts again as at activation, its next segments
carrying GAP_BEFORE (R314). The registers reset with the domain. -/
def Crown.winReset (c : Crown) : Crown :=
  let clear := fun (x : DriftSeries) =>
    { newSeries ⟨x.key, x.tag, x.twig, x.index, 0, 0, none, false, false, 0⟩ (x.hist.map (fun h => { h with stage := [], flags := h.flags ||| 1 })) with again := false }
  let w := c.win
  let c := c.onWin (fun w => { w with plans := w.plans.map (fun e => (e.1, e.2.map (fun p =>
    { p with series := p.series.map clear, groups := [], gap := false, clearRuns := false, sent := 0, held := 0 }))), fits := orphaned w.fits, turn := 2, used := 0, toGrove := [] })
  (w.plans.filterMap (fun e => e.2.map (fun p => (e.1, p)))).foldl (fun (c : Crown) e =>
    match c.winPlan e.1 with
    | none => c
    | some p => (c.setWin e.1 { p with next := max p.next (c.winFirst p) }).s (BZ_WPp_STAT_WP_ID e.1) p.id) c

end Sys2Proof.Machine
end

