-- ==== Sys2Proof/Machine/AgeFit.lean ====
section
/-! DEFINITION. Ageing points and their fit at a crown (spec/04_sensors_guards_ageing.md R114, R115, R117). Slack is held in 2^-16 ps, hours
raised to n in 2^-32, each rounded down (log entry 54). Port 64 stands for the crown's own cells, which its self leaf measures. -/

namespace Sys2Proof.Machine

/-- The value of an FP32 code in units of 2^-149; a code that is not a number counts as 0. -/
def fpInt (code : Nat) : Int :=
  match decodeFmt fmtFp32 code 149 with
  | .fin _ v => v
  | _ => 0

/-- The CHANNEL declarations of the die on a port; the self leaf's have LIST 0xFF (log entry 55). -/
def Crown.channels (c : Crown) (p : Nat) : List (List Byte) := (decls c.image 3).filter (fun d => field d 0 1 == (if p < 64 then (c.port p).list else 0xFF))

/-- A channel's physical value in units of 2^-298: raw code × SCALE + OFFSET. -/
def physical (d : List Byte) (raw : Nat) : Int :=
  let v : Int := if field d 3 1 ≠ 0 then sgn 16 raw else (raw : Int)
  (v * fpInt (field d 4 4) + fpInt (field d 8 4)) * 2 ^ 149

/-- slack_norm of a SENSOR record for an ageing channel, in 2^-16 ps; none unless the channel, its temperature and its supply are VALID
(R114). -/
def slackNorm (ds : List (List Byte)) (d body : List Byte) : Option Int :=
  let ok := fun ch => bitOf (field body 20 8) ch
  let raw := fun ch => field body (28 + 2 * ch) 2
  let of := fun ch : Nat => ds.find? (fun x => field x 1 1 == ch)
  let ch := field d 1 1
  let tc := field d 28 1
  let sc := field d 29 1
  match of tc, of sc with
  | some dt, some dv =>
    if !(ok ch && ok tc && ok sc) then none
    else
      let t := physical dt (raw tc) - fpInt (field d 12 4) * 2 ^ 149
      let v := physical dv (raw sc) - fpInt (field d 16 4) * 2 ^ 149
      let s := physical d (raw ch) * 2 ^ 149 + fpInt (field d 20 4) * t - fpInt (field d 24 4) * v
      some (s / 2 ^ (447 - 16))
  | _, _ => none

/-- An ageing channel's state. -/
def Crown.ageChan (c : Crown) (p ch : Nat) : AgeChan := c.age.chans.get (fun _ => AgeChan.new) (64 * p + ch)

/-- An ageing channel's state replaced. -/
def Crown.setAge (c : Crown) (p ch : Nat) (a : AgeChan) : Crown :=
  { c with age := { c.age with chans := c.age.chans.set (fun _ => AgeChan.new) (64 * p + ch) a } }

/-- A SENSOR record of the die on a port: each ageing channel (kinds 3 and 4) takes its sample (R114). -/
def Crown.ageSample (c : Crown) (p : Nat) (body : List Byte) : Crown :=
  let ds := c.channels p
  (ds.filter (fun d => field d 2 1 == 3 || field d 2 1 == 4)).foldl (fun (c : Crown) d =>
    match slackNorm ds d body with
    | none => c
    | some s => let a := c.ageChan p (field d 1 1); c.setAge p (field d 1 1) { a with samples := a.samples ++ [s] }) c

/-- The median of samples: of two middle ones their mean, rounded down (log entry 54). -/
def median (l : List Int) : Int :=
  let s := sortBy (fun (a b : Int) => a ≤ b) l
  let n := s.length
  if n % 2 = 1 then s.getD (n / 2) 0 else (s.getD (n / 2 - 1) 0 + s.getD (n / 2) 0) / 2

/-- The greatest x, found bit by bit from `x + 2^b` down, with x^256 ≤ m. -/
def root256 (b x m : Nat) : Nat :=
  match b with
  | 0 => x
  | k + 1 => if (x + 2 ^ k) ^ 256 ≤ m then root256 k (x + 2 ^ k) m else root256 k x m

/-- t^(n/256) in units of 2^-32. -/
def hourPow (t n : Nat) : Nat := root256 66 0 (t ^ n * 2 ^ (32 * 256))

/-- The channels of a unit that are in service and have points, with the V/f domain each was last planned in. -/
def Crown.inService (c : Crown) (p : Nat) : List (Nat × AgeChan) :=
  (c.age.chans.filter (fun e => e.1 / 64 == p && !e.2.retired && !e.2.points.isEmpty)).map (fun e => (e.1 % 64, e.2))

/-- ps per step of a channel, in 2^-149. -/
def Crown.stepPs (c : Crown) (p ch : Nat) : Int := (((c.channels p).find? (fun d => field d 1 1 == ch)).map (fun d => fpInt (field d 30 4))).getD 0

/-- S_H + steps × g, in 2^-165 ps. -/
def Crown.withSteps (c : Crown) (p ch : Nat) (sh : Int) (steps : Int) : Int := sh * 2 ^ 149 + steps * c.stepPs p ch * 2 ^ 16

/-- The fit of R115 after a point: S_H, a and the needed steps. -/
def Crown.ageFit (c : Crown) (p ch : Nat) (a : AgeChan) : AgeChan :=
  let n := c.g BZ_AGE_EXP_N
  let s0 := a.base.getD 0
  let xs := a.points.map (fun x => (hourPow x.1 n, s0 - x.2))
  let num : Int := xs.foldl (fun s x => s + x.2 * (x.1 : Int)) 0
  let den : Int := xs.foldl (fun s x => s + (x.1 : Int) * (x.1 : Int)) 0
  let xh : Int := hourPow ((a.points.getLast?.map (·.1)).getD 0 + c.g BZ_AGE_HORIZON_H) n
  let sh := if den = 0 then s0 else s0 - num * xh / den
  let g := c.stepPs p ch
  let lack : Int := (c.g BZ_AGE_GB_GB_MIN : Int) * 2 ^ 16 - sh
  let need := if lack ≤ 0 then 0 else if g ≤ 0 then c.g BZ_AGE_RELIEF_MAX_STEPS + 1 else ((lack * 2 ^ 149 + g * 2 ^ 16 - 1) / (g * 2 ^ 16)).toNat
  { a with sh := sh, a := if den = 0 then 0 else num * 2 ^ 32 / den, need := need }

/-- The steps in force of a unit's V/f domain: the target last sent (log entry 115). -/
def Crown.steps (c : Crown) (p dom : Nat) : Nat := c.age.sent.get (fun _ => 0) (8 * p + dom)

/-- RADIO_OK of a unit: the worst S_H + steps × g of its channels in service reaches GB_RADIO (R117). -/
def Crown.radioMargin (c : Crown) (p : Nat) : Bool :=
  (c.inService p).all (fun x => decide (c.withSteps p x.1 x.2.sh (c.steps p x.2.dom) ≥ (c.g BZ_AGE_GB_GB_RADIO : Int) * 2 ^ 165))

end Sys2Proof.Machine
end

