-- ==== Sys2Proof/Machine/Grove.lean ====
section
/-! DEFINITION. Grove (spec/14_placement_graft.md R351 to R371): the health map, grades, placement, spare groups and Graft. -/

namespace Sys2Proof.Machine

/-! ### The health map (R351 to R354) -/

/-- A change to Grove's state. -/
def Crown.onGrove (c : Crown) (f : Grove → Grove) : Crown := { c with grove := f c.grove }

/-- An entry of the health map. -/
def Crown.die (c : Crown) (p : Nat) : Die := c.grove.dies.get (fun _ => Die.reset) p

/-- The grade a condition gives (Table 14.1). -/
def condGrade (b : Nat) : Nat :=
  match b with
  | 0 => 0
  | 1 => 0
  | 2 => 0
  | 5 => 0
  | 11 => 0
  | 3 => 1
  | 6 => 1
  | 8 => 1
  | 13 => 1
  | 15 => 1
  | _ => 2

/-- The lowest grade among conditions in force; G3 with none. -/
def gradeOf (cond : Nat) : Nat := (numsWhere 16 (bitOf cond)).foldl (fun g b => min g (condGrade b)) 3

/-- The grade the die's conditions give. -/
def Die.due (d : Die) : Nat := if d.failed then 0 else gradeOf d.cond

/-- An operator HOLD is in force. -/
def Die.held (d : Die) : Bool := bitOf d.cond 13

/-- Radio-eligible (R354). -/
def Die.radioElig (d : Die) : Bool := d.grade == 3 && d.radioOk && d.timeOk && d.pstate == 0 && !d.held

/-- Tenant-eligible (R354). -/
def Die.tenantElig (d : Die) : Bool := decide (d.grade ≥ 2) && d.pstate == 0 && !d.held

/-- The grade follows the conditions: a fall at once, a rise after UP_MS (R353). `fresh`: a condition has just arisen. -/
def Die.regrade (d : Die) (ns : Nat) (fresh : Bool) : Die :=
  if d.due ≤ d.grade then { d with grade := d.due, calm := none }
  else { d with calm := if fresh then some ns else some (d.calm.getD ns) }

/-- STALE (R362): no input for 10 ms. -/
def Crown.stale (c : Crown) : Bool := decide (c.ns ≥ c.grove.inputAt + 10000000)

/-- A 24-byte Grove head and a body (R356). -/
def Crown.groveRec (c : Crown) (typ node : Nat) (body : List Byte) : Rec :=
  c.stampedRec 0x11 5 (byte typ ++ byte (c.toNode.qual.code + 4 * b2n c.stale) ++ zeros 2 ++ le 4 node ++ body) (some (17, 0))

/-- GSEQ of the next record: its count since the AON reset (log entry 48). -/
def Crown.nextGseq (c : Crown) : Nat × Crown :=
  let n := (c.grove.gseq + 1) % 2 ^ 32
  (n, c.onGrove (fun g => { g with gseq := n }))

/-- The node word of the die on a port: by its number, or PHYS (R20, R21). -/
def Crown.dieWord (c : Crown) (p : Nat) : Nat :=
  let d := c.die p
  if d.pstate = 0 ∨ (c.port p).kind = 1 then childWord c.node d.num else physNode c.node p

/-- The numbered leaf word behind a port's number. -/
def Crown.numWord (c : Crown) (p : Nat) : Nat := childWord c.node (c.die p).num

/-- HEALTH (Table 14.2). -/
def Crown.healthRec (c : Crown) (p old : Nat) : Crown :=
  let d := c.die p
  let (n, c) := c.nextGseq
  c.sendUp (c.groveRec 0x60 (c.dieWord p) (byte old ++ byte d.grade
    ++ byte (b2n d.radioOk + 2 * b2n d.timeOk + 4 * b2n d.radioElig + 8 * b2n d.tenantElig) ++ byte d.pstate ++ le 2 d.cond ++ zeros 2 ++ le 4 d.job
    ++ le 4 c.node ++ le 4 n))

/-- WITHDRAW (R355). -/
def Crown.withdraw (c : Crown) (p job : Nat) (radio : Bool) (reason : Nat) : Crown :=
  let (n, c) := c.nextGseq
  (c.count BZ_GRV_WITHDRAW_COUNT).sendUp (c.groveRec 0x61 (c.dieWord p) (le 4 job ++ byte (b2n radio) ++ byte reason ++ zeros 2 ++ le 4 c.node ++ le 4 n))

/-- The spare groups of this crown in the seed: PORTS and SPARES of groups 0 to 15 (Table 16.2). -/
def Crown.groups (c : Crown) : List (Nat × Nat) :=
  match (pieces 260 (c.sec 10)).find? (fun r => sameNode (field r 0 4) c.node) with
  | none => []
  | some r => (List.range 16).map (fun g => (field r (4 + 16 * g) 8, field r (12 + 16 * g) 8))

/-- The group of a port; 0xFF when it is in none. -/
def Crown.groupOf (c : Crown) (p : Nat) : Nat :=
  ((List.range c.groups.length).find? (fun g => bitOf (c.groups.getD g (0, 0)).1 p)).getD 0xFF

/-- Ports of a bit set. -/
def portsOf (m : Nat) : List Nat := numsWhere 64 (bitOf m)

/-- A ready spare (R365). -/
def Die.ready (d : Die) : Bool := d.pstate == 1 && d.grade == 3

/-- COUNTS and the group registers follow the map: entries that are not ABSENT count (log entry 49). -/
def Crown.groveRegs (c : Crown) : Crown :=
  let ds := (List.range 64).map c.die
  let n := fun g => (ds.filter (fun d => d.pstate != 3 && d.grade == g)).length
  let c := (((c.s BZ_GRV_COUNTS_G3 (n 3)).s BZ_GRV_COUNTS_G2 (n 2)).s BZ_GRV_COUNTS_G1 (n 1)).s BZ_GRV_COUNTS_G0 (n 0)
  (List.range c.groups.length).foldl (fun (c : Crown) g =>
    let ps := portsOf (c.groups.getD g (0, 0)).1
    ((c.s (BZ_GRV_GRPg_PORTS g) ps.length).s (BZ_GRV_GRPg_READY g) (ps.filter (fun p => (c.die p).ready)).length).s (BZ_GRV_GRPg_VACANT g)
      (c.grove.vacant.filter (fun v => v.group == g)).length) c

/-- The REASON of a WITHDRAW: the lowest CAUSE bit in force, else 0x20 where RADIO_OK or TIME_OK is missing; a failure declared with no
condition in force has no code, a free value (log entry 50). -/
def Crown.withdrawReason (c : Crown) (d : Die) : Nat × Crown :=
  match (numsWhere 16 (bitOf d.cond)).head? with
  | some b => (b, c)
  | none => if !d.radioOk || !d.timeOk then (0x20, c) else c.draw 8

/-- A number summed over the children's SUMMARY records. -/
def Crown.sumOf (c : Crown) (i : Nat) : Nat := c.logical.foldl (fun a p => a + ((c.grove.summaries.get (fun _ => none) p).map (fun s => field s.body i 2)).getD 0) 0

/-- Entries of a tray's map that meet a test. -/
def Crown.diesWith (c : Crown) (f : Die → Bool) : Nat := (((List.range 64).map c.die).filter f).length

/-- FREE_RADIO (Table 14.2). -/
def Crown.freeRadio (c : Crown) : Nat := c.diesWith (fun d => d.radioElig && d.job == 0)

/-- SUMMARY's record (R356): of a tray crown's own map, or summed over a pod crown's trays. -/
def Crown.sendSummary (c : Crown) : Crown :=
  if c.top then c
  else
    let num := fun (f : Die → Bool) i => if c.isTray then c.diesWith f else c.sumOf i
    let grade := fun g => num (fun d => d.pstate != 3 && d.grade == g) (24 + 2 * (3 - g))
    let (q, c') := c.nextGseq
    c'.on (·.post c'.upLane (c'.groveRec 0x64 c.node (le 2 (grade 3) ++ le 2 (grade 2) ++ le 2 (grade 1) ++ le 2 (grade 0)
      ++ le 2 (if c.isTray then c.freeRadio else c.sumOf 32) ++ le 2 (num (fun d => d.tenantElig && d.job == 0) 34)
      ++ le 2 (if c.isTray then c.grove.vacant.length else c.sumOf 36) ++ le 2 (num Die.ready 38) ++ le 4 (c.g BZ_GRV_MAPSEQ_SEQ) ++ le 4 q)))

/-- SUMMARY (R356): every 1 ms. -/
def Crown.summary (c : Crown) : Crown :=
  if c.ns < c.grove.sumAt + 1000000 then c else (c.onGrove (fun g => { g with sumAt := c.ns })).sendSummary

/-- An entry changed: MAP_SEQ, HEALTH and the WITHDRAW that R355 calls for (R355, R356); a tray crown's SUMMARY follows at once where FREE_RADIO
has reached 0. -/
def Crown.setDie (c : Crown) (p : Nat) (d : Die) : Crown :=
  let o := c.die p
  let free := c.freeRadio
  let c := c.onGrove (fun g => { g with dies := g.dies.set (fun _ => Die.reset) p d })
  let moved := o.grade != d.grade || o.radioElig != d.radioElig || o.tenantElig != d.tenantElig || o.job != d.job || o.pstate != d.pstate
  let c := if moved then c.s BZ_GRV_MAPSEQ_SEQ (c.g BZ_GRV_MAPSEQ_SEQ + 1) else c
  let c := if moved then c.groveRegs else c
  let c := if o.grade != d.grade || o.pstate != d.pstate || o.radioOk != d.radioOk || o.timeOk != d.timeOk then c.healthRec p o.grade else c
  let c := if o.job ≠ 0 ∧ d.job = o.job ∧ (if o.radioJob then o.radioElig && !d.radioElig else decide (o.grade > 0) && d.grade == 0) then
    (let (r, c) := c.withdrawReason d
     c.withdraw p o.job o.radioJob r)
  else c
  if c.isTray && free != 0 && c.freeRadio == 0 then c.sendSummary else c

/-- Conditions of a die changed, and its grade with them. -/
def Crown.condition (c : Crown) (p : Nat) (f : Die → Die) : Crown :=
  let o := c.die p
  let d := f o
  c.setDie p (d.regrade c.ns (d.cond ||| o.cond != o.cond))

/-- One condition arises or clears. -/
def Crown.setCond (c : Crown) (p b : Nat) (on : Bool) : Crown := c.condition p (fun d => { d with cond := putBits d.cond b b (b2n on) })

/-- An input has reached Grove (R362). -/
def Crown.groveInput (c : Crown) : Crown := (c.onGrove (fun g => { g with inputAt := c.ns })).s BZ_GRV_STAT_STALE 0

/-- A job recorded on, or taken off, a die, with the moment for the window engine (R297, R361). -/
def Crown.setJob (c : Crown) (p job : Nat) (radio : Bool) : Crown :=
  let d := c.die p
  let w := c.numWord p
  let c := c.onWin (fun x => { x with jobLog := x.jobLog.set (fun _ => []) w ((c.toNode.now, job) :: x.jobLog.get (fun _ => []) w) })
  c.setDie p { d with job := job, radioJob := job != 0 && radio, lastRadio := if job = 0 then d.lastRadio else radio }

/-! ### Margin targets (R110, R116, R117) -/

/-- The crown re-plan target of a port's V/f domain: the greater of the re-plan's target and the audit's hold (R335). -/
def Crown.vfTarget (c : Crown) (p dom : Nat) : Nat := max (c.age.target.get (fun _ => 0) (8 * p + dom)) (c.age.hold.get (fun _ => 0) (8 * p + dom))

/-- Whether a die carries radio work (R117). -/
def Crown.carriesRadio (c : Crown) (p : Nat) : Bool := (c.die p).job != 0 && (c.die p).radioJob

/-- RADIO_OK as last told: of a die in the health map, or of the crown's own cells. -/
def Crown.radioOk (c : Crown) (p : Nat) : Bool := if p < 64 then (c.die p).radioOk else c.age.ownOk

/-- An AGE record (Table 4.9). -/
def Crown.ageRec (c : Crown) (p ch : Nat) (a : AgeChan) (ok : Bool) : Rec :=
  c.stampedRec 0x0D 5 (byte 0x21 ++ byte (b2n ok + 2 * b2n a.retired + 4 * b2n a.rebased) ++ byte ch ++ byte a.dom
    ++ le 4 (if p < 64 then c.dieWord p else c.node) ++ le 2 (if p < 64 then 0xFFFF else a.cell) ++ le 2 (c.steps p a.dom)
    ++ le 4 (unsgn 32 (a.sh / 2 ^ 8)) ++ le 4 (unsgn 32 a.a) ++ le 4 a.hours) none

/-- A channel's steps, eligibility or retirement are told (R118): the AGE record, and Grove's map with it, where a retired unit is a failure
(R117, R366). -/
def Crown.ageTell (c : Crown) (p ch : Nat) : Crown :=
  let a := c.ageChan p ch
  let ok := c.radioMargin p
  let c := (c.sendUp (c.ageRec p ch a ok)).setAge p ch { a with rebased := false }
  if p < 64 then c.groveInput.condition p (fun d => { d with radioOk := ok, cond := if a.retired then d.cond ||| 2 ^ 11 else d.cond })
  else { c with age := { c.age with ownOk := ok } }

/-- Sends a leaf its target where it has changed; a step up is withheld while the die carries radio work (R117, R355), and every
change in basic mode (Table 17.4). The crown's own
domains are driven through PMBus (R116). Every channel in service of the domain is told (R118). -/
def Crown.sendMargin (c : Crown) (p dom : Nat) : Crown :=
  let t := c.vfTarget p dom
  let old := c.age.sent.get (fun _ => 0) (8 * p + dom)
  if t = old ∨ c.basic ∨ (p < 64 ∧ t > old ∧ c.carriesRadio p) then c
  else
    let c : Crown := { c with age := { c.age with sent := c.age.sent.set (fun _ => 0) (8 * p + dom) t } }
    let c := if p < 64 then c.bulkDown p (byte 0x14 ++ byte dom ++ byte t ++ zeros 1) else c.emit (.word "pmbus" (byte dom ++ byte t))
    ((c.inService p).filter (fun x => x.2.dom == dom)).foldl (fun (c : Crown) x => c.ageTell p x.1) c

/-- Targets withheld from a die become due (R355). -/
def Crown.dueMargins (c : Crown) (p : Nat) : Crown := (List.range 8).foldl (fun (c : Crown) d => c.sendMargin p d) c

/-! ### Numbers, failure and Graft (R365 to R368) -/

/-- ASSIGN to the child on a port: its number, or NONE to withdraw it (R411); what it has acknowledged counts anew. -/
def Crown.sendAssign (c : Crown) (p word : Nat) : Crown :=
  let out := (c.bring.boot.kids.get (fun _ => ChildBoot.reset) p).excluded
  let kid : ChildBoot := { ChildBoot.reset with assigned := if word = nodeNone then none else some word, excluded := out }
  (c.onBoot (fun b => { b with kids := b.kids.set (fun _ => ChildBoot.reset) p kid })).bulkDown p (byte 0x10 ++ zeros 3 ++ le 4 word ++ le 4 (c.g BZ_SEED_GEN_GEN))

/-- The topology entry in force of a port changed (R366). -/
def Crown.setPort (c : Crown) (p : Nat) (e : PortEntry) : Crown := { c with ports := c.ports.set (fun _ => PortEntry.unused) p e }

/-- The audit engines of a port restart in IDLE, and its relief holds end (R335, R366). Their notices end with the Prune. -/
def Crown.idleEngines (c : Crown) (p : Nat) : Crown :=
  let c : Crown := { c with aud := { c.aud with engines := c.aud.engines.filter (fun e => e.1 / 256 != p) } }
  (List.range 8).foldl (fun (c : Crown) d =>
    { c with age := { c.age with hold := c.age.hold.set (fun _ => 0) (8 * p + d) 0 } }) c

/-- GRAFT or VACANT (Table 14.2). -/
def Crown.graftRec (c : Crown) (typ word oldP newP group : Nat) (radio : Bool) (tfail : Nat) : Crown :=
  let (n, c) := c.nextGseq
  c.sendUp (c.groveRec typ word (byte oldP ++ byte newP ++ byte group ++ byte (b2n radio) ++ twBytes tfail ++ le 4 c.node ++ le 4 n))

/-- A spare takes a number (R366, R368): the map, the topology, the assignment, and the subsystems that follow. -/
def Crown.graft (c : Crown) (sp num oldP group : Nat) (radio : Bool) (tfail : Nat) : Crown :=
  let c := c.setPort sp { c.port sp with kind := 1, num := num }
  let c := c.setDie sp { c.die sp with pstate := 0, num := num, job := 0, radioJob := false, lastRadio := false }
  let w := childWord c.node num
  let c := ((c.idleEngines sp).sendAssign sp w).count BZ_GRV_GRAFTS_COUNT
  (c.graftRec 0x62 w oldP sp group radio tfail).winGraft w

/-- The ready spare a group's claim takes: the lowest port number (R366). -/
def Crown.readySpare (c : Crown) (group : Nat) : Option Nat :=
  if group ≥ 16 then none else (portsOf (c.groups.getD group (0, 0)).1).find? (fun p => (c.die p).ready)

/-- A number becomes vacant (R366). -/
def Crown.vacate (c : Crown) (k : Claim) : Crown :=
  let c := c.onGrove (fun x => { x with vacant := x.vacant ++ [k.vac] })
  (c.graftRec 0x63 (childWord c.node k.vac.num) k.port 0xFF k.vac.group k.vac.radio k.vac.at_).groveRegs

/-- A LOGICAL die has failed (R366, R369); its leaf is told that it has no number (Table 16.8). A port in a group claims a spare at the end of
the cycle; one in no group leaves its number vacant. -/
def Crown.failPort (c : Crown) (p : Nat) : Crown :=
  let d := c.die p
  if d.pstate ≠ 0 ∨ d.failed ∨ !c.isTray then c
  else
    let tfail := c.toNode.now
    let c := c.condition p (fun d => { d with failed := true })
    if !c.flag BZ_GRV_CTRL_GRAFT_EN || c.basic then c
    else
      let v : Vacancy := ⟨d.num, c.groupOf p, tfail, (c.die p).lastRadio⟩
      let c := if (c.die p).job ≠ 0 then c.setJob p 0 false else c
      let c := (c.setPort p { c.port p with kind := 0, num := 0 }).setDie p { c.die p with pstate := 2, num := 0, job := 0, radioJob := false }
      let c := (c.idleEngines p).sendAssign p nodeNone
      if v.group < 16 then c.onGrove (fun g => { g with claims := g.claims ++ [⟨v, p⟩] }) else c.vacate ⟨v, p⟩

/-- One claim (R366, R367): the next ready spare is Grafted, or the number becomes vacant and the claim is counted. -/
def Crown.serveClaim (c : Crown) (k : Claim) : Crown :=
  match c.readySpare k.vac.group with
  | some sp => c.graft sp k.vac.num k.port k.vac.group k.vac.radio k.vac.at_
  | none => (c.count BZ_GRV_CLAIMLOST_COUNT).vacate k

/-- Whether a claim is served before another of its cycle (R367): radio first, then the earlier failure, the lower number, the lower port. -/
def Claim.before (a b : Claim) : Bool :=
  let key := fun (k : Claim) => [if k.vac.radio then 0 else 1, k.vac.at_, k.vac.num, k.port]
  decide (key a < key b) || key a == key b

/-- The claims of a cycle, served in their order at its end. -/
def Crown.serveClaims (c : Crown) : Crown :=
  if c.grove.claims.isEmpty then c
  else (sortBy Claim.before c.grove.claims).foldl Crown.serveClaim (c.onGrove (fun g => { g with claims := [] }))

/-- VACANCY_FILL (R368): a ready spare of a group that holds vacancies is Grafted under the oldest, the lower number first; claims of the
cycle come before it. -/
def Crown.vacancyFill (c : Crown) (g : Nat) : Crown :=
  if c.basic then c
  else
    let c := c.serveClaims
    let vs := sortBy (fun (a b : Vacancy) => decide (a.at_ < b.at_) || (a.at_ == b.at_ && decide (a.num ≤ b.num))) (c.grove.vacant.filter (fun v => v.group == g))
    match c.readySpare g, vs.head? with
    | some sp, some v =>
      let c := c.onGrove (fun x => { x with vacant := x.vacant.filter (· != v) })
      (c.graft sp v.num 0xFF g v.radio v.at_).groveRegs
    | _, _ => c

/-! ### Health inputs (R352, R366) -/

/-- Burl conditions of a die follow its open ONSET Burls. -/
def Die.burlConds (d : Die) : Die :=
  let c := putBits d.cond 6 6 (b2n (d.burls.any (fun b => b.sev == 3)))
  { d with cond := putBits c 7 7 (b2n (d.burls.any (fun b => b.sev == 1 || b.sev == 2))) }

/-- A Burl of this crown, or one re-originated (R308, R352): of a die below a tray crown, an ONSET or CLEAR moves its conditions. -/
def Crown.groveBurl (c : Crown) (body : List Byte) : Crown :=
  let c := c.groveInput
  let node := field body 20 4
  let typ := field body 16 1
  let b : OpenBurl := ⟨field body 24 4, field body 32 2, field body 34 2, field body 19 1, field body 40 4, field body 18 1 % 4⟩
  if !c.isTray ∨ nodeLevel node ≠ 0 ∨ bitOf node 29 ∨ (typ ≠ 0x40 ∧ typ ≠ 0x41) then c
  else match c.portToward node with
    | none => c
    | some p => c.condition p (fun d =>
        let same := fun (x : OpenBurl) => { x with sev := 0 } == { b with sev := 0 }
        let rest := d.burls.filter (fun x => !same x)
        { d with burls := if typ = 0x40 then rest ++ [b] else rest }.burlConds)

/-- The Burls just issued here reach Grove (R308). -/
def Crown.groveDrain (c : Crown) : Crown :=
  c.win.toGrove.foldl Crown.groveBurl (c.onWin (fun w => { w with toGrove := [] }))

/-- A guard record of a die (Table 4.7). -/
def Crown.groveGuard (c : Crown) (p : Nat) (body : List Byte) : Crown :=
  let typ := field body 16 1
  let acts := field body 22 1
  let g := field body 23 1 % 8
  let u := field body 18 1
  c.condition p (fun d =>
    let fenced := if typ = 0x10 ∧ bitOf acts 2 then d.fenced ||| 2 ^ g else if typ = 0x13 then putBits d.fenced g g 0 else d.fenced
    let tripped :=
      if typ = 0x10 then (if bitOf acts 0 || bitOf acts 3 then d.tripped ||| 2 ^ u else d.tripped)
      else if typ = 0x11 then putBits d.tripped u u 0 else d.tripped
    let cond := putBits d.cond 0 0 (b2n (fenced != 0))
    { d with fenced := fenced, tripped := tripped, cond := putBits cond 9 9 (b2n (tripped != 0)) })

/-- A die's TSTATUS: TIME_OK is FAULT = 0 (R354). `fault` is the record's FAULT bit. -/
def Crown.groveTime (c : Crown) (p : Nat) (fault : Bool) : Crown := c.condition p (fun d => { d with timeOk := !fault })

/-- The receiver's view of a port: C0 DEAD (R149). -/
def Crown.portDead (c : Crown) (p : Nat) : Bool := bitOf (c.g (BZ_SAPRXk_STAT_DEAD p)) 0

/-- Bit 8 follows C0 DEAD of the port (R352); NEW clears with a C0 or C5 frame. -/
def Crown.groveLink (c : Crown) (p : Nat) (heard : Bool) : Crown :=
  let dead := c.portDead p
  let d := c.die p
  let cond := putBits d.cond 8 8 (b2n dead)
  let cond := if heard then putBits cond 15 15 0 else cond
  if cond = d.cond ∧ d.deadSince.isSome = dead then c
  else c.condition p (fun d => { d with cond := cond, deadSince := if dead then some (d.deadSince.getD c.ns) else none })

/-- What an AGE record of a die says (R117, R118): RADIO_OK, and a retired unit, which is a failure (R366). -/
def Crown.groveAge (c : Crown) (p : Nat) (body : List Byte) : Crown :=
  let flags := field body 17 1
  let c := c.condition p (fun d => { d with radioOk := bitOf flags 0, cond := if bitOf flags 1 then d.cond ||| 2 ^ 11 else d.cond })
  if bitOf flags 1 && !c.basic then c.failPort p else c

/-- HEALTH_INPUT (R352): an input of the die on a port reaches Grove: 0 the state of its C0, 1 a guard record, 2 the FAULT bit of its
TSTATUS, 3 an AGE record, 4 any other frame of C0 or C5. -/
def Crown.healthInput (c : Crown) (p kind : Nat) (body : List Byte) : Crown :=
  let c := c.groveInput
  if (c.die p).pstate = 3 then c else
  match kind with
  | 0 => c.groveLink p false
  | 1 => (c.groveLink p true).groveGuard p body
  | 2 => c.groveTime p (field body 0 1 != 0)
  | 3 => (c.groveLink p true).groveAge p body
  | _ => c.groveLink p true

/-- GRADE_RISE (R353). -/
def Crown.gradeRise (c : Crown) (p : Nat) : Crown :=
  let d := c.die p
  match d.calm with
  | none => c
  | some t =>
    if c.ns < t + max 1 (c.g BZ_GRV_CTRL_UP_MS) * 1000000 then c
    else c.setDie p { d with grade := d.due, calm := none }

/-- DEAD_FAIL_TIMEOUT (R366). -/
def Crown.deadFail (c : Crown) (p : Nat) : Crown :=
  match (c.die p).deadSince with
  | none => c
  | some t => if c.ns < t + max 1 (c.g BZ_GRV_FAIL_FAIL_MS) * 1000000 then c else c.failPort p

/-- A die appears on a port: LOGICAL or SPARE by its topology entry, NEW until it is heard (R351, R352). RADIO_OK comes from the
seed's declarations, in which no entry withholds it (log entry 51). -/
def Crown.dieAppears (c : Crown) (p : Nat) : Crown :=
  let e := c.port p
  if (c.die p).pstate ≠ 3 ∨ (e.kind ≠ 1 ∧ e.kind ≠ 2) then c
  else
    let d := c.die p
    c.setDie p { d with pstate := if e.kind = 1 then 0 else 1, num := e.num, cond := 0x8000, grade := 1, radioOk := true }

/-! ### Port commands (R368) -/

/-- A command refused. -/
def Crown.portRefuse (c : Crown) (e : Nat) : Crown := (c.s BZ_GRV_STAT_ERR 1).s BZ_GRV_STAT_ECODE e

/-- HOLD 0, UNHOLD 1, FAIL 2, REINSTATE 3 on a port. -/
def Crown.portCommand (c : Crown) (op p : Nat) : Crown :=
  let d := c.die p
  let known := (topoPort c.image c.node p).kind = 1 ∨ (topoPort c.image c.node p).kind = 2
  if c.basic then c.portRefuse 3
  else if !known then c.portRefuse 1
  else match op with
    | 0 => if d.pstate = 0 then c.setCond p 13 true else c.portRefuse 2
    | 1 => c.setCond p 13 false
    | 2 =>
      if d.pstate ≠ 0 then c.portRefuse 2
      else (c.onGrove (fun g => { g with dies := g.dies.set (fun _ => Die.reset) p { d with failed := false } })).failPort p
    | 3 =>
      if d.pstate ≠ 2 then c.portRefuse 2
      else
        let c := c.setPort p { c.port p with kind := 2, num := 0 }
        let lost := d.deadSince.isSome
        c.setDie p { Die.reset with pstate := 1, radioOk := true, cond := 0x8000 + b2n lost * 2 ^ 8, deadSince := d.deadSince }
    | _ => c.portRefuse 2

/-- A write of BZ_GRV_PORT_CMD. -/
def Crown.portCmdWrite (c : Crown) (v : Nat) : Crown :=
  let c := c.on (·.write BZ_GRV_PORT_CMD (v % 2 ^ 31))
  if bitOf v 31 then c.portCommand (bitsOf v 30 28) (bitsOf v 5 0) else c

/-! ### Placement (R357 to R363) -/

/-- Request fields (Table 14.3). -/
def qOp (r : List Byte) : Nat := field r 0 1
def qRadio (r : List Byte) : Bool := field r 1 1 == 1
def qCount (r : List Byte) : Nat := field r 2 1
def qAll (r : List Byte) : Bool := bitOf (field r 3 1) 0
def qPreempt (r : List Byte) : Bool := bitOf (field r 3 1) 1
def qScope (r : List Byte) : Nat := field r 4 4
def qJob (r : List Byte) : Nat := field r 8 4
def qAffinity (r : List Byte) : Nat := field r 16 4
def qMask (r : List Byte) : Nat := field r 24 8

/-- BADREQ (R358). -/
def badRequest (r : List Byte) : Bool :=
  let s := qScope r
  (qOp r != 1 && qOp r != 2) || decide (field r 1 1 > 1)
    || (qOp r == 1 && (qCount r == 0 || decide (qCount r > 64)))
    || qJob r == 0 || qJob r == 0xFFFFFFFF || nodeMalformed s
    || (qPreempt r && !qRadio r)
    || (qOp r == 1 && nodeLevel s == 0 && qCount r != 1)
    || (qOp r == 2 && decide (nodeLevel s > 1))

/-- A response (Table 14.4). -/
def Crown.response (c : Crown) (r : List Byte) (status count : Nat) (preempted : Bool) (tray dies : Nat) : List Byte :=
  byte status ++ byte count ++ byte (qOp r) ++ byte (b2n c.stale + 2 * b2n preempted) ++ slice r 12 4 ++ slice r 8 4 ++ le 4 tray
    ++ le 8 dies ++ le 4 (c.g BZ_GRV_MAPSEQ_SEQ) ++ zeros 4

/-- LOGICAL ports in a request's SCOPE, by ascending number; a leaf SCOPE names one. -/
def Crown.inScope (c : Crown) (r : List Byte) : List Nat :=
  sortBy (fun (a b : Nat) => decide ((c.die a).num ≤ (c.die b).num)) ((List.range 64).filter (fun p =>
    let d := c.die p
    d.pstate == 0 && (nodeLevel (qScope r) != 0 || c.portToward (qScope r) == some p)))

/-- Whether MASK names a number: it counts with a tray or leaf SCOPE only. -/
def maskHas (r : List Byte) (n : Nat) : Bool := decide (nodeLevel (qScope r) < 2) && bitOf (qMask r) n

/-- Dies as a response names them. -/
def Crown.dieBits (c : Crown) (ps : List Nat) : Nat := ps.foldl (fun a p => a ||| 2 ^ (c.die p).num) 0

/-- NONE, PARTIAL and RELEASE mismatches count (Table 14.6). -/
def Crown.noteAnswer (c : Crown) (status : Nat) : Crown := if status = 1 ∨ status = 2 then c.count BZ_GRV_NONE_COUNT else c

/-- PLACE at a tray crown (R360). -/
def Crown.placeHere (c : Crown) (r : List Byte) : Crown × List Byte :=
  let ok := fun p => if qRadio r then (c.die p).radioElig else (c.die p).tenantElig
  let scope := (c.inScope r).filter (fun p => !maskHas r (c.die p).num)
  let free := scope.filter (fun p => (c.die p).job == 0 && ok p)
  let order := if qRadio r then free else
    let down := free.reverse
    down.filter (fun p => (c.die p).grade == 2) ++ down.filter (fun p => (c.die p).grade != 2)
  let first := order.take (qCount r)
  let more := if qRadio r && qPreempt r && c.flag BZ_GRV_CTRL_PREEMPT_EN
    then (scope.filter (fun p => (c.die p).job != 0 && !(c.die p).radioJob && (c.die p).radioElig)).take (qCount r - first.length) else []
  let all := first ++ more
  if all.isEmpty ∨ (all.length < qCount r ∧ qAll r) then (c.noteAnswer 2, c.response r 2 0 false c.node 0)
  else
    let c := more.foldl (fun (c : Crown) p => c.withdraw p (c.die p).job false 0x21) c
    let c := all.foldl (fun (c : Crown) p => c.setJob p (qJob r) (qRadio r)) c
    let st := if all.length < qCount r then 1 else 0
    (c.noteAnswer st, c.response r st all.length (!more.isEmpty) c.node (c.dieBits all))

/-- PLACE in basic mode: the static table's entries of the class, in order (R369). -/
def Crown.placeStatic (c : Crown) (r : List Byte) : Crown × List Byte :=
  let rec find (fuel : Nat) (l : List Byte) : List Nat :=
    match fuel with
    | 0 => []
    | n + 1 =>
      if l.length < 8 then []
      else
        let k := field l 4 2
        if sameNode (field l 0 4) c.node then (List.range k).map (fun i => field l (8 + 2 * i) 2) else find n (l.drop (8 + 2 * k))
  let sec := c.sec 11
  let entries := (find (sec.length + 1) sec).filter (fun e => bitOf e 8 == qRadio r)
  let ports := entries.filterMap (fun e => (c.inScope r).find? (fun p => (c.die p).num == e % 64))
  let got := (ports.filter (fun p => (c.die p).job == 0 && (c.die p).grade != 0 && !maskHas r (c.die p).num)).take (qCount r)
  let c := got.foldl (fun (c : Crown) p => c.setJob p (qJob r) (qRadio r)) c
  (c, c.response r 4 got.length false c.node (c.dieBits got))

/-- RELEASE at a tray crown (R361): each die that MASK names in the tray. -/
def Crown.releaseHere (c : Crown) (r : List Byte) : Crown × List Byte :=
  let named := (List.range 64).filter (fun p => (c.die p).pstate == 0 && maskHas r (c.die p).num)
  let mine := named.filter (fun p => (c.die p).job == qJob r)
  let c := c.inc BZ_GRV_NONE_COUNT (named.filter (fun p => (c.die p).job != 0 && (c.die p).job != qJob r)).length
  let bits := c.dieBits mine
  let c := mine.foldl (fun (c : Crown) p => (c.setJob p 0 false).dueMargins p) c
  (c, c.response r 0 mine.length false c.node bits)

/-- A tray crown's answer to a request in its tray that R358 does not refuse. -/
def Crown.answerHere (c : Crown) (r : List Byte) : Crown × List Byte :=
  if qOp r = 2 then c.releaseHere r
  else if c.basic then c.placeStatic r
  else c.placeHere r

/-- A REQ or RESP record (Table 14.2). -/
def Crown.reqRec (c : Crown) (typ : Nat) (body : List Byte) (f : InFlight) : Rec := c.groveRec typ c.node (body ++ le 4 f.origin ++ le 4 f.ringWord)

/-- A Grove record down to a child. -/
def Crown.groveDown (c : Crown) (k : Nat) (r : Rec) : Crown := c.on (·.post k r)

/-- The response into the ring of entry (R357), with the acceptance-to-response time; what the time of an answer given at once is, the
spec bounds only (R362): a free value below 2,000 ns (log entry 52). -/
def Crown.putResponse (c : Crown) (ring at_ : Nat) (resp : List Byte) : Crown :=
  let (f, c) := c.draw 11
  let t := if c.ns > at_ then c.ns - at_ else f % 2000
  let c := c.writeCpl (groveRing ring) resp
  c.s BZ_GRV_LATMAX_NS (max (c.g BZ_GRV_LATMAX_NS) (min t 0xFFFFFFFF))

/-- Where an answer goes: the ring of entry here, or back toward ORIGIN (R363). -/
def Crown.returnResp (c : Crown) (f : InFlight) (resp : List Byte) : Crown :=
  if sameNode f.origin c.node then c.putResponse (f.ringWord % 4) f.at_ resp
  else
    let r := c.reqRec 0x66 resp f
    match c.portToward f.origin with
    | some k => c.groveDown k r
    | none => c.on (·.post c.upLane r)

/-- Free eligible dies of a class in a child's SUMMARY, when the child may be chosen (R363). -/
def Crown.offered (c : Crown) (p : Nat) (radio : Bool) : Option Nat :=
  match c.grove.summaries.get (fun _ => none) p with
  | none => none
  | some s =>
    if (c.die p).grade < 2 ∨ c.ns > s.at_ + 10000000 then none
    else some (field s.body (if radio then 32 else 34) 2)

/-- The children a request may be sent to, in order: AFFINITY when it has enough, then the most free dies, the lower number first. -/
def Crown.childOrder (c : Crown) (r : List Byte) : List Nat :=
  let s := qScope r
  let inside := fun p => inSubtree s (c.portWord p) || inSubtree (c.portWord p) s
  let l := (c.logical.filter inside).filterMap (fun p => (c.offered p (qRadio r)).map (fun n => (p, n)))
  let sorted := sortBy (fun (a b : Nat × Nat) => decide (a.2 > b.2) || (a.2 == b.2 && decide ((c.port a.1).num ≤ (c.port b.1).num))) l
  let fav := l.filter (fun x => inSubtree (c.portWord x.1) (qAffinity r) && qAffinity r != nodeNone && x.2 ≥ qCount r)
  (fav ++ sorted).map (·.1) |>.eraseDups

/-- A request at a pod crown or root: sent down to the next child in order, or answered with the last response (R363). A RELEASE goes to
the tray it names. -/
def Crown.sendDown (c : Crown) (f : InFlight) (last : List Byte) : Crown :=
  let order := if qOp f.req = 2 then (c.portToward (qScope f.req)).toList
    else c.childOrder f.req
  let most := if c.role = 3 then 1 else 4
  match (order.filter (fun p => !f.tried.contains p)).head? with
  | some p =>
    if f.tried.length ≥ most then c.returnResp f last
    else
      let f := { f with tried := f.tried ++ [p] }
      (c.onGrove (fun g => { g with flights := g.flights ++ [f] })).groveDown p (c.reqRec 0x65 f.req f)
  | none => (if f.tried.isEmpty then c.noteAnswer (field last 0 1) else c).returnResp f last

/-- A request that has reached this crown: answered here, sent down, or passed up (R360, R363); `down`: from the parent, for this subtree.
A BADREQ, and a NONE with no child to choose, names no dies: its TRAY is a free value (log entry 53). A malformed SCOPE is counted and answered
BADREQ (R18, R358); a malformed AFFINITY, which R358 does not list, is discarded under R18 (log entry 96). -/
def Crown.handleReq (c : Crown) (f : InFlight) (down : Bool) : Crown :=
  let s := qScope f.req
  let c := if nodeMalformed s then c.count BZ_NODE_BAD_COUNT else c
  if !nodesGood [] [qAffinity f.req] then c.count BZ_NODE_BAD_COUNT else
  let (t, c) := c.draw 32
  let none_ := c.response f.req 2 0 false t 0
  if badRequest f.req then c.returnResp f (c.response f.req 3 0 false t 0)
  else if inSubtree c.node s || nodeLevel s == 3 && c.top then
    if c.isTray then
      (let (c, resp) := c.answerHere f.req
       c.returnResp f resp)
    else c.sendDown f none_
  else if c.isTray && down && inSubtree s c.node then
    (let (c, resp) := c.answerHere f.req
     c.returnResp f resp)
  else if down && inSubtree s c.node then c.sendDown f none_
  else if c.top then (c.noteAnswer 2).returnResp f none_
  else
    let c := if sameNode f.origin c.node then c.onGrove (fun g => { g with flights := g.flights ++ [f] }) else c
    c.on (·.post c.upLane (c.reqRec 0x65 f.req f))

/-- Requests of a ring still without a response. -/
def Crown.ringFlights (c : Crown) (ring : Nat) : Nat := (c.grove.flights.filter (fun f => sameNode f.origin c.node && f.ringWord % 4 == ring)).length

/-- Grove reads the next request of a ring (R357), when its OP is the one asked for. -/
def Crown.groveAccept (c : Crown) (ring : Nat) (release : Bool) : Crown :=
  let r := groveRing ring
  if !c.flag BZ_GRV_CTRL_EN || !c.flag r.en || c.ringHeld r = 0 || c.cplFree r ≤ c.ringFlights ring then c
  else
    let req := c.hbmBytes (c.slotAddr r 0) 32
    if (qOp req == 2) != release then c
    else
      let c := (c.advanceHead r 1).count BZ_GRV_REQS_COUNT
      c.handleReq ⟨req, c.node, ring, [], c.ns⟩ false

/-- A REQ record from a neighbour on a lane (R363): from the parent it is for this subtree. -/
def Crown.takeReq (c : Crown) (lane : Nat) (body : List Byte) : Crown :=
  let w := field body 60 4
  c.groveInput.handleReq ⟨slice body 24 32, field body 56 4, putBits w 7 2 (lane % 64), [], c.ns⟩ (decide (lane ≥ 64))

/-- RESP (R363): to the ring of entry, onward, or, NONE from a tray, the next tray. -/
def Crown.takeResp (c : Crown) (body : List Byte) : Crown :=
  let resp := slice body 24 32
  let origin := field body 56 4
  let ring := field body 60 4 % 4
  let c := c.groveInput
  match c.grove.flights.find? (fun f => sameNode f.origin origin && f.ringWord % 4 == ring && slice f.req 12 4 == slice resp 4 4 && slice f.req 8 4 == slice resp 8 4) with
  | none => c.returnResp ⟨[], origin, field body 60 4, [], c.ns⟩ resp
  | some f =>
    let c := c.onGrove (fun g => { g with flights := g.flights.erase f })
    if field resp 0 1 = 2 ∧ !f.tried.isEmpty then c.sendDown f resp else c.returnResp f resp

/-! ### Summaries, staleness (R356, R362) -/

/-- A child's SUMMARY. -/
def Crown.takeSummary (c : Crown) (p : Nat) (body : List Byte) : Crown :=
  c.groveInput.onGrove (fun g => { g with summaries := g.summaries.set (fun _ => none) p (some ⟨body, c.ns⟩) })

/-- GROVE_STALE (R362): no input for 10 ms. -/
def Crown.groveStale (c : Crown) : Crown := if c.stale then c.s BZ_GRV_STAT_STALE 1 else c

/-- A Grove record from below: for this Grove where it is a SUMMARY, REQ or RESP; the others are re-originated unchanged (R356). -/
def Crown.takeGrove (c : Crown) (lane : Nat) (body : List Byte) : Crown :=
  match field body 16 1 with
  | 0x64 => if lane < 64 then c.takeSummary lane body else c
  | 0x65 => c.takeReq lane body
  | 0x66 => c.takeResp body
  | _ => if lane < 64 then c.sendUp (plainRec 0x11 5 body) else c

/-! ### Stand-in (R371) -/

/-- The stand-in's plans begin: those of SCOPE pod `pod`, from the next window of their sources, in slots after its own. -/
def Crown.guestBegin (c : Crown) (pod : Nat) : Crown :=
  let word := 0x80000000 + pod * 4096
  let free := (List.range 256).filter (fun s => (c.plan s).isNone)
  let mine := (pieces 32 (c.sec 6)).filter (fun r => sameNode (field r 4 4) word)
  let c := (List.zip free mine).foldl (fun (c : Crown) e =>
    let p : PlanSlot := { raw := e.2, next := 0, mode := 0, preLog := 0, change := none, widx := 0, used := 0, cost := 0 }
    c.setPlan e.1 { p with next := p.windowFrom c.toNode.nowUs }) c
  (((c.s BZ_RED_PLANS_NPLAN c.planSlots.length).s BZ_GRV_GUEST_ACTIVE 1).s BZ_GRV_GUEST_POD pod).loadGuestWins (pieces 64 (c.sec 8))

/-- The stand-in's plans end. -/
def Crown.guestEnd (c : Crown) : Crown :=
  let mine := c.planSlots.filter (fun e => c.guestPlan e.2)
  let c := mine.foldl (fun (c : Crown) e =>
    ((c.onRed (fun r => { r with plans := r.plans.set (fun _ => none) e.1 none, opens := r.opens.filter (fun o => o.slot != e.1) })).s (BZ_PLANp_STAT_ACTIVE e.1) 0).s
      (BZ_PLANp_STAT_PLAN_ID e.1) 0) c
  let c := (c.winSlots.filter (fun e => e.2.guest)).foldl (fun (c : Crown) e => c.dropWin e.1) c
  ((c.onWin (fun w => { w with guestPages := 0 })).s BZ_RED_PLANS_NPLAN c.planSlots.length).s BZ_GRV_GUEST_ACTIVE 0

/-- STAND_IN (R371): the active root names pod crown p+1 as stand-in for pod p, or ends it. The crown named takes, or leaves, the pod;
pod crown p itself, on its return, resumes its histories with GAP_BEFORE. -/
def Crown.standIn (c : Crown) (pod : Nat) (on : Bool) : Crown :=
  let own := bitsOf c.node 17 12
  if c.role ≠ 2 then c
  else if on then (if own = pod ∨ c.flag BZ_GRV_GUEST_ACTIVE then c else c.guestBegin pod)
  else if own = pod then c.winSlots.foldl (fun (c : Crown) e => c.setWin e.1 { e.2 with gap := true }) c
  else if c.flag BZ_GRV_GUEST_ACTIVE ∧ c.g BZ_GRV_GUEST_POD = pod then c.guestEnd else c

/-! ### The self-description of DIE_SEL (Table 14.6) -/

/-- What BZ_GRV_DIE_STAT and BZ_GRV_DIE_JOB read for the selected port. -/
def Crown.dieView (c : Crown) : Crown :=
  let d := c.die (c.g BZ_GRV_DIE_SEL_PORT)
  let c := ((((c.s BZ_GRV_DIE_STAT_GRADE d.grade).s BZ_GRV_DIE_STAT_RADIO_OK (b2n d.radioOk)).s BZ_GRV_DIE_STAT_TIME_OK (b2n d.timeOk)).s
    BZ_GRV_DIE_STAT_PSTATE d.pstate).s BZ_GRV_DIE_STAT_HELD (b2n (d.job != 0))
  let c := (((c.s BZ_GRV_DIE_STAT_RADIO_JOB (b2n d.radioJob)).s BZ_GRV_DIE_STAT_HOLD (b2n d.held)).s BZ_GRV_DIE_STAT_LEAF d.num).s BZ_GRV_DIE_STAT_CAUSE d.cond
  c.s BZ_GRV_DIE_JOB_JOB d.job

end Sys2Proof.Machine
end

