-- ==== Sys2Proof/Machine/Ageing.lean ====
section
/-! DEFINITION. Margin re-planning at a crown (spec/04_sensors_guards_ageing.md R114 to R118). -/

namespace Sys2Proof.Machine

/-- A raised target on a die that carries radio work: Grove withdraws that work first (R117); the record's REASON has no code for it, a
free value (log entry 50). -/
def Crown.withdrawRadio (c : Crown) (p : Nat) : Crown :=
  if p < 64 ∧ c.carriesRadio p then
    (let (r, c) := c.draw 8
     c.withdraw p (c.die p).job true r)
  else c

/-- A domain's re-plan target set and sent. -/
def Crown.setTarget (c : Crown) (p dom t : Nat) : Crown :=
  let old := c.vfTarget p dom
  let c : Crown := { c with age := { c.age with target := c.age.target.set (fun _ => 0) (8 * p + dom) t } }
  let c := if c.vfTarget p dom > old then c.withdrawRadio p else c
  c.sendMargin p dom

/-- AGEING_POINT (R114 to R118): the unit on a port has reached `hours` of operating time. `doms` gives the V/f domain of each ageing
channel of the unit, and `cell` the physical array cell of this channel where the unit is the crown (log entry 55). A change of the domain's
steps has told its channels; the point's own channel is told of its retirement, a new baseline and a change of eligibility. In basic mode
the re-plan stops (Table 17.4). -/
def Crown.ageingPoint (c : Crown) (p ch hours cell : Nat) (doms : List (Nat × Nat)) : Crown :=
  let a := c.ageChan p ch
  let period := max 1 (c.g BZ_AGE_CTRL_PERIOD)
  if c.basic ∨ !c.flag BZ_AGE_CTRL_EN ∨ a.retired ∨ a.samples.isEmpty ∨ hours < a.hours + period then c
  else
    let c := doms.foldl (fun (c : Crown) x => c.setAge p x.1 { c.ageChan p x.1 with dom := x.2 % 8 }) c
    let a := c.ageChan p ch
    let dom := a.dom
    let m := median a.samples
    let rebased := a.base.isNone && decide (hours ≥ 2 * period)
    let c := if rebased then c.count BZ_AGE_REBASE_COUNT else c
    let a := { a with
      base := some (a.base.getD m), points := a.points ++ [(hours, m)], samples := [], hours := hours, cell := cell, rebased := a.rebased || rebased }
    let steps := c.steps p dom
    let a := c.ageFit p ch a
    let gone := decide (a.need > c.g BZ_AGE_RELIEF_MAX_STEPS)
    let c := c.setAge p ch { a with retired := gone }
    let c := if gone then c.count BZ_AGE_RETIRED_COUNT else c
    let live := (c.inService p).filter (fun x => x.2.dom == dom)
    let need := live.foldl (fun m x => max m x.2.need) 0
    let t := c.age.target.get (fun _ => 0) (8 * p + dom)
    let first := ((live.map (·.1)).foldl min 64)
    let floor := ((c.g BZ_AGE_GB_GB_MIN + c.g BZ_AGE_RELIEF_HYST : Nat) : Int) * 2 ^ 165
    let t' := if need > t then need
      else if need < t ∧ first = ch ∧ live.all (fun x => c.withSteps p x.1 x.2.sh ((t : Int) - 1) ≥ floor) then t - 1 else t
    let c := if t' = t then c else c.setTarget p dom t'
    let c :=
      if gone && decide (p ≥ 64) then
        (match c.cellUser (cell / 144) (cell % 144) with
          | some l => c.retire (cell / 144) l 0
          | none => c.setBad (cell / 144) (cell % 144))
      else c
    let c := if gone || (c.ageChan p ch).rebased || (c.steps p dom == steps && c.radioMargin p != c.radioOk p) then c.ageTell p ch else c
    if gone && decide (p < 64) then c.failPort p else c

end Sys2Proof.Machine
end

