-- ==== Sys2Proof/Machine/Judge.lean ====
section
/-! DEFINITION. How the audit service compares a tile's summary with its reference (spec/13_audit.md R330, R331, R345) and forms the escape
estimate (R342). -/

namespace Sys2Proof.Machine

/-! ### Binary64 rounded toward +∞, on magnitudes (R331) -/

/-- The magnitude of a code in units of 2^-1074; an infinity counts as 2^2200. -/
def fMag (a : Nat) : Nat :=
  match f64 a with
  | .fin _ v => v.natAbs
  | _ => 2 ^ 2200

/-- A code's signed value in units of 2^-1074. -/
def fInt (a : Nat) : Int :=
  match f64 a with
  | .fin _ v => v
  | _ => 2 ^ 2200

/-- A magnitude in units of 2^-u as binary64, rounded up. -/
def upOf (m u : Nat) : Nat := min fmtFp64.top (roundMag fmtFp64 (some true) m u).1

/-- Sum, product and quotient rounded up. -/
def fAddUp (a b : Nat) : Nat := upOf (fMag a + fMag b) 1074
def fMulUp (a b : Nat) : Nat := upOf (fMag a * fMag b) 2148
def fDivUp (a b : Nat) : Nat :=
  if fMag b = 0 then fmtFp64.top
  else
    let n := fMag a * 2 ^ 2300
    upOf (2 * (n / fMag b) + b2n (n % fMag b != 0)) 2301

/-- A sum of codes, in order. -/
def fSumUp (l : List Nat) : Nat := l.foldl fAddUp 0

/-! ### Bounds (R331) -/

/-- −log2 of the unit roundoff and of η (Table 13.6), by the format's code in OUT_FMT and ACC_FMT. -/
def roundoff (f : Nat) : Nat × Nat :=
  match f with
  | 0 => (24, 150)
  | 1 => (8, 134)
  | 2 => (11, 25)
  | 3 => (4, 10)
  | _ => (3, 17)

/-- The accumulation depth d. -/
def accDepth (d : List Byte) : Nat :=
  let k := dK d
  let o := dOrder d
  let base := match o % 4 with
    | 0 => k
    | 1 => if k ≤ 1 then 0 else (k - 1).log2 + 1
    | _ => 2 ^ bitsOf o 6 2 + ceilDiv k (2 ^ bitsOf o 6 2)
  base + b2n (dAccIn d)

/-- Where the operands stand in the stream (R325): A, A scales, B, B scales, C. -/
structure Places where
  a : Nat
  as : Nat
  b : Nat
  bs : Nat
  c : Nat
  deriving DecidableEq, Repr

/-- The operands' places in a stream that begins at an address. -/
def placesOf (d : List Byte) (at_ : Nat) : Places :=
  let sc := fun (n : Nat) => if inFmtMx (dAFmt d) then n * (dK d / 32) else 0
  let as := at_ + dM d * dARow d
  let b := as + sc (dM d)
  let bs := b + dN d * dBCol d
  ⟨at_, as, b, bs, bs + sc (dN d)⟩

/-- The magnitude of a scaled operand as binary64; what is not finite counts as 0, for no row or column with code 0 holds it. -/
def operandMag (c : Crown) (fmt row scale k : Nat) : Nat :=
  let code := elemCode (inBits fmt) (fun i => c.hbmByte (row + i)) k
  let e : Int := if inFmtMx fmt then ((c.hbmByte (scale + k / 32)).toNat : Int) - 127 else 0
  match decodeIn fmt code e with
  | .fin _ v => upOf v.natAbs 160
  | _ => 0

/-- What the bounds of a tile share: d × u ≥ 0.5, (1 + u_o) × γ, 2u_o, d × η_a + 2η_o, and MULT in sixteenths. -/
structure BoundTerms where
  wide : Bool
  lead : Nat
  uo2 : Nat
  eta : Nat
  mult : Nat
  deriving DecidableEq, Repr

/-- The shared terms. -/
def boundTerms (d : List Byte) (mult : Nat) : BoundTerms :=
  let (u, ea) := roundoff (dAccFmt d)
  let (uo, eo) := roundoff (dOutFmt d)
  let dep := fNat (accDepth d)
  let du := fMulUp dep (fPow u)
  let one := fNat 1
  let gamma := fDivUp du (upOf (fMag one - fMag du) 1074)
  ⟨decide (2 * fMag du ≥ fMag one), fMulUp (fAddUp one (fPow uo)) gamma, fMulUp (fNat 2) (fPow uo),
    fAddUp (fMulUp dep (fPow ea)) (fMulUp (fNat 2) (fPow eo)), max 16 mult⟩

/-- β of a row or column: its products' sum, the sum of |ref| along it, its length, and the two sums that are compared. -/
def BoundTerms.beta (t : BoundTerms) (prods refs len r ρ : Nat) : Nat :=
  fAddUp (fAddUp (fAddUp (fMulUp t.lead prods) (fMulUp t.uo2 refs)) (fMulUp (fNat len) t.eta)) (fMulUp (fPow 52) (fAddUp (fAbs r) (fAbs ρ)))

/-- Σ_k |a_mk| × Σ_n |b_kn| of each row, then Σ_k (Σ_m |a_mk|) × |b_kn| of each column. -/
def productSums (c : Crown) (d : List Byte) (at_ : Nat) : List Nat :=
  let pl := placesOf d at_
  let ks := List.range (dK d)
  let as := (List.range (dM d)).map (fun m => ks.map (operandMag c (dAFmt d) (pl.a + m * dARow d) (pl.as + m * (dK d / 32))))
  let bs := (List.range (dN d)).map (fun n => ks.map (operandMag c (dBFmt d) (pl.b + n * dBCol d) (pl.bs + n * (dK d / 32))))
  let cols := fun (l : List (List Nat)) => ks.map (fun k => fSumUp (l.map (fun r => r.getD k 0)))
  let dot := fun (x y : List Nat) => fSumUp (List.zipWith fMulUp x y)
  let sa := cols as
  let sb := cols bs
  as.map (fun r => dot r sb) ++ bs.map (fun r => dot sa r)

/-- Σ |ref| along each row, then along each column. -/
def refSums (d : List Byte) (rows : List (List Byte)) : List Nat :=
  let mag := fun m n => match outNum (dOutFmt d) (outCode d rows m n) with
    | .fin _ v => upOf v.natAbs 160
    | _ => 0
  (List.range (dM d)).map (fun m => fSumUp ((List.range (dN d)).map (mag m)))
    ++ (List.range (dN d)).map (fun n => fSumUp ((List.range (dM d)).map (fun m => mag m n)))

/-- MULT × β of each row, then of each column, in units of 2^-1078 (a sixteenth of 2^-1074). -/
def bounds (c : Crown) (d : List Byte) (at_ mult : Nat) (rows : List (List Byte)) (got ref : Summary) : List Nat :=
  let t := boundTerms d mult
  let ps := productSums c d at_
  let rs := refSums d rows
  (List.range (dM d + dN d)).map (fun i =>
    t.mult * fMag (t.beta (ps.getD i 0) (rs.getD i 0) (if i < dM d then dN d else dM d) (got.sums.getD i 0) (ref.sums.getD i 0)))

/-! ### The comparison (R330, R331) -/

/-- The outcome of a comparison: failing rows and columns, and ERR of a signature, which the spec gives no value for integers. -/
structure Judged where
  pass : Bool
  indet : Bool
  rows : List Nat
  cols : List Nat
  err : Option Nat
  deriving DecidableEq, Repr

/-- The ratio of an error to its bound, to nearest. -/
def errRatio (e b : Nat) : Nat := if b = 0 then (if e = 0 then 0 else fmtFp64.top) else toF64 (ratNum false (e * 16) b) 2301

/-- A summary against the reference rows of a sample whose stream begins at an address. -/
def judge (c : Crown) (d : List Byte) (at_ mult : Nat) (rows : List (List Byte)) (got : Summary) : Judged :=
  let ref := summaryOf d rows
  let m := dM d
  let n := dN d
  if !dClassB d then
    ⟨got == ref, false, numsWhere m (fun i => got.rowCrc.getD i 0 != ref.rowCrc.getD i 0), [], some 0⟩
  else
    let code := fun i => got.codes.getD i 0 == ref.codes.getD i 0
    if inFmtInt (dAFmt d) then
      let bad := fun i => !code i || got.sums.getD i 0 != ref.sums.getD i 0
      ⟨(numsWhere (m + n) bad).isEmpty, false, numsWhere m bad, numsWhere n (fun j => bad (m + j)), none⟩
    else
      let bs := bounds c d at_ mult rows got ref
      let e := fun i => (fInt (got.sums.getD i 0) - fInt (ref.sums.getD i 0)).natAbs
      let live := fun i => code i && ref.codes.getD i 0 == 0
      let bad := fun i => !code i || (live i && decide (e i * 16 > bs.getD i 0))
      let err := (numsWhere (m + n) live).foldl (fun x i => fMax x (errRatio (e i) (bs.getD i 0))) 0
      ⟨(numsWhere (m + n) bad).isEmpty, (boundTerms d mult).wide, numsWhere m bad, numsWhere n (fun j => bad (m + j)), some err⟩

/-- The summary of a sample marked for rehearsal, in place of the leaf's (R345): each sum rounded once to nearest; for integer tiles the
bound counts as 0 (log entry 61). -/
def rehearsedSummary (c : Crown) (d : List Byte) (at_ mult : Nat) (rows : List (List Byte)) (got : Summary) : Summary :=
  let flip := fun (x : Nat) => x ^^^ 1
  if !dClassB d then { got with dOut := flip got.dOut, rowCrc := got.rowCrc.modify 0 flip }
  else
    let ref := summaryOf d rows
    let bs := bounds c d at_ mult rows got ref
    let new := fun (i : Nat) =>
      if inFmtInt (dAFmt d) then (ref.sums.getD i 0 + 1) % 2 ^ 64
      else toF64 (let v : Int := 4 * fInt (ref.sums.getD i 0) + (bs.getD i 0 : Int) + 4 * 2 ^ 1074; Num.fin (decide (v < 0)) v) 1076
    { got with sums := (got.sums.set 0 (new 0)).set (dM d) (new (dM d)) }

/-! ### The escape estimate (R342) -/

/-- e^-x for x = p/q, rounded up to a multiple of 2^-160 (log entry 57): e^-(x/4096) by the series of its inverse, squared 12 times. -/
def expNegUp (p q : Nat) : Nat :=
  let w := 2 ^ 160
  let z := if q = 0 then 0 else p * w / q / 4096
  let s := (List.range 60).foldl (fun (a : Nat × Nat) i =>
    let t := a.2 * z / (w * (i + 1))
    (a.1 + t, t)) (w, w)
  (List.range 12).foldl (fun v _ => ceilDiv (v * v) w) (ceilDiv (w * w) s.1)

/-- E in 0.01 per 10^5 device-hours, rounded up and saturating at 32 bits; c = a/n. -/
def escapeOf (a n fit thresh bthresh boostLog : Nat) : Nat :=
  let w := 2 ^ 160
  let top := 2 ^ 32 - 1
  if fit = 0 then 0
  else if a = 0 ∨ thresh = 0 ∨ bthresh = 0 then top
  else
    let pn := a * thresh
    let qn := a * bthresh
    let den := n * 2 ^ 32
    -- (1 − p)/p + (1 − q)/q + exp(−f B q)/p, in units of 2^-160
    let t1 := ceilDiv (den * w) pn - w
    let t2 := ceilDiv (den * w) qn - w
    let t3 := ceilDiv (expNegUp (2 ^ min 31 boostLog * qn) (1000000 * den) * den) pn
    min top (ceilDiv (fit * (t1 + t2 + t3)) (100 * w))

end Sys2Proof.Machine
end

