-- ==== Sys2Proof/Machine/Audit.lean ====
section
/-! DEFINITION. The audit service of a tray crown (spec/13_audit.md R328 to R347): assembly, recomputes, verdicts, classification, taint
notices, weight digests, the escape estimate and signatures. -/

namespace Sys2Proof.Machine

/-- A change to the audit service. -/
def Crown.onAud (c : Crown) (f : AuditService → AuditService) : Crown := { c with aud := f c.aud }

/-- An engine of the die on a port. -/
def Crown.audEng (c : Crown) (p e : Nat) : AuditEngine := c.aud.engines.get (fun _ => AuditEngine.idle) (256 * p + e % 256)

/-- An engine replaced. -/
def Crown.setEng (c : Crown) (p e : Nat) (v : AuditEngine) : Crown :=
  c.onAud (fun a => { a with engines := a.engines.set (fun _ => AuditEngine.idle) (256 * p + e % 256) v })

/-- The engines of a port that are not in IDLE with nothing held. -/
def Crown.portEngines (c : Crown) (p : Nat) : List (Nat × AuditEngine) :=
  (c.aud.engines.filter (fun e => e.1 / 256 == p)).map (fun e => (e.1 % 256, e.2))

/-- A sample replaced, by port and SAMPLE_SEQ. -/
def Crown.setSample (c : Crown) (s : CrownSample) : Crown :=
  c.onAud (fun a => { a with samples := a.samples.map (fun x => if x.port = s.port ∧ x.seq = s.seq then s else x) })

/-- A sample's judgment is over. -/
def Crown.dropSample (c : Crown) (s : CrownSample) : Crown :=
  c.onAud (fun a => { a with samples := a.samples.filter (fun x => !(x.port == s.port && x.seq == s.seq)) })

/-- The sample of a port with a SAMPLE_SEQ. -/
def Crown.sample (c : Crown) (p seq : Nat) : Option CrownSample := c.aud.samples.find? (fun s => s.port == p && s.seq == seq)

/-- Bytes that nothing gives: a field that a record's rule leaves without a value (log entry 3). -/
def Crown.freeBytes (c : Crown) (n : Nat) : List Byte × Crown := let (v, c) := c.draw (8 * n); (le n v, c)

/-! ### The audit region (R328) -/

/-- The bytes a sample takes: its stream and its recompute's output. -/
def CrownSample.span (s : CrownSample) : Nat := s.dbytes + 4 * dM s.desc * dN s.desc

/-- The lowest place in the audit region where a sample fits (log entry 56). -/
def Crown.audPlace (c : Crown) (size : Nat) : Option Nat :=
  let lo := pageAddr (c.g BZ_AUD_HBM_BASE_PAGE)
  let hi := lo + pageAddr (c.g BZ_AUD_HBM_PAGES_COUNT)
  let l := sortBy (fun (a b : CrownSample) => decide (a.addr ≤ b.addr)) c.aud.samples
  let free := fun a => decide (a + size ≤ hi) && l.all (fun s => decide (a + size ≤ s.addr) || decide (s.addr + s.span ≤ a))
  (lo :: l.map (fun s => s.addr + s.span)).find? free

/-! ### The escape estimate (R342) -/

/-- E of a die from its selections, and the ESCAPE record where it crosses TARGET. Without a selection c has no value and the register
stays. -/
def Crown.escape (c : Crown) (p : Nat) : Crown :=
  let l := c.aud.picks.get (fun _ => []) p
  let n := l.length
  if n = 0 then c
  else
    let a := (l.filter id).length
    let e := escapeOf a n (c.g BZ_AUD_ESC_FIT) (c.g BZ_AUD_THRESH_THRESH) (c.g BZ_AUD_BTHRESH_THRESH) (c.g BZ_AUD_CTRL_BOOST_LOG)
    let c := c.s (BZ_AUDPp_ESC_E p) e
    let up := decide (e > c.g BZ_AUD_ESC_TARGET)
    if c.aud.above.get (fun _ => false) p = up then c
    else
      let c := c.onAud (fun x => { x with above := x.above.set (fun _ => false) p up })
      let c := c.sendUp (auditRec c.toNode.stamp 0x5B false 0xFF (c.dieWord p) (le 4 e ++ le 4 (ratFp32 false a n 0) ++ byte (b2n up)))
      c.setCond p 10 up

/-- Selections of a die end: each in a verdict that counts, or not. -/
def Crown.pick (c : Crown) (p : Nat) (good : Bool) (n : Nat) : Crown :=
  (c.onAud (fun x => { x with picks := x.picks.set (fun _ => []) p ((List.replicate (min n 65536) good ++ x.picks.get (fun _ => []) p).take 65536) })).escape p

/-! ### Records (R336, R339, R343) -/

/-- A VERDICT (Table 13.9). Fields that a verdict without a sample has no value for are free (log entry 58). -/
def Crown.verdict (c : Crown) (node engine : Nat) (s : Option CrownSample) (radio : Bool) (result flags : Nat) (replayed rehearsal : Bool) : Crown :=
  let n := (c.aud.vseq + 1) % 2 ^ 32
  let c := c.onAud (fun a => { a with vseq := n })
  let (body, c) := match s with
    | some s => (le 4 s.seq ++ byte result ++ byte (b2n (dClassB s.desc) + 2 * b2n radio + 4 * b2n replayed) ++ byte flags ++ zeros 1
        ++ twBytes s.tdesc ++ le 4 (dTileSeq s.desc) ++ le 4 (dTag s.desc) ++ slice s.ctx 0 2 ++ zeros 2 ++ slice s.ctx 8 8, c)
    | none =>
      let (a, c) := c.freeBytes 4
      let (f, c) := c.freeBytes 1
      let (t, c) := c.freeBytes 24
      let (r, c) := c.freeBytes 10
      (a ++ byte result ++ byte (2 * b2n radio) ++ f ++ zeros 1 ++ t ++ r.take 2 ++ zeros 2 ++ r.drop 2, c)
  c.sendUp (auditRec c.toNode.stamp 0x5C rehearsal engine node (body ++ le 4 c.node ++ le 4 n))

/-- The ENGINE declaration of an engine of the die on a port (Table 16.4). -/
def Crown.engineDecl (c : Crown) (p e : Nat) : Option (List Byte) :=
  (decls c.image 2).find? (fun d => field d 0 1 == (c.port p).list && field d 1 1 == e)

/-- The V/f domain of an engine in the seed's engine map; 0 where the seed declares none. -/
def Crown.engineDom (c : Crown) (p e : Nat) : Nat := ((c.engineDecl p e).map (fun d => field d 3 1 % 8)).getD 0

/-- A SENSOR record of a die: the value of its lowest channel of kind 0 (Table 13.11). -/
def Crown.audTemp (c : Crown) (p : Nat) (body : List Byte) : Crown :=
  let chs := ((c.channels p).filter (fun d => field d 2 1 == 0)).map (fun d => field d 1 1)
  match chs with
  | [] => c
  | x :: r => let ch := r.foldl min x; c.onAud (fun a => { a with temps := a.temps.set (fun _ => none) p (some (field body (28 + 2 * ch) 2)) })

/-- Which disagreement a signature describes. -/
structure SigOf where
  cls : Nat
  kind : Nat
  radio : Bool
  rehearsal : Bool
  relief : Bool
  pruned : Bool
  qual : Nat
  t : Nat
  engine : Nat
  /-- Bytes 49 to 79: formats, M, N, K, TILE_SEQ, TAG, TENANT, reserved, REQ_ID. -/
  work : List Byte
  judged : Judged
  dDie : Nat
  dRef : Nat
  steps : Nat
  deriving DecidableEq, Repr

/-- SIGNATURE (Table 13.11); answers its SIG_SEQ. -/
def Crown.signature (c : Crown) (p : Nat) (x : SigOf) : Nat × Crown :=
  let n := (c.aud.sigSeq + 1) % 2 ^ 32
  let c := c.onAud (fun a => { a with sigSeq := n })
  let (e, c) := match x.judged.err with
    | some e => (e, c)
    | none => c.draw 64
  let (t, c) := match c.aud.temps.get (fun _ => none) p with
    | some t => (t, c)
    | none => c.draw 16
  let j := x.judged
  let st := c.toNode.stamp
  let body := byte 1 ++ byte x.cls ++ byte x.kind
    ++ byte (b2n x.radio + 2 * b2n x.rehearsal + 4 * b2n x.relief + 8 * b2n x.pruned + 16 * x.qual)
    ++ le 4 (c.dieWord p) ++ le 4 c.node ++ le 4 n ++ twBytes x.t ++ twBytes st.t ++ byte x.engine ++ x.work
    ++ le 2 (j.rows.head?.getD 0xFFFF) ++ le 2 (j.cols.head?.getD 0xFFFF) ++ le 2 j.rows.length ++ le 2 j.cols.length ++ le 8 e
    ++ le 8 x.dDie ++ le 8 x.dRef ++ le 2 x.steps ++ le 2 t ++ zeros 12
  (n, c.sendUp (auditRec st 0x5E x.rehearsal x.engine (c.dieWord p) body))

/-- The open notice of an engine; that of a rehearsal is one apart. -/
def Crown.noticeOf (c : Crown) (p e : Nat) (reh : Bool) : Option Notice :=
  c.aud.notices.find? (fun n => n.port == p && n.engine == e && n.rehearsal == reh)

/-- TAINTS follows the notices. -/
def Crown.setNotices (c : Crown) (l : List Notice) : Crown := (c.onAud (fun a => { a with notices := l })).s BZ_AUD_TAINTS_COUNT l.length

/-- A TAINT record. -/
def Crown.taintRec (c : Crown) (n : Notice) (body : List Byte) : Crown :=
  c.sendUp (auditRec c.toNode.stamp 0x5D n.rehearsal n.engine (c.dieWord n.port) body)

/-- A notice opens (R337, R339). `flags`: NO_LKG, RADIO, ALL_ENGINES; `work`: bytes 64 to 91. -/
def Crown.openNotice (c : Crown) (p e cause flags tfrom : Nat) (work : List Byte) (sig : Nat) (rehearsal : Bool) : Crown :=
  let q := (c.aud.taintSeq + 1) % 2 ^ 32
  let c := c.onAud (fun a => { a with taintSeq := q })
  let body := le 4 q ++ byte 0 ++ byte cause ++ byte flags ++ zeros 1 ++ twBytes tfrom ++ List.replicate 16 0xFF ++ work ++ le 4 sig ++ le 4 c.node
  let n : Notice := ⟨q, p, e, cause, bitOf flags 1, body, rehearsal, none⟩
  (c.setNotices (c.aud.notices ++ [n])).taintRec n body

/-- A notice's classification and signature (R338). -/
def Crown.noteCause (c : Crown) (p e : Nat) (reh : Bool) (cause sig : Nat) : Crown :=
  c.setNotices (c.aud.notices.map (fun n =>
    if n.port = p ∧ n.engine = e ∧ n.rehearsal = reh then { n with cause := cause, body := overwrite (overwrite n.body 5 (byte cause)) 68 (le 4 sig) } else n))

/-- A notice closes with T_TO (R338). -/
def Crown.closeNotice (c : Crown) (p e : Nat) (reh : Bool) (tto : List Byte) : Crown :=
  match c.noticeOf p e reh with
  | none => c
  | some n => (c.setNotices (c.aud.notices.filter (· != n))).taintRec n (overwrite (overwrite n.body 4 (byte 1)) 24 tto)

/-! ### Engines, holds and boosts (R335) -/

/-- Conditions 1 to 4 of a die follow its engines (Table 14.1). -/
def Crown.audConds (c : Crown) (p : Nat) : Crown :=
  let es := c.portEngines p
  let any := fun (f : AuditEngine → Bool) => b2n (es.any (fun e => f e.2))
  c.condition p (fun d =>
    let a := putBits d.cond 1 1 (any (fun e => e.state == 3))
    let a := putBits a 2 2 (any (fun e => e.state == 1 && e.radio))
    let a := putBits a 3 3 (any (fun e => e.state == 1 && !e.radio))
    { d with cond := putBits a 4 4 (any (fun e => e.state == 2)) })

/-- A relief hold of a domain set, and the target sent (R110, R117, R335). -/
def Crown.setHold (c : Crown) (p dom t : Nat) : Crown :=
  let old := c.vfTarget p dom
  let c : Crown := { c with age := { c.age with hold := c.age.hold.set (fun _ => 0) (8 * p + dom) t } }
  let c := if c.vfTarget p dom > old then c.withdrawRadio p else c
  c.sendMargin p dom

/-- An engine's hold is cleared: its domain's hold ends unless another engine of the die holds it. -/
def Crown.clearHold (c : Crown) (p e : Nat) : Crown :=
  let x := c.audEng p e
  match x.dom with
  | none => c
  | some d =>
    let c := c.setEng p e { x with dom := none, grantedAt := none }
    if (c.portEngines p).any (fun y => y.2.dom == some d) then c else c.setHold p d 0

/-- BOOST to the leaf, and the crown's mirror of its count (R335; log entry 60). -/
def Crown.sendBoost (c : Crown) (p e : Nat) : Crown :=
  let tiles := 2 ^ min 31 (c.g BZ_AUD_CTRL_BOOST_LOG)
  let c := c.setEng p e { c.audEng p e with boost := tiles }
  c.on (·.post p (auditRec c.toNode.stamp 0x59 false e (c.dieWord p) (le 4 (c.g BZ_AUD_BTHRESH_THRESH) ++ le 4 tiles)))

/-- REPLAY to the leaf. -/
def Crown.sendReplay (c : Crown) (s : CrownSample) : Crown :=
  c.on (·.post s.port (auditRec c.toNode.stamp 0x5A s.rehearsal (dEngine s.desc) (c.dieWord s.port) (le 4 s.seq)))

/-- An engine in WATCH whose mirrored boost count is 0 returns to IDLE, and its hold ends (R335). -/
def Crown.watchEnd (c : Crown) (p e : Nat) : Crown :=
  let x := c.audEng p e
  if x.state = 2 ∧ x.boost = 0 then ((c.setEng p e { x with state := 0, radio := false, prunedAt := none }).clearHold p e).audConds p else c

/-- The leaf's tile count of an engine is known up to `tile`: the mirror follows (log entry 60). -/
def Crown.tilesTo (c : Crown) (p e tile : Nat) : Crown :=
  let x := c.audEng p e
  let d := match x.lastTile with
    | none => (0 : Int)
    | some t => seqDiff tile t
  if x.lastTile.isSome ∧ d ≤ 0 then c
  else (c.setEng p e { x with lastTile := some tile, boost := x.boost - d.toNat }).watchEnd p e

/-- A VF_RESULT record of a die (Table 4.7): a hold on its domain that it grants (R338). -/
def Crown.audGrant (c : Crown) (p : Nat) (body : List Byte) : Crown :=
  let dom := field body 18 1
  let w := field body 20 2
  let t := twOf (body.take 16)
  if field body 16 1 ≠ 0x12 ∨ bitsOf w 9 8 ≠ 0 ∨ w % 256 < c.age.hold.get (fun _ => 0) (8 * p + dom) then c
  else (c.portEngines p).foldl (fun (c : Crown) x =>
    if x.2.dom == some dom && x.2.grantedAt.isNone then c.setEng p x.1 { x.2 with grantedAt := some t } else c) c

/-! ### Classification (R334, R335) -/

/-- MULT's register value. -/
def Crown.audMult (c : Crown) : Nat := c.g BZ_AUD_CTRL_BND_MULT

/-- What the leaf reported of a sample. -/
def CrownSample.summary (s : CrownSample) : Summary := Summary.parse s.desc (s.result.getD [])

/-- The bytes of a TAINT from 64 to 91 for a sample, with the LKG's restart point. -/
def taintWork (s : CrownSample) (lkg : Option (Nat × Nat × Nat)) : List Byte :=
  le 4 (dTileSeq s.desc) ++ le 4 (dTag s.desc) ++ slice s.ctx 0 2 ++ zeros 2 ++ slice s.ctx 8 8
    ++ le 4 ((lkg.map (fun l => (l.2.1 + 1) % 2 ^ 32)).getD 0) ++ le 4 ((lkg.map (·.2.2)).getD 0)

/-- The notice of a confirmed mismatch: opened unless one is OPEN (R337, R338). -/
def Crown.mismatchNotice (c : Crown) (s : CrownSample) : Crown :=
  let e := dEngine s.desc
  if (c.noticeOf s.port e s.rehearsal).isSome then c
  else
    let lkg := (c.audEng s.port e).passes.find? (fun x => x.1 < s.tdesc)
    let radio := dRadio s.desc
    c.openNotice s.port e 0 (b2n lkg.isNone + 2 * b2n radio) ((lkg.map (·.1)).getD 0) (taintWork s lkg) 0xFFFFFFFF s.rehearsal

/-- t_job of a sample's recompute on range 0 at the service's share, in whole ns, rounded up (R271, R332). -/
def Crown.recomputeNs (c : Crown) (s : CrownSample) : Nat :=
  let d := s.desc
  let g : Gemm := ⟨dM d, dN d, dK d, dAFmt d, dBFmt d, outBytes (dOutFmt d), dAccIn d, 96, max 1 (c.g (BZ_AUD_RANGEi_CN 0)), false, true⟩
  ceilDiv (g.time (c.hz (5 + c.g (BZ_AUD_RANGEi_CB 0) / 128) * 360360 / 100000000) (c.g BZ_AUD_CTRL_SHARE)) 1000000000

/-- A classification: 4 TRANSIENT, 5 PERMANENT, 6 UNKNOWN. Verdict, action of Table 13.8, signature, and what it does to the notice.
A rehearsal acts on nothing; its notice closes here, at a T_TO that the spec does not give (log entry 62). -/
def Crown.classify (c : Crown) (s : CrownSample) (result flags : Nat) (replayed : Bool) (j : Judged) (dRef : Nat) : Crown :=
  let p := s.port
  let e := dEngine s.desc
  let radio := dRadio s.desc
  let x := c.audEng p e
  let acts := !s.rehearsal && (x.state == 1 || x.state == 2)
  let fence := result == 5 || (result == 6 && radio)
  let cause := result - 3
  let now := c.toNode.now
  let c := c.verdict (c.dieWord p) e (some s) radio result flags replayed s.rehearsal
  let x := if acts && fence then { x with prunedAt := some (x.prunedAt.getD now) } else x
  let c := if acts then c.setEng p e x else c
  let (sig, c) := c.signature p
    { cls := b2n (dClassB s.desc), kind := cause, radio := radio, rehearsal := s.rehearsal, relief := x.dom.isSome
      pruned := x.prunedAt.isSome, qual := s.qual, t := s.tdesc, engine := e
      work := slice s.desc 2 3 ++ slice s.desc 16 8 ++ slice s.desc 8 8 ++ slice s.ctx 0 2 ++ zeros 2 ++ slice s.ctx 8 8
      judged := j, dDie := s.summary.dOut, dRef := dRef, steps := c.steps p (c.engineDom p e) }
  let c := c.noteCause p e s.rehearsal cause sig
  if s.rehearsal then
    let (t, c) := c.freeBytes 16
    let c := c.closeNotice p e true t
    let ok := result == 4 && decide (c.ns ≤ s.replayAt + 2 * c.recomputeNs s + 50000)
    let c := (c.onAud (fun a => { a with rehearsed := some ok })).s BZ_AUD_REHEARSE_PEND 0
    if ok then c else c.s BZ_AUD_REHEARSE_MISSED 1
  else if !acts then c
  else if fence then
    let c := c.closeNotice p e false (twBytes (x.prunedAt.getD now))
    ((c.setEng p e { c.audEng p e with state := 3 }).audConds p).failPort p
  else
    let c := if radio && result == 4 then c.closeNotice p e false (twBytes (x.prunedAt.getD now)) else c
    let c := match (c.noticeOf p e false).bind (·.cleared) with
      | some t => if radio then c else c.closeNotice p e false (twBytes t)
      | none => c
    let c := (c.setEng p e { c.audEng p e with state := 2, radio := false }).audConds p
    let c := if radio then (c.setEng p e { c.audEng p e with prunedAt := none }).sendBoost p e else c
    c.watchEnd p e

/-- A sample's judgment with its reference rows. -/
def Crown.judgeSample (c : Crown) (s : CrownSample) (rows : List (List Byte)) : Judged := judge c s.desc s.addr c.audMult rows s.summary

/-- A confirmed mismatch: verdict, notice, and the action that the engine's state and the tile's class call for (Table 13.8). -/
def Crown.mismatch (c : Crown) (s : CrownSample) (ref : List (List Byte) × Nat) (j : Judged) : Crown :=
  let p := s.port
  let e := dEngine s.desc
  let radio := dRadio s.desc
  let x := c.audEng p e
  let dRef := (summaryOf s.desc ref.1).dOut
  let c := ((c.count BZ_AUD_MISMATCH_COUNT).pick p true 1).verdict (c.dieWord p) e (some s) radio 1 ref.2 false s.rehearsal
  let wait := fun (c : Crown) => (c.setSample { s with phase := 3, outs := [ref] }).sendReplay s
  if s.rehearsal then wait (c.mismatchNotice s)
  else match x.state with
    | 0 =>
      let c := c.mismatchNotice s
      if radio then wait ((c.setEng p e { x with state := 1, radio := true, prunedAt := some c.toNode.now }).audConds p)
      else
        let dom := c.engineDom p e
        let t := c.steps p dom + 1
        if t > c.g BZ_AGE_RELIEF_MAX_STEPS then ((c.setEng p e { x with state := 1 }).dropSample s).classify s 5 ref.2 false j dRef
        else
          let c := c.setEng p e { x with state := 1, radio := false, dom := some dom, grantedAt := none }
          wait (((c.setHold p dom t).sendBoost p e).audConds p)
    | 2 => ((c.mismatchNotice s).dropSample s).classify s 5 ref.2 false j dRef
    | _ => c.dropSample s

/-! ### Verdicts of a sample (R329 to R331, R336 to R338) -/

/-- A marked rehearsal that ends without a replay result is MISSED. -/
def Crown.missRehearsal (c : Crown) (s : CrownSample) : Crown :=
  if !s.rehearsal then c
  else ((c.onAud (fun a => { a with rehearsed := some false })).s BZ_AUD_REHEARSE_PEND 0).s BZ_AUD_REHEARSE_MISSED 1

/-- INDETERMINATE: no class action follows. -/
def Crown.indeterminate (c : Crown) (s : CrownSample) (flags : Nat) : Crown :=
  let c := ((c.count BZ_AUD_INDET_COUNT).pick s.port false 1).verdict (c.dieWord s.port) (dEngine s.desc) (some s) (dRadio s.desc) 2 flags false s.rehearsal
  (c.dropSample s).missRehearsal s

/-- PASS: counted, and the engine's LKG; the first boosted tile accepted after the grant closes a tenant notice (R338). -/
def Crown.passSample (c : Crown) (s : CrownSample) : Crown :=
  let p := s.port
  let e := dEngine s.desc
  let x := c.audEng p e
  let l := sortBy (fun (a b : Nat × Nat × Nat) => decide (a.1 ≥ b.1)) ((s.tdesc, dTileSeq s.desc, dTag s.desc) :: x.passes)
  let c := (((c.count BZ_AUD_PASS_COUNT).pick p true 1).setEng p e { x with passes := l }).dropSample s
  let c := c.missRehearsal s
  match c.noticeOf p e false with
  | none => c
  | some n =>
    let after := match x.grantedAt with
      | none => false
      | some t => decide (t < s.tdesc)
    if n.radio || !s.boosted || !after || n.cleared.isSome then c
    else if n.cause = 0 then c.setNotices (c.aud.notices.map (fun x => if x = n then { x with cleared := some s.tdesc } else x))
    else if n.cause = 1 ∨ n.cause = 3 then c.closeNotice p e false (twBytes s.tdesc) else c

/-- CROWN_FAULT about this crown (R329): 0xF0 + range, or 0xFF. -/
def Crown.crownFault (c : Crown) (s : CrownSample) (engine flags : Nat) : Crown :=
  (c.count BZ_AUD_CRFLT_COUNT).verdict c.node engine (some s) (dRadio s.desc) 3 flags false s.rehearsal

/-- The recompute of a sample on its range is posted on queue 1 (R329); it waits while the ring is full. TAG, M_TILE, retries and CLEAR
are the service's own, free values (log entry 56). -/
def Crown.postRecompute (c : Crown) (s : CrownSample) : Crown :=
  let d := s.desc
  let pl := placesOf d s.addr
  let mx := inFmtMx (dAFmt d)
  let (mt, c) := c.draw 8
  let (retry, c) := c.draw 3
  let (clear, c) := c.draw 1
  let (tag, c) := c.draw 64
  let job := byte 1 ++ byte (1 + 2 * b2n (dAccIn d) + 8 * clear) ++ byte (dAFmt d) ++ byte (dBFmt d) ++ byte (dOutFmt d) ++ byte (1 + mt % 3)
    ++ byte retry ++ zeros 1 ++ le 4 (dM d) ++ le 4 (dN d) ++ le 4 (dK d) ++ le 2 (c.g (BZ_AUD_RANGEi_CB s.range)) ++ le 2 (c.g (BZ_AUD_RANGEi_CN s.range))
    ++ le 8 pl.a ++ le 8 pl.b ++ le 8 (if dAccIn d then pl.c else 0) ++ le 8 (s.addr + s.dbytes) ++ le 8 (if mx then pl.as else 0)
    ++ le 8 (if mx then pl.bs else 0) ++ le 4 (dARow d) ++ le 4 (dBCol d) ++ le 4 (4 * dN d) ++ zeros 4 ++ le 8 tag
  match c.postDesc (jobRing (eqBase 1)) job with
  | none => c.setSample { s with phase := 1 }
  | some c => ((c.setSample { s with phase := 2 }).onAud (fun a => { a with posted := a.posted ++ [(s.port, s.seq)] })).engRescan

/-- SAMPLE_COMPLETE (R328, R329, R347): a complete sample gets its first recompute, or a waiting one its next; in basic mode it is
discarded. -/
def Crown.sampleComplete (c : Crown) (p seq : Nat) : Crown :=
  match c.sample p seq with
  | none => c
  | some s =>
    if s.phase > 1 ∨ s.result.isNone ∨ s.got < s.dbytes then c
    else if c.basic then ((c.dropSample s).pick p false 1).missRehearsal s
    else if !c.flag BZ_AUD_CTRL_EN then c.setSample { s with phase := 1 }
    else c.postRecompute s

/-- The sample's comparison with rows that stand as its reference. -/
def Crown.decide_ (c : Crown) (s : CrownSample) (ref : List (List Byte) × Nat) : Crown :=
  let j := c.judgeSample s ref.1
  if j.indet then c.indeterminate s ref.2 else if j.pass then c.passSample s else c.mismatch s ref j

/-- A recompute's output as it stands in HBM. -/
def Crown.recomputed (c : Crown) (s : CrownSample) : List (List Byte) :=
  (List.range (dM s.desc)).map (fun m => c.hbmBytes (s.addr + s.dbytes + m * 4 * dN s.desc) (dOutRow s.desc))

/-- A recompute of a sample has ended with a status and flags (R329); two ranges that already disagree and a third without an output leave no two
that agree. -/
def Crown.recomputeDone (c : Crown) (s : CrownSample) (status flags : Nat) : Crown :=
  if status ≠ 0 ∨ bitOf flags 5 ∨ bitOf flags 6 then (if s.outs.length ≥ 2 then c.crownFault s 0xFF flags else c).indeterminate s flags
  else
    let out := (c.recomputed s, flags)
    match s.outs with
    | [] =>
      let s := if s.rehearsal then
          { s with result := some ((rehearsedSummary c s.desc s.addr c.audMult out.1 s.summary).bytes (dClassB s.desc)) } else s
      let j := c.judgeSample s out.1
      if j.indet then c.indeterminate s flags
      else if j.pass then c.passSample s
      else c.postRecompute { s with range := 1, outs := [out] }
    | [a] => if a.1 = out.1 then c.decide_ s a else c.postRecompute { s with range := 2, outs := [a, out] }
    | a :: b :: _ =>
      if a.1 = out.1 then (c.crownFault s 0xF1 a.2).decide_ s a
      else if b.1 = out.1 then (c.crownFault s 0xF0 b.2).decide_ s b
      else (c.crownFault s 0xFF flags).indeterminate s flags

/-- RECOMPUTE_COMPLETE (R330): the next completion record of queue 1. -/
def Crown.recomputeComplete (c : Crown) : Crown :=
  let r := jobRing (eqBase 1)
  match c.aud.posted with
  | [] => c
  | (p, seq) :: rest =>
    if cdiff (c.g r.cplTail) (c.g r.cplHead) = 0 then c
    else
      let a := pageAddr (c.g r.cplBase) + c.g r.cplHead % c.ringN r * r.cslot
      let rec_ := c.hbmBytes a 64
      let c := ((c.touch a 64).writeCplHead r (c.g r.cplHead + 1)).onAud (fun x => { x with posted := rest })
      match c.sample p seq with
      | none => c.engRescan
      | some s => if s.phase = 2 then (c.recomputeDone s (field rec_ 8 1) (field rec_ 11 1)).engRescan else c.engRescan

/-- REPLAY_RESULT (R334): the replay's result classifies the mismatch. -/
def Crown.replayResult (c : Crown) (p seq : Nat) : Crown :=
  match c.sample p seq with
  | none => c
  | some s =>
    match s.replay, s.outs with
    | some (st, bytes), ref :: _ =>
      if s.phase ≠ 3 then c
      else
        let j0 := c.judgeSample s ref.1
        let dRef := (summaryOf s.desc ref.1).dOut
        let c := c.dropSample s
        if st ≠ 0 then c.classify s 6 ref.2 false j0 dRef
        else
          let j := judge c s.desc s.addr c.audMult ref.1 (Summary.parse s.desc bytes)
          c.classify s (if j.pass then 4 else 5) ref.2 true j0 dRef
    | _, _ => c

/-! ### Records from the leaf (R327, R328) -/

/-- SAMPLE: a place in the audit region, or it is discarded and counts as abandoned. -/
def Crown.takeSample (c : Crown) (p : Nat) (body : List Byte) : Crown :=
  let d := slice body 28 64
  let e := dEngine d
  let boosted := decide ((c.audEng p e).boost > 0)
  let s0 : CrownSample :=
    { port := p, seq := field body 24 4, desc := d, ctx := slice body 92 16, tdesc := twOf (body.take 16), qual := field body 17 1 % 4, addr := 0
      dbytes := field body 108 4, got := 0, result := none, phase := 0, range := 0, outs := [], replay := none, replayAt := 0, boosted := boosted, rehearsal := false }
  let marked := c.aud.mark == some (p, e) && !dRadio d && (c.audEng p e).state == 0
  let c := match c.audPlace s0.span with
    | none => (c.count BZ_AUD_ABANDON_COUNT).pick p false 1
    | some a =>
      let c := if marked then c.onAud (fun x => { x with mark := none }) else c
      (c.dropSample s0).onAud (fun x => { x with samples := x.samples ++ [{ s0 with addr := a, rehearsal := marked }] })
  c.tilesTo p e (dTileSeq d)

/-- DATA: operand bytes into the sample's stream. -/
def Crown.takeData (c : Crown) (p : Nat) (body : List Byte) : Crown :=
  let off := field body 28 4
  let l := body.drop 32
  match c.sample p (field body 24 4) with
  | none => c
  | some s =>
    if off + l.length > s.dbytes then c
    else (c.hbmWrite (s.addr + off) l).setSample { s with got := s.got + l.length }

/-- RESULT: ORIGINAL or REPLAY. -/
def Crown.takeResult (c : Crown) (p : Nat) (body : List Byte) : Crown :=
  match c.sample p (field body 24 4) with
  | none => c
  | some s =>
    if field body 28 1 = 0 then c.setSample { s with result := some (body.drop 32) }
    else c.setSample { s with replay := some (field body 29 1, body.drop 32), replayAt := c.ns }

/-- ABANDON: COUNT selections ended without a verdict, and the DATA of one that had begun is discarded (R325). -/
def Crown.takeAbandon (c : Crown) (p : Nat) (body : List Byte) : Crown :=
  let seq := field body 24 4
  let c := match c.sample p seq with
    | none => c
    | some s => if seq = 0xFFFFFFFF then c else (c.dropSample s).missRehearsal s
  (c.pick p false (field body 34 2)).tilesTo p (field body 18 1) (field body 28 4)

/-- The length of a digest round in seconds. -/
def Crown.wround (c : Crown) : Nat := max 1 (c.g BZ_AUD_WROUND_S)

/-- WDIGEST: placed in the round of its STAMP (R341). -/
def Crown.takeDigest (c : Crown) (p : Nat) (body : List Byte) : Crown :=
  let d : Digest :=
    { port := p, region := field body 24 4, len := field body 32 8, digest := field body 40 8, epoch := field body 28 2
      start := twOf (slice body 48 16), qual := field body 17 1 % 4, round := twOf (body.take 16) / fracPerNs / nsPerSec / c.wround }
  c.onAud (fun a => { a with digests := a.digests ++ [d] })

/-- An audit record from below: a tray crown's service takes it; records of other crowns are re-originated unchanged (R336), and a WSUM of a
child is kept for its round (R341). -/
def Crown.takeAudit (c : Crown) (p : Nat) (body : List Byte) : Crown :=
  match field body 16 1 with
  | 0x50 => if c.isTray then c.takeSample p body else c
  | 0x51 => if c.isTray then c.takeData p body else c
  | 0x52 => if c.isTray then c.takeResult p body else c
  | 0x53 => if c.isTray then c.takeAbandon p body else c
  | 0x54 => if c.isTray then c.takeDigest p body else c
  | 0x5B => c.sendUp (plainRec 8 3 body)
  | 0x5C => c.sendUp (plainRec 8 3 body)
  | 0x5D => c.sendUp (plainRec 8 3 body)
  | 0x5E => c.sendUp (plainRec 8 3 body)
  | 0x5F =>
    let c := c.sendUp (plainRec 8 3 body)
    let s : ChildSum := ⟨field body 20 4, field body 24 4, field body 28 8, field body 36 8, field body 48 4⟩
    if sameNode s.node (c.portWord p) then c.onAud (fun a => { a with sums := a.sums ++ [s] }) else c
  | _ => c

/-- A POWER_UP of the leaf on a port: its tiles before it are no LKG, its boost counts are 0, and samples it had begun will not be
finished (R333, R337, R347). -/
def Crown.audPowerUp (c : Crown) (p : Nat) : Crown :=
  let (gone, kept) := c.aud.samples.partition (fun s => s.port == p && s.phase == 0)
  let c := (c.onAud (fun a => { a with samples := kept })).pick p false gone.length
  let c := gone.foldl Crown.missRehearsal c
  (c.portEngines p).foldl (fun (c : Crown) x =>
    (c.setEng p x.1 { c.audEng p x.1 with passes := [], boost := 0, lastTile := none }).watchEnd p x.1) c

/-! ### Weight digests (R341) -/

/-- How often each digest stands in a group, the most frequent first, of equal ones the lower. -/
def tally (l : List Nat) : List (Nat × Nat) :=
  let ds := sortBy (fun (a b : Nat) => decide (a ≤ b)) l.eraseDups
  sortBy (fun (a b : Nat × Nat) => decide (a.2 ≥ b.2)) (ds.map (fun d => (d, (l.filter (· == d)).length)))

/-- WSUM of a group; without a majority its DIGEST is the most frequent, of equal ones the lower (log entry 58). -/
def Crown.wsum (c : Crown) (region len sec : Nat) (l : List Nat) : Crown :=
  let (d, k) := (tally l).headD (0, 0)
  c.sendUp (auditRec c.toNode.stamp 0x5F false 0xFF c.node (le 4 region ++ le 8 len ++ le 8 d ++ le 2 l.length ++ le 2 k ++ le 4 sec))

/-- A WEIGHT verdict on a die: the action of a PERMANENT classification on every engine the seed declares or the service knows, a
signature and a notice, which ends with the Prune (R337, R338, R341, R343). -/
def Crown.weightDie (c : Crown) (d : Digest) (majority : Nat) : Crown :=
  let p := d.port
  let radio := c.carriesRadio p
  let now := c.toNode.now
  let c := (c.count BZ_AUD_WEIGHT_COUNT).verdict (c.dieWord p) 0xFF none radio 7 0 false false
  let (w, c) := c.freeBytes 31
  let (sig, c) := c.signature p
    { cls := 2, kind := 4, radio := radio, rehearsal := false, relief := false, pruned := true, qual := d.qual, t := d.start, engine := 0xFF
      work := w, judged := ⟨false, false, [], [], some 0⟩, dDie := d.digest, dRef := majority, steps := 0 }
  let tfrom := (c.aud.matched.find? (fun m => m.1 == p && m.2.1 == d.region && m.2.2.1 == d.len)).map (·.2.2.2)
  let (work, c) := c.freeBytes 28
  let c := c.openNotice p 0xFF 4 (b2n tfrom.isNone + 2 * b2n radio + 4) (tfrom.getD 0) work sig false
  let c := c.setCond p 5 true
  let decl := ((decls c.image 2).filter (fun x => field x 0 1 == (c.port p).list)).map (fun x => field x 1 1)
  let known := (c.portEngines p).map (·.1)
  let c := (decl ++ known).eraseDups.foldl (fun (c : Crown) e =>
    let c := (c.noteCause p e false 4 sig).closeNotice p e false (twBytes ((c.audEng p e).prunedAt.getD now))
    c.setEng p e { c.audEng p e with state := 3, prunedAt := some now }) c
  let c := (c.closeNotice p 0xFF false (twBytes now)).audConds p
  (c.setCond p 5 false).failPort p

/-- A group of a round at a tray crown: each member matches, differs, or is left without a verdict. -/
def Crown.weightGroup (c : Crown) (l : List Digest) : Crown :=
  match l with
  | [] => c
  | g :: _ =>
    let (d, k) := (tally (l.map (·.digest))).headD (0, 0)
    let c := c.wsum g.region g.len (g.round * c.wround % 2 ^ 32) (l.map (·.digest))
    l.foldl (fun (c : Crown) x =>
      let old := c.aud.previous.find? (fun y => y.port == x.port && y.region == x.region && y.len == x.len && y.epoch == x.epoch)
      let c := c.onAud (fun a => { a with previous := x :: a.previous.filter (fun y => !(y.port == x.port && y.region == x.region && y.len == x.len)) })
      let good := fun (c : Crown) => c.onAud (fun a => { a with
        matched := (x.port, x.region, x.len, x.start) :: a.matched.filter (fun m => !(m.1 == x.port && m.2.1 == x.region && m.2.2.1 == x.len)) })
      if l.length ≥ 3 then
        if 2 * k ≤ l.length then c else if x.digest = d then good c else c.weightDie x d
      else match old with
        | none => good c
        | some y => if y.digest = x.digest then good c else c.weightDie x y.digest) c

/-- A group of children's sums at a pod crown or root, under the same rule: the verdict names the child. -/
def Crown.sumGroup (c : Crown) (l : List ChildSum) : Crown :=
  match l with
  | [] => c
  | g :: _ =>
    let (d, k) := (tally (l.map (·.digest))).headD (0, 0)
    let c := c.wsum g.region g.len g.sec (l.map (·.digest))
    l.foldl (fun (c : Crown) x =>
      let old := c.aud.lastSums.find? (fun y => sameNode y.node x.node && y.region == x.region && y.len == x.len)
      let c := c.onAud (fun a => { a with lastSums := x :: a.lastSums.filter (fun y => !(sameNode y.node x.node && y.region == x.region && y.len == x.len)) })
      let bad := fun (c : Crown) => (c.count BZ_AUD_WEIGHT_COUNT).verdict x.node 0xFF none false 7 0 false false
      if l.length ≥ 3 then (if 2 * k > l.length ∧ x.digest ≠ d then bad c else c)
      else match old with
        | none => c
        | some y => if y.digest = x.digest then c else bad c) c

/-- WEIGHT_ROUND_END (R341): the rounds that have ended are compared, group by group; a child's sums a round later, when they have come. -/
def Crown.weightRoundEnd (c : Crown) : Crown :=
  if c.basic then c
  else
    let sec := c.toNode.now / fracPerNs / nsPerSec
    let done := c.aud.digests.filter (fun d => (d.round + 1) * c.wround ≤ sec)
    let ripe := c.aud.sums.filter (fun s => s.sec + 2 * c.wround ≤ sec)
    let c := c.onAud (fun a => { a with
      digests := a.digests.filter (fun d => !decide ((d.round + 1) * c.wround ≤ sec))
      sums := a.sums.filter (fun s => !decide (s.sec + 2 * c.wround ≤ sec)) })
    let keys := sortBy (fun (a b : Nat × Nat × Nat) => decide (a.1 ≤ b.1)) (done.map (fun d => (d.round, d.region, d.len))).eraseDups
    let c := keys.foldl (fun (c : Crown) q => c.weightGroup (done.filter (fun d => (d.round, d.region, d.len) == q))) c
    let keys := sortBy (fun (a b : Nat × Nat × Nat) => decide (a.1 ≤ b.1)) (ripe.map (fun s => (s.sec, s.region, s.len))).eraseDups
    keys.foldl (fun (c : Crown) q => c.sumGroup (ripe.filter (fun s => (s.sec, s.region, s.len) == q))) c

/-! ### Settings (R321, R335, R345, R347) -/

/-- CONFIG to the leaf on a port. -/
def Crown.sendConfig (c : Crown) (p thresh : Nat) : Crown :=
  c.on (·.post p (auditRec c.toNode.stamp 0x58 false 0xFF (c.dieWord p) (le 4 thresh ++ le 8 c.aud.seed ++ zeros 4)))

/-- Ports that hold a die. -/
def Crown.diePorts (c : Crown) : List Nat := numsWhere 64 (fun p => (c.die p).pstate != 3)

/-- A new SEED at random, in CONFIG to every leaf (R321). -/
def Crown.newSeed (c : Crown) : Crown :=
  let (s, c) := c.draw 64
  let c := c.onAud (fun a => { a with seed := s, seedAt := some c.ns })
  c.diePorts.foldl (fun (c : Crown) p => c.sendConfig p (c.g BZ_AUD_THRESH_THRESH)) c

/-- RESEED (R321): RESEED_H hours after the last; 0 never. -/
def Crown.reseed (c : Crown) : Crown :=
  let h := c.g BZ_AUD_CTRL_RESEED_H
  let due := match c.aud.seedAt with
    | none => true
    | some t => h != 0 && decide (c.ns ≥ t + h * 3600 * nsPerSec)
  if !c.isTray || c.basic || !due then c else c.newSeed

/-- Entry to basic mode: CONFIG with THRESH = 0 to every leaf (R347). -/
def Crown.audBasic (c : Crown) : Crown := if c.isTray then c.diePorts.foldl (fun (c : Crown) p => c.sendConfig p 0) c else c

/-- ENG_CLEAR (R335): a FENCED engine returns to IDLE; its CLEARED verdict (log entry 59). -/
def Crown.engClear (c : Crown) (p e : Nat) : Crown :=
  let x := c.audEng p e
  if x.state ≠ 3 then c
  else
    let c := (c.setEng p e { x with state := 0, radio := false, prunedAt := none }).clearHold p e
    (c.verdict (c.dieWord p) e none x.radio 8 0 false false).audConds p

/-- REHEARSE (R345): a write of GO marks the next tenant sample of PORT and ENGINE. -/
def Crown.rehearseGo (c : Crown) (p e : Nat) : Crown :=
  (c.onAud (fun a => { a with mark := some (p, e), rehearsed := none })).s BZ_AUD_REHEARSE_PEND 1

/-- What a CFG reset leaves of the service shows in its registers again: open notices, estimates and a rehearsal under way (R347). -/
def Crown.audRegs (c : Crown) : Crown :=
  let c := (c.setNotices c.aud.notices).s BZ_AUD_REHEARSE_PEND (b2n (c.aud.mark.isSome || c.aud.samples.any (·.rehearsal)))
  (List.range 64).foldl Crown.escape c

/-- A write of a register that the escape estimate is formed from (R342). -/
def Crown.estimateWrite (c : Crown) (off v : Nat) : Crown := (List.range 64).foldl Crown.escape (c.on (·.write off v))

/-- A write of BZ_AUD_REHEARSE. -/
def Crown.rehearseWrite (c : Crown) (v : Nat) : Crown :=
  let c := c.on (·.write BZ_AUD_REHEARSE (v % 2 ^ 31))
  if bitOf v 31 then c.rehearseGo (c.g BZ_AUD_REHEARSE_PORT) (c.g BZ_AUD_REHEARSE_ENGINE) else c

/-- What the registers of the selected engine read (Table 13.14). -/
def Crown.engineView (c : Crown) : Crown :=
  let p := c.g BZ_AUD_ENG_SEL_PORT
  let e := c.g BZ_AUD_ENG_SEL_ENGINE
  let x := c.audEng p e
  (((c.s BZ_AUD_ENG_STAT_STATE x.state).s BZ_AUD_ENG_STAT_OPEN (b2n (c.noticeOf p e false).isSome)).s BZ_AUD_ENG_LKG_TILE_SEQ
    ((x.passes.head?.map (·.2.1)).getD 0)).s BZ_AUD_ENG_BOOST_BOOST_LEFT x.boost

/-- A write of BZ_AUD_ENG_STAT: CLEAR acts on the selected engine. -/
def Crown.engStatWrite (c : Crown) (v : Nat) : Crown :=
  if bitOf v 27 then c.engClear (c.g BZ_AUD_ENG_SEL_PORT) (c.g BZ_AUD_ENG_SEL_ENGINE) else c

end Sys2Proof.Machine
end

