-- ==== Sys2Proof/Machine/Shift.lean ====
section
/-! DEFINITION. Load, depth shifting and flex circuits (spec/09_reduction_traffic.md R221, R223, R226 to R228). -/

namespace Sys2Proof.Machine

/-! ### Rates -/

/-- The Sap payload rate of a lane mode, in units of 10 Mb/s (Table 8.2). -/
def payRate (mode : Nat) : Nat := [0, 3007, 6006, 12010, 21020, 0, 0, 0].getD mode 0

/-- Bytes a lane in a mode carries in 1 ms. -/
def msBytes (mode : Nat) : Nat := payRate mode * 1250

/-- A part as a whole percentage, at most 100, rounded down (log entry 29). -/
def percent (a b : Nat) : Nat := if b = 0 then 0 else min 100 (a * 100 / b)

/-- The reduction datapath's slots in 1 ms of NOC time: 16 a cycle (R221). -/
def Crown.slotsPerMs (c : Crown) : Nat := 16 * c.hz 3 / 1000

/-- SAT_HI; values above 100 act as 100. -/
def Crown.satHi (c : Crown) : Nat := min 100 (c.g BZ_RED_CTRL_SAT_HI)

/-- DWELL_MS in ns; 0 acts as 1 ms. -/
def Crown.dwellNs (c : Crown) : Nat := max 1 (c.g BZ_RED_CTRL_DWELL_MS) * 1000000

/-- Slots per second a plan is predicted to cost a child, from its members, WIN_US and the sampling periods (R221). -/
def Crown.predict (c : Crown) (child : Nat) (p : PlanSlot) : Nat := planSlotRate c.image child p / 1000000

/-- Slots per second that merging one child's partials of a plan costs this crown. -/
def mergeRate (p : PlanSlot) : Nat := mergeSlots p.ops p.kTop * 1000000 / p.win

/-! ### Children -/

/-- A child's load. -/
def Crown.kid (c : Crown) (k : Nat) : ChildLoad := c.red.kids.get (fun _ => ChildLoad.none) k

/-- A child's load replaced, with its registers; a detoured child has none. -/
def Crown.setKid (c : Crown) (k : Nat) (d : ChildLoad) : Crown :=
  let c := c.onRed (fun r => { r with kids := r.kids.set (fun _ => ChildLoad.none) k d })
  if k ≥ 64 then c else
  let n := fun m => (d.orders.filter (fun e => e.2.any (fun o => o.mode == m))).length
  ((((c.s (BZ_REDCHc_LOAD_RL k) d.rl).s (BZ_REDCHc_LOAD_UL k) d.ul).s (BZ_REDCHc_LOAD_LEVEL k) d.level).s
    (BZ_REDCHc_MODE_RAWUP k) (n 1)).s (BZ_REDCHc_MODE_PRE k) (n 2)

/-- LOAD received over a lane (R223): of its child, or of a tray crown that detours over that child, kept beside it under 64 more (R229; log entry
88). A crown is idle from its fourth interval at or below IDLE_LO on. -/
def Crown.takeLoad (c : Crown) (lane : Nat) (body : List Byte) : Crown :=
  let k := if sameNode (field body 20 4) (c.portWord lane) then lane else 64 + lane
  let d := c.kid k
  let rl := field body 24 1
  let idle := rl ≤ c.g BZ_RED_CTRL_IDLE_LO
  c.setKid k { d with
    rl := rl, ul := field body 25 1, ing := field body 26 1, level := field body 27 1, rawRate := field body 28 4
    satRun := if rl ≥ c.satHi then d.satRun + 1 else 0
    idleRun := if idle then d.idleRun + 1 else 0
    idleSince := if idle ∧ d.idleRun ≥ 3 then some (d.idleSince.getD c.ns) else none }

/-- The order in force for a child's plan. -/
def Crown.orderOf (c : Crown) (k slot : Nat) : Option Order := (c.kid k).orders.get (fun _ => none) slot

/-- Whether DWELL_MS allows another order for a child's plan (R223). -/
def Crown.mayOrder (c : Crown) (k slot : Nat) : Bool :=
  match c.orderOf k slot with
  | none => true
  | some o => o.at_ + c.dwellNs ≤ c.ns

/-- Orders a mode for a child's plan: a SHIFT record with EFFECT 2 ms ahead (R224). -/
def Crown.order (c : Crown) (k slot mode pre : Nat) : Crown :=
  match c.plan slot with
  | none => c
  | some p =>
    let body := twBytes c.toNode.now ++ byte 0x33 ++ byte c.toNode.qual.code ++ le 2 p.id ++ le 4 c.node ++ byte mode ++ byte pre
      ++ zeros 2 ++ le 4 (c.portWord k) ++ twBytes (c.toNode.now + usTime 2000)
    let c := (c.on (·.post k (plainRec 0x0F 4 body))).count BZ_RED_SHIFTS_COUNT
    let d := c.kid k
    c.setKid k { d with orders := d.orders.set (fun _ => none) slot (some ⟨mode, pre, c.ns⟩) }

/-- The plans of a child in descending order of slot cost, the lower PLAN_ID first on equal cost (R223). -/
def Crown.byCost (c : Crown) (child : Nat) : List (Nat × PlanSlot) :=
  sortBy (fun (a b : Nat × PlanSlot) =>
    let x := c.predict child a.2
    let y := c.predict child b.2
    if x ≠ y then y < x else a.2.id ≤ b.2.id) c.planSlots

/-! ### The rules of R223 -/

/-- A load in percent as slots per second. -/
def Crown.plRate (c : Crown) (rl : Nat) : Nat := rl * c.slotsPerMs * 10

/-- The saturated child rule 1 chooses: the highest RL, then the lower logical number. -/
def Crown.chosen (c : Crown) : Option Nat :=
  (c.logical.filter (fun k => (c.kid k).satRun ≥ 4)).foldl (fun (a : Option Nat) k =>
    match a with
    | none => some k
    | some b =>
      if (c.kid k).rl > (c.kid b).rl ∨ ((c.kid k).rl = (c.kid b).rl ∧ (c.port k).num < (c.port b).num) then some k else some b) none

/-- Whether the chosen child's uplink takes its raw records: UL + RAW_RATE / capacity ≤ 0.80. -/
def Crown.rawFits (c : Crown) (k : Nat) : Bool :=
  let cap := msBytes (c.toNode.laneMode k)
  decide ((c.kid k).ul * cap + (c.kid k).rawRate * 100 ≤ 80 * cap) && cap != 0

/-- Rule 1, shift up. -/
def Crown.shiftUp (c : Crown) (k own : Nat) : Crown :=
  let child := c.portWord k
  let step := fun (a : Crown × Nat × Nat × Bool) (e : Nat × PlanSlot) =>
    let (c, kid, me, stop) := a
    let cost := c.predict child e.2
    if stop ∨ (c.orderOf k e.1).any (fun o => o.mode == 1) ∨ !c.mayOrder k e.1 then a
    else if kid ≤ c.plRate 75 ∨ me + cost > c.plRate 80 then (c, kid, me, true)
    else (c.order k e.1 1 0, kid - cost, me + cost, false)
  ((c.byCost child).foldl step (c, c.plRate (c.kid k).rl, c.plRate own, false)).1

/-- Rule 2, shift down: PRE 1 for idle children; one more PRE_LOG for each further 4 saturated intervals. -/
def Crown.shiftDown (c : Crown) (own : Nat) : Crown :=
  let idle := c.logical.filter (fun k => (c.kid k).idleRun ≥ 4)
  let raise := c.red.satRun > 4 && c.red.satRun % 4 = 0
  let step := fun (k : Nat) (a : Crown × Nat) (e : Nat × PlanSlot) =>
    let (c, me) := a
    if !c.mayOrder k e.1 then a
    else match c.orderOf k e.1 with
      | some o =>
        if o.mode = 2 then (if raise && o.preLog < 7 then (c.order k e.1 2 (o.preLog + 1), me - mergeRate e.2 / 2 ^ (o.preLog + 1)) else a)
        else if o.mode = 0 ∧ me > c.plRate 75 then (c.order k e.1 2 1, me - mergeRate e.2 / 2) else a
      | none => if me > c.plRate 75 then (c.order k e.1 2 1, me - mergeRate e.2 / 2) else a
  (idle.foldl (fun a k => (c.byCost (c.portWord k)).foldl (step k) a) (c, c.plRate own)).1

/-- Rule 3, revert. -/
def Crown.revert (c : Crown) : Crown :=
  let ms := c.g BZ_RED_TIMING_REVERT_MS * 1000000
  let long : Option Nat → Bool := fun s => match s with
    | none => false
    | some t => decide (t + ms ≤ c.ns)
  c.logical.foldl (fun (c : Crown) k =>
    c.planSlots.foldl (fun (c : Crown) e =>
      match c.orderOf k e.1 with
      | none => c
      | some o =>
        if !c.mayOrder k e.1 then c
        else if o.mode = 1 ∧ (long (c.kid k).idleSince ∨ c.red.satRun ≥ 4) then c.order k e.1 0 0
        else if o.mode = 2 ∧ long c.red.idleSince then (if o.preLog ≤ 1 then c.order k e.1 0 0 else c.order k e.1 2 (o.preLog - 1))
        else c) c) c

/-- The first rule of R223 that holds. -/
def Crown.shiftRules (c : Crown) (own : Nat) : Crown :=
  if !c.flag BZ_RED_CTRL_SHIFT_EN ∨ c.isTray then c
  else match c.chosen with
    | some k =>
      if c.red.idleRun ≥ 4 && c.rawFits k then c.shiftUp k own
      else if c.red.satRun ≥ 4 && c.logical.any (fun k => (c.kid k).idleRun ≥ 4) then c.shiftDown own
      else c.revert
    | none =>
      if c.red.satRun ≥ 4 && c.logical.any (fun k => (c.kid k).idleRun ≥ 4) then c.shiftDown own else c.revert

/-- The bytes that wait in the ingress buffer from a lane (R235). -/
def Crown.ingFill (c : Crown) (k : Nat) : Nat := (c.red.waiting.filter (fun r => r.lane == k)).foldl (fun a r => a + 4 + r.body.length) 0

/-- The LOAD record of the crown (Table 9.4). -/
def Crown.loadBody (c : Crown) (rl ul ing raw : Nat) : List Byte :=
  let n := fun m => (c.planSlots.filter (fun e => e.2.mode == m)).length
  twBytes c.toNode.now ++ byte 0x32 ++ byte c.toNode.qual.code ++ zeros 2 ++ le 4 c.node ++ byte rl ++ byte ul ++ byte ing
    ++ byte c.q4Level ++ le 4 raw ++ le 2 (n 1) ++ le 2 (n 2) ++ zeros 4

/-- LOAD_INTERVAL (R223, R226): RL, UL and ING of the interval, the LOAD record, the runs, the plans' costs and the shift rules.
`parentIdle` is what the parent's load showed in the interval. -/
def Crown.loadInterval (c : Crown) (parentIdle : Bool) : Crown :=
  let used := c.planSlots.foldl (fun a e => a + e.2.used) 0
  let rl := percent used c.slotsPerMs
  let ul := percent c.red.upBytes (msBytes (c.toNode.laneMode c.toNode.weightLane))
  let ing := percent (c.red.waiting.foldl (fun a r => a + 4 + r.body.length) 0) (52 * 1048576)
  let c := ((c.s BZ_RED_LOAD_RL rl).s BZ_RED_LOAD_UL ul).s BZ_RED_LOAD_ING ing
  let c := if c.top then c else c.redUp (c.loadBody rl ul ing (min c.red.rawBytes (2 ^ 32 - 1)))
  let c := c.planSlots.foldl (fun (c : Crown) e => c.setPlan e.1 { e.2 with cost := e.2.used / 1000, used := 0 }) c
  let sat := rl ≥ c.satHi
  let idle := rl ≤ c.g BZ_RED_CTRL_IDLE_LO
  let c := c.onRed (fun r => { r with
    satRun := if sat then r.satRun + 1 else 0
    idleRun := if idle then r.idleRun + 1 else 0
    idleSince := if idle ∧ r.idleRun ≥ 3 then some (r.idleSince.getD c.ns) else none
    upBytes := 0, rawBytes := 0
    flex := { r.flex with
      ulRun := if ul ≥ c.satHi ∧ !parentIdle then r.flex.ulRun + 1 else 0 } })
  c.shiftRules rl

/-! ### Flex circuits (R226 to R228) -/

/-- A change to the flex state. -/
def Crown.onFlex (c : Crown) (f : Flex → Flex) : Crown := c.onRed (fun r => { r with flex := f r.flex })

/-- The lowest flex lane in OFF (R226). -/
def Crown.freeFlex (c : Crown) : Option Nat := [70, 71].find? (fun k => c.toNode.laneState k == 0)

/-- A FLEX record of this crown as requester (Table 9.4). -/
def Crown.flexBody (c : Crown) (op reason lane lead far circuit seq : Nat) : List Byte :=
  twBytes c.toNode.now ++ byte 0x34 ++ byte c.toNode.qual.code ++ zeros 2 ++ le 4 c.node ++ byte op ++ byte reason ++ byte lane
    ++ byte lead ++ le 4 far ++ le 4 circuit ++ le 4 seq

/-- A FLEX record toward the root; the active root, and a host-mode crown, deliver it (R227). -/
def Crown.flexUp (c : Crown) (body : List Byte) : Crown :=
  if c.role = 3 ∧ !c.activeRoot ∧ !c.hostMode then c else c.sendUp (plainRec 0x0F 4 body)

/-- The pod crown p + 1 of R29, for a tray crown; NONE for another. -/
def Crown.nextPod (c : Crown) : Nat :=
  let pods := (topoRecord c.image 0xC0000000).getD [] |>.filter (fun e => e.kind == 1)
  let n := if pods.length = 0 then 64 else pods.length
  if nodeLevel c.node = 1 then 0x80000000 + (bitsOf c.node 17 12 + 1) % n * 4096 else nodeNone

/-- REQ (R226): 1 re-homing, 2 uplink saturated, 3 firmware. -/
def Crown.flexReq (c : Crown) (reason : Nat) : Crown :=
  let f := c.red.flex
  let cause := match reason with
    | 1 => c.role == 1 && (match c.red.noUpSince with
      | none => false
      | some t => decide (t + 1000000 ≤ c.ns))
    | 2 => decide (f.ulRun ≥ 8)
    | 3 => c.flag BZ_FLEX_CTRL_REQ
    | _ => false
  match c.freeFlex with
  | none => c
  | some lane =>
    if !c.flag BZ_RED_CTRL_FLEX_EN ∨ !cause ∨ f.req.isSome ∨ c.ns < f.notBefore then c
    else
      let far := match reason with
        | 1 => c.nextPod
        | 3 => c.g BZ_FLEX_TARGET_NODE
        | _ => nodeNone
      let c := c.onFlex (fun f => { f with req := some ⟨(f.seq + 1) % 2 ^ 32, reason, lane, c.ns⟩, seq := (f.seq + 1) % 2 ^ 32 })
      let c := ((c.s BZ_FLEX_STAT_PEND 1).count BZ_FLEX_REQS_COUNT)
      let c := if reason = 3 then c.s BZ_FLEX_CTRL_REQ 0 else c
      c.flexUp (c.flexBody 1 reason lane 0 far 0 (f.seq + 1))

/-- A flex lane's granted mark and circuit. -/
def Crown.setCircuit (c : Crown) (lane : Nat) (on : Bool) (circuit : Nat) : Crown :=
  let c := c.onFlex (fun f => { f with held := putBits f.held (lane - 70) (lane - 70) (b2n on) })
  let c := c.s (if lane = 70 then BZ_FLEX_STAT_L70 else BZ_FLEX_STAT_L71) (b2n on)
  c.s (BZ_FLEX_CIRCx_CIRCUIT (lane - 70)) circuit

/-- A FLEX record on its way down goes on toward the nodes below this crown, once on each port. -/
def Crown.flexDown (c : Crown) (ns : List Nat) (body : List Byte) : Crown :=
  let ports := (ns.filter (fun n => n ≠ nodeNone ∧ !sameNode n c.node)).filterMap c.portToward
  ports.eraseDups.foldl (fun (c : Crown) p => c.on (·.post p (plainRec 0x0F 4 body))) c

/-- GRANT (R227): the requester records the circuit; another crown passes it toward the requester and FAR. -/
def Crown.grant (c : Crown) (body : List Byte) : Crown :=
  let c := c.flexDown [field body 20 4, field body 28 4] body
  match c.red.flex.req with
  | none => c
  | some r =>
    if !sameNode (field body 20 4) c.node ∨ field body 36 4 ≠ r.seq then c
    else
      let c := (c.onFlex (fun f => { f with req := none, reason := r.reason, absentSince := none })).s BZ_FLEX_STAT_PEND 0
      c.setCircuit r.lane true (field body 32 4)

/-- DENY (R227): the outstanding REQ ends and is counted. -/
def Crown.deny (c : Crown) (body : List Byte) : Crown :=
  let c := c.flexDown [field body 20 4] body
  match c.red.flex.req with
  | none => c
  | some r =>
    if !sameNode (field body 20 4) c.node ∨ field body 36 4 ≠ r.seq then c
    else ((c.onFlex (fun f => { f with req := none })).s BZ_FLEX_STAT_PEND 0).count BZ_FLEX_DENY_COUNT

/-- FLEX_TIMEOUT (R227): no answer within 100 ms. -/
def Crown.flexTimeout (c : Crown) : Crown :=
  match c.red.flex.req with
  | none => c
  | some r =>
    if c.ns < r.at_ + 100000000 then c
    else ((c.onFlex (fun f => { f with req := none, notBefore := c.ns + 1000000000 })).s BZ_FLEX_STAT_PEND 0).count BZ_FLEX_TMO_COUNT

/-- The weighted classes of the up lane move to another lane, and the queues' frames with them; held 10 µs (R228). -/
def Crown.moveWeighted (c : Crown) (src dst : Nat) : Crown :=
  if src = dst then c
  else [3, 4, 5, 6, 7].foldl (fun (c : Crown) k => c.on (fun n =>
    let a := n.q (src * 8 + k)
    let b := n.q (dst * 8 + k)
    (n.setQ (dst * 8 + k) { a with frames := b.frames ++ a.frames, queue := b.queue ++ a.queue, waits := b.waits ++ a.waits }).setQ (src * 8 + k) ClassQ.empty)) c

/-- The lane of the weighted classes changes: none for the up lane; no weighted frame starts on it for 10 µs (R228). -/
def Crown.setFlexLane (c : Crown) (k : Option Nat) : Crown :=
  (c.on (fun n => { n with flexLane := k })).onFlex (fun f => { f with holdUntil := c.ns + 10000 })

/-- A granted flex lane in service takes the weighted classes (R228). -/
def Crown.flexMove (c : Crown) : Crown :=
  match c.flexLane, [70, 71].find? (fun k => bitOf c.red.flex.held (k - 70) && c.toNode.up k) with
  | none, some k => (c.moveWeighted c.upLane k).setFlexLane (some k)
  | some k, none => (c.moveWeighted k c.upLane).setFlexLane none
  | _, _ => c

/-- The condition behind the circuit is absent: UL at or below IDLE_LO, or for a re-homing an up lane in service (R228; log entry 117). -/
def Crown.flexAbsent (c : Crown) : Bool :=
  if c.red.flex.reason = 1 then c.upInService else decide (c.g BZ_RED_LOAD_UL ≤ c.g BZ_RED_CTRL_IDLE_LO)

/-- Follows the absence of the condition (R228). -/
def Crown.flexWatch (c : Crown) : Crown :=
  c.onFlex (fun f => { f with absentSince := if c.flexAbsent && f.held != 0 then some (f.absentSince.getD c.ns) else none })

/-- RELEASE (R228): absent for 1 s, or firmware writes REL: classes move back and a FLEX RELEASE goes up. -/
def Crown.flexRelease (c : Crown) : Crown :=
  let c := c.flexWatch
  let due := match c.red.flex.absentSince with
    | none => false
    | some t => decide (t + 1000000000 ≤ c.ns)
  if c.red.flex.held = 0 ∨ !(due || c.flag BZ_FLEX_CTRL_REL) then c
  else
    let lane := match c.flexLane with
      | some k => k
      | none => if bitOf c.red.flex.held 0 then 70 else 71
    let c := match c.flexLane with
      | some k => (c.moveWeighted k c.upLane).setFlexLane none
      | none => c
    let circuit := c.g (BZ_FLEX_CIRCx_CIRCUIT (lane - 70))
    let reason := c.red.flex.reason
    let c := ((c.setCircuit lane false 0).s BZ_FLEX_CTRL_REL 0).onFlex (fun f => { f with absentSince := none })
    c.flexUp (c.flexBody 4 reason lane 0 nodeNone circuit c.red.flex.seq)

/-- A received FLEX record by its OP: REQ, RELEASE and RELEASED go toward the root, GRANT and DENY down (R227). -/
def Crown.takeFlex (c : Crown) (body : List Byte) : Crown :=
  match field body 24 1 with
  | 2 => c.grant body
  | 3 => c.deny body
  | _ => c.flexUp body

/-- A KIND 0x0F record from a lane, by its TYPE (R222). -/
def Crown.takeRed (c : Crown) (lane : Nat) (body : List Byte) : Crown :=
  match field body 16 1 with
  | 0x30 => c.takeAgg lane body
  | 0x31 => c.takeRaw body
  | 0x32 => c.takeLoad lane body
  | 0x33 => c.takeShift body
  | 0x34 => c.takeFlex body
  | _ => c

end Sys2Proof.Machine
end

