-- ==== Sys2Proof/Machine/Admit.lean ====
section
/-! DEFINITION. The admission checker (spec/16_bring_up.md R424, R425) with the refusal conditions of the rules it names: R22, R365,
Table 19.3, R79, R219 to R221, R275 to R277, R313, R346, R493. Predicted rates are exact integers; log entry 67 names what each prediction
takes where its rule leaves a term open. -/

namespace Sys2Proof.Machine

/-- A refusal: CODE, section TYPE and ITEM (Table 16.11). -/
abbrev Refused := Nat × Nat × Nat

/-- The first refusal of a list of checks. -/
def firstRefusal (l : List (Option Refused)) : Option Refused := l.findSome? id

/-- A refusal when a condition holds. -/
def refuseIf (b : Bool) (code sect item : Nat) : Option Refused := if b then some (code, sect, item) else none

/-- The numbers of the entries of a list that satisfy a condition. -/
def badItem {α : Type} (l : List α) (p : α → Bool) : Option Nat := (List.range l.length).find? (fun i => (l[i]?).any p)

/-! ### Leaf lists (R79, R401) -/

/-- The leaf lists that the ports of the tray crowns below a node name, rising. -/
def listsBelow (img : List Byte) (node : Nat) : List Nat :=
  let used := (traysBelow img node).flatMap (fun t => (List.range 64).filterMap (fun p =>
    let e := topoPort img t p
    if e.kind == 1 || e.kind == 2 then some e.list else none))
  numsWhere 256 used.contains

/-- The LEAF declaration of a list. -/
def leafDecl (img : List Byte) (l : Nat) : List Byte := ((decls img 1).find? (fun d => field d 0 1 == l)).getD []

/-- The ENGINE declarations of a list. -/
def engineDecls (img : List Byte) (l : Nat) : List (List Byte) := (decls img 2).filter (fun d => field d 0 1 == l)

/-- The condition of R79 on a list, in ns: refused when the sweeps of one smallest PERIOD do not fit. -/
def groupsFit (img : List Byte) (l : Nat) : Bool :=
  let v := viewList (leafList img l)
  let d := leafDecl img l
  let n := field d 3 2
  let on := (List.range 8).filter (fun g => (v.period g).isSome)
  let t := on.foldl (fun a g => a + v.count g n + 3 * v.bins g n) 0 + 8 * (field d 1 2 + 8)
  on.all (fun g => (v.period g).all (fun p => decide (t ≤ p * 1000)))

/-- The first guard declaration of a list whose unit cannot trip within its deadline, in ns; the item is its unit. -/
def guardLate (img : List Byte) (l : Nat) : Option Nat :=
  let v := viewList (leafList img l)
  (((decls img 4).filter (fun d => field d 0 1 == l)).find? (fun d =>
    decide (24 + (max 1 (bitsOf (v.hp.get (fun _ => 0) (field d 1 1)) 15 8) - 1) * field d 4 4 > field d 8 4))).map (fun d => field d 1 1)

/-! ### Clocks (R473, Table 19.3) -/

/-- CLKd_CTRL after the clock lists of a crown. -/
def clockWord (lists : List (Nat × List (Nat × Nat))) (d : Nat) : Nat :=
  (lists.flatMap (·.2)).foldl (fun w e => if e.1 = BZ_CLKd_CTRL d then e.2 else w) (resetOf crownTable (BZ_CLKd_CTRL d)).toNat

/-- Within 100 ppm of a frequency. -/
def near (f want : Nat) : Bool := decide (f * 1000000 ≤ want * 1000100) && decide (want * 999900 ≤ f * 1000000)

/-- Every crown limit of Table 19.3 holds. -/
def ratiosOk (f : Nat → Nat) : Bool :=
  let noc := f 3
  [5, 6, 7, 8].all (fun d => decide (f d ≤ noc) && decide (2 * noc ≤ 3 * f d))
    && [11, 12].all (fun d => decide (4 * noc ≤ 5 * f d))
    && decide (f 9 ≤ 2 * noc) && decide (f 10 ≤ noc) && decide (f 4 ≤ noc)
    && [13, 14, 15].all (fun d => decide (f d ≤ 2 * noc) && near (f d) 6306300)
    && decide (4 * f 17 ≤ f 2) && decide (2 * f 17 ≤ f 16) && near (f 4) 3603600

/-- The clock lists of a crown. -/
def clockLists (img : List Byte) (node : Nat) : List (Nat × List (Nat × Nat)) := (listsOf img 3).filter (fun l => sameNode l.1 node)

/-- The first clock list after which a limit is broken (R476). -/
def badClocks (img : List Byte) (node : Nat) : Option Nat :=
  let l := clockLists img node
  (List.range l.length).find? (fun k => !ratiosOk (fun d => clockFreq (clockWord (l.take (k + 1)) d)))

/-- A domain's frequency under the configuration, in units of 100 MHz / 360,360. -/
def cfgFreq (img : List Byte) (node d : Nat) : Nat := clockFreq (clockWord (clockLists img node) d)

/-- Cycles per second of a frequency, rounded down. -/
def perSecond (f : Nat) : Nat := f * 100000000 / 360360

/-! ### Reduction plans (R219 to R221) -/

/-- The plans of a configuration that a crown holds. -/
def plansAt (img : List Byte) (node : Nat) : List (List Byte) := (pieces 32 (sectionOf img 6)).filter (fun r => inSubtree (field r 4 4) node)

/-- A reserved code, or a field outside its range (Table 9.2). -/
def planReserved (raw : List Byte) : Bool :=
  let p := planOf raw
  p.id == 0 || p.id == 65535 || field raw 2 1 != 1 || decide (p.skind > 3) || decide (p.xform > 2) || decide (field raw 3 1 ≥ 64)
    || decide (p.win < 5) || decide (p.win > 16000000) || decide (p.late > 1000000) || decide (field raw 24 1 ≥ 64)
    || (bitOf p.ops 5 && (p.kTop == 0 || decide (p.kTop > 64))) || decide (p.kmin > 1679) || decide (p.groupBy > 5) || decide (p.outs ≥ 128)

/-- reduction_ok: the item is the number of the plan in the section. -/
def badPlan (img : List Byte) (node : Nat) : Option Nat :=
  let l := plansAt img node
  let limit := 12 * perSecond (cfgFreq img node 3) * 1000000
  let past := (List.range l.length).find? (fun i => decide ((l.take (i + 1)).foldl (fun a r => a + planSlotRate img node (planOf r)) 0 > limit))
  match badItem l (fun r =>
    let p := planOf r
    planReserved r || (p.groupBy == 5 && decide ((leavesBelow img p.scope).length > 4096))
      || ((p.groupBy == 3 || p.groupBy == 4) && !p.binned) || decide ((leavesBelow img p.scope).length * 16 > 16777216)) with
  | some i => some i
  | none => if l.length > 256 then some 256 else past

/-! ### Feature sets (R275 to R277, R290) -/

/-- The ENSEMBLES entries of a section: node word, slot, PBASE, PCNT, STREAM and image. -/
def ensembleList (fuel : Nat) (l : List Byte) : List (Nat × Nat × Nat × Nat × Nat × List Byte) :=
  match fuel with
  | 0 => []
  | m + 1 =>
    if l.length < 104 then []
    else
      let n := iLen (l.drop 8)
      (field l 0 4, field l 4 1, field l 5 1, field l 6 1, field l 7 1, slice l 8 n) :: ensembleList m (l.drop (8 + max 1 n))

/-- The ensembles of a configuration for a crown. -/
def ensemblesAt (img : List Byte) (node : Nat) : List (Nat × Nat × Nat × Nat × Nat × List Byte) :=
  let s := sectionOf img 9
  (ensembleList (s.length + 1) s).filter (fun e => sameNode e.1 node)

/-- The trees of each pipeline of an ensemble, in assignment order. -/
def pipeTrees (img : List Byte) (pcnt : Nat) : List (List Nat) :=
  let asg := assignTrees ((List.range (iNtree img)).map (fun t => tNodes (iTree img t))) (List.replicate pcnt 0)
  (List.range pcnt).map (treesOn asg)

/-- The predicted time of a tree job with the whole HBM bandwidth (R290), in 10^-18 s. -/
def treeTime (img : List Byte) (pcnt : Nat) (stream : Bool) (nvec nfeat f : Nat) : Nat :=
  let lv := ceilDiv (4 * nfeat) 64
  let vs := 64 * lv
  let ss := sstride (iNout img)
  let pipes := pipeTrees img pcnt
  let size := fun t => tNodes (iTree img t)
  if !stream && pipes.all (fun l => decide (l.foldl (fun a x => a + size x) 0 ≤ 65536)) then
    let tmax := pipes.foldl (fun a l => max a l.length) 0
    1000000000000 + max (cycleTime (nvec * max tmax lv + lv + 24) f) (byteTime (nvec * (vs + ss)) 100)
  else
    let blocks := pipes.map (fun l => cutBlocks size l [])
    let nblk := blocks.foldl (fun a l => max a l.length) 0
    (List.range (ceilDiv nvec 256)).foldl (fun t b =>
      let nb := min 256 (nvec - 256 * b)
      (List.range nblk).foldl (fun t j =>
        let at_ := blocks.map (fun l => l.getD j [])
        let tb := at_.foldl (fun a l => max a l.length) 0
        let by_ := at_.foldl (fun a l => a + 8 * l.foldl (fun b x => b + size x) 0) 0
        t + max (cycleTime (nb * max tb lv + 24) f) (byteTime (by_ + nb * vs) 100)) t + byteTime (nb * ss) 100) 1000000000000

/-- The operator bit a feature statistic needs (Table 11.2); none for the counts. -/
def statOp (stat : Nat) : Option Nat :=
  match stat with
  | 3 => some 0
  | 4 => some 1
  | 5 => some 2
  | 6 => some 3
  | 7 => some 3
  | 8 => some 4
  | 9 => some 5
  | _ => none

/-- Whether a feature set is refused (R276, R277). -/
def fsetBad (img : List Byte) (node : Nat) (r : List Byte) : Bool :=
  let plan := fun id => ((plansAt img node).find? (fun x => field x 0 2 == id)).map planOf
  let n := field r 6 2
  let entries := pieces 16 (slice r 16 (16 * n))
  let reserved := field r 0 2 == 0 || field r 0 2 == 65535 || field r 2 1 != 1 || bitOf (field r 3 1) 7 || n == 0 || decide (field r 8 3 > 1000000)
  let entryBad := fun (e : List Byte) =>
    decide (field e 2 1 > 9) || decide (field e 3 1 ≥ 32)
      || (field e 2 1 == 8 && (field e 4 2 == 0 || decide (field e 4 2 > 1000))) || (field e 2 1 == 9 && (field e 4 2 == 0 || decide (field e 4 2 > 64)))
      || (match plan (field e 0 2) with
          | none => true
          | some p => (statOp (field e 2 1)).any (fun b => !bitOf p.ops b))
  match plan (field r 4 2) with
  | none => true
  | some a =>
    let nvec := planKeys img node a
    let form := cycleTime (ceilDiv (nvec * n) 4) (cfgFreq img node 3)
    let score := match (ensemblesAt img node).find? (fun e => e.2.1 == field r 3 1 % 16) with
      | none => 0
      | some (_, _, _, pcnt, st, i) => if bitOf (field r 3 1) 4 then treeTime i pcnt (st != 0) nvec n (cfgFreq img node 9) else 0
    reserved || entries.any entryBad || a.groupBy == 0 || !bitOf a.outs 6 || decide (form + score > a.win * 1000000000000)

/-- Feature sets of a section, each a header and NFEAT entries. -/
def fsetList (fuel : Nat) (l : List Byte) : List (List Byte) :=
  match fuel with
  | 0 => []
  | m + 1 =>
    if l.length < 16 then []
    else
      let n := 16 + 16 * field l 6 2
      l.take n :: fsetList m (l.drop n)

/-- The feature sets of a configuration. -/
def fsetsOf (img : List Byte) : List (List Byte) := let s := sectionOf img 7; fsetList (s.length + 1) s

/-- feature_ok at a tray crown. -/
def badFset (img : List Byte) (node : Nat) : Option Nat :=
  if nodeLevel node ≠ 1 then none
  else
    let l := fsetsOf img
    match badItem l (fsetBad img node) with
    | some i => some i
    | none => if l.length > 32 then some 32 else none

/-! ### Window plans (R313) -/

/-- A window plan as its bytes spell it. -/
def winOf (raw : List Byte) : WinPlan := ⟨raw, 0, [], [], false, false, false, 0, 0, 0, 0, 0⟩

/-- The window plans of a configuration that LEVELS gives a crown. -/
def winsAt (img : List Byte) (node : Nat) : List (List Byte) :=
  (pieces 64 (sectionOf img 8)).filter (fun r => bitOf (field r 6 1) (1 + nodeLevel node))

/-- A reserved code, a field outside its range, or a SRC the crown does not hold. -/
def winReserved (img : List Byte) (node : Nat) (r : List Byte) : Bool :=
  let p := winOf r
  let fp := fun i => field r i 4
  let pos := fun v => decide (0 < v) && decide (v < 0x7F800000)
  p.id == 0 || p.id == 65535 || field r 2 1 != 1 || decide (p.det > 5) || decide (field r 3 1 ≥ 32) || p.source == 3 || decide (field r 6 1 ≥ 32)
    || (p.source == 1 && decide (p.stat > 9)) || decide (p.depthLog > 22) || (p.depthLog != 0 && (decide (p.bps < 8) || decide (p.bps > 144)))
    || (p.det != 0 && (p.nOn == 0 || p.nOff == 0))
    || (p.det == 1 && (p.refQ == 0 || decide (p.refQ > 1000) || decide (p.minPeers < 2) || decide (p.minPeers > 4096) || decide (fp 20 < 0x3F800000) || decide (fp 20 ≥ 0x7F800000)))
    || (p.learns && (!pos (fp 36) || decide (p.baseLen < 16)))
    || (p.det == 3 && (p.lambdaLog == 0 || decide (p.lambdaLog > 8))) || (p.det == 4 && (p.arP == 0 || decide (p.arP > 32) || p.refit == 0))
    || (if p.source = 2 then !(fsetsOf img).any (fun s => field s 0 2 == p.src) else !(plansAt img node).any (fun s => field s 0 2 == p.src))

/-- The source plan of a window plan: the anchor plan of a feature set for SCORE. -/
def winSrc (img : List Byte) (node : Nat) (p : WinPlan) : PlanSlot :=
  let id := if p.source = 2 then (((fsetsOf img).find? (fun s => field s 0 2 == p.src)).map (fun s => field s 4 2)).getD 0 else p.src
  planOf (((plansAt img node).find? (fun s => field s 0 2 == id)).getD [])

/-- The series a window plan counts at a crown. -/
def winSeries (img : List Byte) (node : Nat) (p : WinPlan) : Nat :=
  match p.source with
  | 0 => planValues img node (winSrc img node p)
  | 1 => 4096
  | _ => planKeys img node (winSrc img node p)

/-- A LAYER or TAG plan reads a bin series. -/
def winBinned (img : List Byte) (node : Nat) (p : WinPlan) : Bool := (winSrc img node p).binned

/-- History pages of a plan (R310). -/
def winPages (img : List Byte) (node : Nat) (p : WinPlan) : Nat :=
  if p.depthLog = 0 then 0 else winSeries img node p * (p.ringPages + 1)

/-- The refit load of a RESIDUAL plan in 10^-18 s per µs (R313). -/
def refitLoad (img : List Byte) (node : Nat) (p : WinPlan) (share : Nat) : Nat :=
  let n := p.arP
  let k := 2 ^ p.depthLog
  let g : Gemm := ⟨n + 1, n + 2, k, 8, 8, 4, false, 96, 1, false, true⟩
  let t := g.time (cfgFreq img node 5) share + cycleTime (ceilDiv k 4) (cfgFreq img node 10)
  if p.det ≠ 4 then 0 else ceilDiv (winSeries img node p * t) (2 * max 1 p.refit * max 1 (winSrc img node p).win)

/-- A register's value after the crown's own lists, the reset value unless a list writes it. -/
def cfgWord (img : List Byte) (node off : Nat) : Nat :=
  (((listsOf img 4).filter (fun l => sameNode l.1 node)).flatMap (·.2)).foldl (fun w e => if e.1 = off then e.2 else w) (resetOf crownTable off).toNat

/-- window_ok: the item is the number of the plan among those the crown runs. -/
def badWin (img : List Byte) (node : Nat) : Option Nat :=
  let l := (winsAt img node).map winOf
  let pages := cfgWord img node BZ_HS_PAGES
  let limit := 24 * perSecond (cfgFreq img node 10)
  let share := min 100 (bitsOf (cfgWord img node BZ_WIN_CTRL) 14 8)
  let rate := fun (p : WinPlan) => winSeries img node p * p.slots * 1000000 / max 1 (winSrc img node p).win
  let sumTo := fun (f : WinPlan → Nat) i => (l.take (i + 1)).foldl (fun a p => a + f p) 0
  match badItem l (fun p =>
    winReserved img node p.raw
      || (p.det == 1 && (p.source != 0 || p.level 2 || p.level 3))
      || (p.source == 0 && p.depthLog != 0 && winBinned img node p)
      || (p.det == 4 && (decide (p.depthLog < 10) || decide (p.arP ≥ 2 ^ p.depthLog / 64)))) with
  | some i => some i
  | none =>
    if l.length > 256 then some 256
    else (List.range l.length).find? (fun i =>
      decide (sumTo (winPages img node) i > pages) || decide (sumTo rate i > limit)
        || decide (sumTo (fun p => refitLoad img node p share) i > 500000000000))

/-! ### Audit (R346) -/

/-- Operand bytes of a declared tile. -/
def declBytes (d : List Byte) : Nat :=
  let m := field d 8 2
  let n := field d 10 2
  let k := field d 12 4
  let line := fun fmt => rowBytes (inBits fmt) k + (if inFmtMx fmt then k / 32 else 0)
  m * line (field d 16 1) + n * line (field d 17 1) + (if field d 19 1 = 0 then 0 else 4 * m * n)

/-- The recompute of a declared tile (R329). -/
def declGemm (d : List Byte) (cn : Nat) : Gemm :=
  ⟨field d 8 2, field d 10 2, field d 12 4, field d 16 1, field d 17 1, outBytes (field d 18 1), field d 19 1 != 0, 96, max 1 cn, false, true⟩

/-- The C3 share of a leaf's lane in bytes per second, and the operand bytes it may carry. -/
def c3Share (img : List Byte) (node l : Nat) : Nat :=
  let mode := (((decls img 5).find? (fun d => sameNode (field d 0 4) node && field d 4 1 == 0)).map (fun d => field d 5 1)).getD 0
  let d := leafDecl img l
  let strict := field d 9 4 + field d 13 4 + field d 17 4
  let w := fun q => ((leafList img l).foldl (fun w e => if e.1 = TZ_SAPQk_WEIGHT q then e.2 % 256 else w) (resetOf leafTable (TZ_SAPQk_WEIGHT q)).toNat)
  let sum := (List.range 5).foldl (fun a i => a + max 1 (w (3 + i))) 0
  (payRate mode * 1250000 - strict) * max 1 (w 3) / max 1 sum

/-- audit_ok: the item is the number of the ENGINE declaration. -/
def badAudit (img : List Byte) (node : Nat) : Option Nat :=
  let l := decls img 2
  let ctrl := cfgWord img node BZ_AUD_CTRL
  let share := bitsOf ctrl 30 24
  let thresh := cfgWord img node BZ_AUD_THRESH
  let cn := bitsOf (cfgWord img node (BZ_AUD_RANGEi 0)) 25 16
  let f := cfgFreq img node 5
  let mine := (leavesBelow img node).map (listOfLeaf img)
  let used := fun (d : List Byte) => mine.contains (field d 0 1)
  let rate := fun (d : List Byte) => field d 4 4 * (if thresh = 0xFFFFFFFF then 2 ^ 32 else thresh)
  let leafBytes := fun (li i : Nat) => ((l.take (i + 1)).filter (fun d => field d 0 1 == li)).foldl (fun a d => a + rate d * declBytes d) 0
  let busy := fun i => ((l.take (i + 1)).filter used).foldl (fun a d => a + mine.count (field d 0 1) * rate d * (declGemm d cn).time f share) 0
  if nodeLevel node ≠ 1 ∨ !bitOf ctrl 31 then none
  else (List.range l.length).find? (fun i =>
    let d := l.getD i []
    let li := field d 0 1
    let c3 := c3Share img node li
    used d && (decide (leafBytes li i * 10 > c3 * 8 * 2 ^ 32)
      || decide (2 * (ceilDiv (declBytes d * 1000000000000000000) (max 1 c3) + 2 * (declGemm d cn).time f share + 100000000000000) > field d 20 4 * 1000000000000)
      || decide (busy i > 800000000000000000 * 2 ^ 32)))

/-! ### Lanes and radio (R424) -/

/-- A leaf list declares radio engines. -/
def listRadio (img : List Byte) (l : Nat) : Bool := (engineDecls img l).any (fun d => bitOf (field d 2 1) 1)

/-- MODE_MIN declared for a lane group of a crown; 0 when none is. -/
def modeMin (img : List Byte) (node group : Nat) : Nat :=
  (((decls img 5).find? (fun d => sameNode (field d 0 4) node && field d 4 1 == group)).map (fun d => field d 5 1)).getD 0

/-- C0_DEADLINE_NS declared for the tray crown above a leaf. -/
def c0Deadline (img : List Byte) (leaf : Nat) : Nat := (((decls img 6).find? (fun d => sameNode (field d 0 4) (trayOf leaf))).map (fun d => field d 12 4)).getD 0

/-- The lanes of a crown with the leaves below each: logical downlinks, and the up lanes of a crown that has a parent. -/
def laneLeaves (img : List Byte) (node : Nat) (top : Bool) : List (Nat × Nat × List Nat) :=
  ((List.range 64).filterMap (fun p =>
    let e := topoPort img node p
    if e.kind == 1 then some (p, 0, let n := childWord node e.num; if nodeLevel n = 0 then [n] else leavesBelow img n) else none))
    ++ (if top then [] else [(64, 1, leavesBelow img node), (65, 1, leavesBelow img node)])

/-- Whether a lane breaks code 13. -/
def laneBad (img : List Byte) (node : Nat) (x : Nat × Nat × List Nat) : Bool :=
  let strict := x.2.2.foldl (fun a n => let d := leafDecl img (listOfLeaf img n); a + field d 9 4 + field d 13 4 + field d 17 4) 0
  let m := modeMin img node x.2.1
  let radio := x.2.2.filter (fun n => listRadio img (listOfLeaf img n))
  decide (strict * 16 > payRate m * 10000000) || (!radio.isEmpty && (radio.any (fun n => decide (c0Deadline img n < 3000)) || decide (m < 2)))

/-! ### Features (R493) -/

/-- The feature bits a configuration uses (Table 20.3) at a crown. -/
def usedFeatures (img : List Byte) (node : Nat) : Nat :=
  let lists := listsBelow img node
  let engines := lists.flatMap (engineDecls img)
  let mine := ((listsOf img 4).filter (fun l => sameNode l.1 node)).flatMap (·.2)
  let bit := fun (i : Nat) (b : Bool) => if b then 2 ^ i else 0
  bit 1 ((List.range 64).any (fun p => (topoPort img node p).kind == 3))
    + bit 2 (engines.any (fun d => inFmtMx (field d 16 1) || inFmtMx (field d 17 1)))
    + bit 3 (engines.any (fun d => bitOf (field d 2 1) 0))
    + bit 4 (lists.any (fun l => (viewList (leafList img l)).twigs.any (fun e => bitOf e.2 1)))
    + bit 5 (mine.any (fun e => e.1 == BZ_RED_CTRL && bitOf e.2 30))
    + bit 6 (mine.any (fun e => e.1 == BZ_RED_CTRL && bitOf e.2 29))
    + bit 7 (mine.any (fun e => (List.range 72).any (fun l => e.1 == BZ_SCHl_GATE_CTRL l && bitOf e.2 31)))
    + bit 8 ((ensemblesAt img node).any (fun e => e.2.2.2.2.1 != 0))
    + bit 9 ((winsAt img node).any (fun r => (winOf r).det == 4))
    + bit 10 (lists.any (fun l => (leafList img l).any (fun e => decide (0x3500 ≤ e.1) && decide (e.1 < 0x3700))))
    + bit 13 (mine.any (fun e => e.1 == BZ_RH_CTRL && bitOf e.2 31))

/-! ### The checker -/

/-- Sections a seed may not hold (Table 16.2). -/
def reservedSection (img : List Byte) : Bool := (sections img).any (fun s => s.typ == 0 || decide (s.typ ≥ 15))

/-- The HBM_MAP ranges of a crown, by kind. -/
def hbmRanges (img : List Byte) (node : Nat) : List (Nat × Nat) := (List.range 7).map (Config.hbmMap (sectionOf img 14) node)

/-- Two ranges share a page. -/
def rangesMeet (a b : Nat × Nat) : Bool := decide (0 < a.2) && decide (0 < b.2) && decide (a.1 < b.1 + b.2) && decide (b.1 < a.1 + a.2)

/-- Bits set in a 64-bit map. -/
def popCount (m : Nat) : Nat := (numsWhere 64 (bitOf m)).length

/-- The spare group a refusal names (R365). -/
def badSpare (img : List Byte) (node : Nat) : Option Nat :=
  match (pieces 260 (sectionOf img 10)).find? (fun r => sameNode (field r 0 4) node) with
  | none => none
  | some r => lowest 16 (fun g =>
    let ports := field r (4 + 16 * g) 8
    let spares := field r (12 + 16 * g) 8
    (ports != 0 || spares != 0) && (decide (popCount ports < 8) || decide (popCount ports > 64) || (spares ||| ports) != ports))

/-- The checks on each leaf list, in the order written: code 7, then 15. -/
def listRefusal (img : List Byte) (l : Nat) : Option Refused :=
  if !groupsFit img l then some (7, 5, l) else (guardLate img l).map (fun u => (15, 12, u))

/-- The admission check of a configuration in the form of an image, on the scope of crown `node` (R424): none accepts. `have` is the
effective feature word, `solo` the role, `ppsTol` BZ_TIME_PPS_TOL, `top` whether the crown has no parent. -/
def admitImage (img : List Byte) (node feat : Nat) (solo top : Bool) (ppsTol : Nat) : Option Refused :=
  let logical := ((List.range 64).filter (fun p => (topoPort img node p).kind == 1)).map (fun p => (topoPort img node p).num)
  let ranges := hbmRanges img node
  let overlap := (List.range 7).any (fun i => (List.range i).any (fun j => rangesMeet (ranges.getD i (0, 0)) (ranges.getD j (0, 0))))
  let radios := (decls img 6).filter (fun d => sameNode (field d 0 4) node)
  let time := (decls img 7).head?
  let tol := (time.map (fun d => field d 4 4)).getD ppsTol
  let hops := if solo then 0 else 2
  let used := usedFeatures img node
  firstRefusal
    [refuseIf (field img 4 1 != 3 || reservedSection img) 1 0 0,
     refuseIf (decide (field img 24 4 > 0x40200)) 3 0 0,
     refuseIf ((used &&& feat) != used) 3 0 0,
     refuseIf (decide (logical.eraseDups.length < logical.length)) 4 2 node,
     if nodeLevel node = 1 then (badSpare img node).map (fun g => (5, 10, g)) else none,
     (badClocks img node).map (fun k => (6, 3, k)),
     refuseIf (overlap || decide (ranges.foldl (fun a r => a + r.2) 0 > 156250000)) 16 14 node,
     (listsBelow img node).findSome? (listRefusal img),
     (badPlan img node).map (fun i => (8, 6, i)),
     (badFset img node).map (fun i => (9, 7, i)),
     (badWin img node).map (fun i => (10, 8, i)),
     (badAudit img node).map (fun i => (11, 12, i)),
     (badItem radios (fun d => decide (field d 4 4 > 16000000) || decide (field d 8 4 < 2000))).map (fun i => (12, 12, i)),
     ((laneLeaves img node top).find? (laneBad img node)).map (fun x => (13, 12, x.1)),
     ((listsBelow img node).find? (fun l => listRadio img l && ((solo && !(time.any (fun d => field d 0 1 != 0)))
        || decide (field (leafDecl img l) 21 4 * 10 < tol * 10 + 128 * hops + 100)))).map (fun l => (14, 12, l))]

/-! ### Configurations in host mode (R497) -/

/-- A CONFIG image holds a section it may not (R497). -/
def configSections (img : List Byte) : Bool := (sections img).any (fun s => !((decide (4 ≤ s.typ) && decide (s.typ ≤ 9)) || s.typ == 11 || s.typ == 12))

/-- An image with the sections of a configuration in place of its own (R418): the form in which a CONFIG applies. -/
def mergeImage (base conf : List Byte) : List Byte :=
  let keep := (sections base).filter (fun s => !(sections conf).any (fun x => x.typ == s.typ))
  let parts := keep.map (fun s => (s.typ, s.bytes base)) ++ (sections conf).map (fun s => (s.typ, s.bytes conf))
  let start := 160 + 16 * parts.length
  let pad := fun (b : List Byte) => b ++ zeros ((8 - b.length % 8) % 8)
  let (table, body) := parts.foldl (fun (a : List Byte × List Byte) x =>
    (a.1 ++ le 2 x.1 ++ zeros 2 ++ le 4 (start + a.2.length) ++ le 4 x.2.length ++ le 4 (crc32c x.2), a.2 ++ pad x.2)) ([], [])
  base.take 6 ++ le 2 parts.length ++ le 4 (start + body.length + 96) ++ slice base 12 148 ++ table ++ body ++ zeros 96

end Sys2Proof.Machine
end

