-- ==== Sys2Proof/Machine/LeafLink.lean ====
section
/-! DEFINITION. What a leaf does with the records its parent sends it (spec/07_ring_log.md R167, R171, R173, R177;
spec/13_audit.md R322, R327; spec/15_heartwood.md R393; spec/16_bring_up.md R411, R415). -/

namespace Sys2Proof.Machine

/-! ### Ring log commands -/

/-- RESTORE (R167): the first sets OPSEC base, PCC and OPBASE and writes a RESTORE record; another is counted. -/
def Leaf.restore (l : Leaf) (base pcc : Nat) : Leaf :=
  if l.toNode.ring.opbase then l.count TZ_RLOG_CLR_REJ_COUNT
  else
    let loc := l.toNode.ring.localNs / nsPerSec
    let l := l.on (fun n => { n with ring := { n.ring with base := base % 2 ^ 40, pcc := pcc % 2 ^ 24, opbase := true } })
    l.log 0x02 (le 5 base ++ le 3 pcc ++ le 5 loc ++ zeros 3)

/-- MIRROR_ACK at the leaf (R171). -/
def Leaf.mirrorAck (l : Leaf) (seq : Nat) : Leaf := l.on (fun n => { n with ring := { n.ring with mirrored := seq } })

/-- READ at the leaf (R174). -/
def Leaf.ringRequest (l : Leaf) (first count : Nat) : Leaf := (l.toNode.ringData first count).foldl (fun (l : Leaf) b => l.on (·.bulkUp b)) l

/-- CLEAR at the leaf (R177). The bulk body carries no NOT_AFTER, so those bytes of the CLEAR record are free (log entry 64). -/
def Leaf.clearRing (l : Leaf) (high pcc nonce : Nat) (digest : List Byte) : Leaf :=
  let (na, l) := l.draw 128
  let ticket := byte 1 ++ byte 0 ++ zeros 2 ++ le 4 l.toNode.src ++ le 4 high ++ le 3 pcc ++ zeros 1 ++ le 8 nonce ++ le 16 na
  match l.toNode.ringClear high pcc ticket digest with
  | none => l.count TZ_RLOG_CLR_REJ_COUNT
  | some n => { l with toNode := n }

/-! ### The parent's Heartwood commands (R393, R396) -/

/-- HW_CMD: into the mailbox as received, and HW_RSP with what stands in the response buffer; nothing from a partition without power
or with a command in progress. -/
def Leaf.heartRelay (l : Leaf) (c : List Byte) : Leaf :=
  if !l.heart.up ∨ l.toNode.flag HW_MBX_CTRL_BUSY then l
  else
    let l := l.heartMail c
    let n := l.toNode.g HW_MBX_CTRL_RLEN
    let rsp := ((List.range 128).flatMap (fun i => le 4 (l.toNode.word (HW_MBX_RSP i)).toNat)).take n
    l.on (·.bulkUp (byte 0x16 ++ byte (l.toNode.g HW_MBX_CTRL_RESULT) ++ le 2 n ++ rsp))

/-! ### Records and bulk bodies from the parent -/

/-- The entries of a REG_WRITE body (Table 16.9). -/
def regEntries (body : List Byte) : List (Nat × Nat) := (List.range (field body 1 1)).map (fun i => (field body (8 + 8 * i) 2, field body (12 + 8 * i) 4))

/-- A C7 bulk body for a leaf (Tables 7.3, 16.9); other OP values are for crowns. -/
def Leaf.takeBulk (l : Leaf) (b : List Byte) : Leaf :=
  match field b 0 1 with
  | 0x10 => l.assign (field b 4 4) (field b 8 4)
  | 0x12 => l.regList (field b 4 4) (regEntries b)
  | 0x14 => l.vfMargin (field b 1 1) (field b 2 1)
  | 0x15 => l.heartRelay ((b.drop 4).take (field b 2 2))
  | 0x20 => l.jobArm (field b 4 4) (twOf (slice b 8 16)) (field b 24 4) (slice b 36 16)
  | 0x22 => l.jobGo (field b 4 4)
  | 0x23 => l.jobCancel (field b 4 4)
  | 0x40 => l.ringRequest (field b 4 4) (field b 8 4)
  | 0x42 => l.restore (field b 4 5) (field b 9 3)
  | 0x43 => l.mirrorAck (field b 4 4)
  | 0x44 => l.clearRing (field b 4 4) (field b 8 3) (field b 12 8) (slice b 20 16)
  | _ => l

/-- An audit command (Table 13.5). -/
def Leaf.takeAudit (l : Leaf) (b : List Byte) : Leaf :=
  match field b 16 1 with
  | 0x58 => l.audConfig (field b 24 4) (field b 28 8)
  | 0x59 => l.audBoost (field b 18 1) (field b 24 4) (field b 28 4)
  | 0x5A => l.replayCmd (field b 24 4)
  | _ => l

/-- A record that the leaf's receiver has delivered (R148): audit commands and bulk bodies act; a time message stays in `delivered` for its
own command, as does a record that no unit of a leaf takes. -/
def Leaf.takeRecord (l : Leaf) (kind : Nat) (body : List Byte) : Leaf :=
  match kind with
  | 0x08 => l.takeAudit body
  | 0x0C => l.takeBulk body
  | _ => l

/-- A leaf's unit takes records of this KIND. -/
def leafTakes (kind : Nat) : Bool := kind == 8 || kind == 0x0C

/-- Every record just delivered that a unit takes acts, in order. -/
def Leaf.drain (l : Leaf) : Leaf :=
  let ds := l.toNode.delivered
  let l := l.on (fun n => { n with delivered := ds.filter (fun d => !leafTakes d.2.1) })
  (ds.filter (fun d => leafTakes d.2.1)).foldl (fun (l : Leaf) d => l.takeRecord d.2.1 d.2.2) l

end Sys2Proof.Machine
end

