-- ==== Sys2Proof/Machine/Keep.lean ====
section
/-! DEFINITION. Retained operating data, Ring log mirrors, clear tickets and the meter relay of a crown (spec/07_ring_log.md R168, R171,
R172, R174, R176, R177; spec/15_heartwood.md R396). -/

namespace Sys2Proof.Machine

/-- A change to what the crown keeps. -/
def Crown.onKeep (c : Crown) (f : Keeping → Keeping) : Crown := { c with keep := f c.keep }

/-- The management core runs firmware. -/
def Crown.fw (c : Crown) : Bool := c.flag BZ_MODE_STAT_FW

/-- A record of the crown's own ring whose TYPE and body the spec does not give (log entry 63). -/
def Crown.logFree (c : Crown) : Crown :=
  let (t, c) := c.draw 8
  let (b, c) := c.draw 32
  c.log t (le 4 b)

/-- A C7 bulk body to the owner of mirror `k`: down a port, to the self leaf, or to the other root over a root peer lane in service. -/
def Crown.bulkTo (c : Crown) (k : Nat) (body : List Byte) : Crown :=
  if k < 64 then c.bulkDown k body
  else if k = 64 then { c with self := c.self.takeBulk body }
  else match [66, 67].find? c.toNode.up with
    | some lane => c.bulkDown lane body
    | none => c

/-! ### Retained operating data (R168) -/

/-- What is retained of a port. -/
def Crown.retained (c : Crown) (p : Nat) : Retained := c.keep.ports.get (fun _ => Retained.zero) p

/-- A port's retained data replaced. -/
def Crown.setRetained (c : Crown) (p : Nat) (r : Retained) : Crown := c.onKeep (fun k => { k with ports := k.ports.set (fun _ => Retained.zero) p r })

/-- The restore command to a leaf, or, in basic mode without firmware, a note that it waits (Table 17.4). -/
def Crown.sendRestore (c : Crown) (p : Nat) : Crown :=
  let r := c.retained p
  if c.basic && !c.fw then c.setRetained p { r with due := true }
  else (c.setRetained p { r with due := false }).bulkDown p (byte 0x42 ++ zeros 3 ++ le 5 r.opsec ++ le 3 r.pcc)

/-- POWER_UP (R168): the record of a leaf's power-up, with bit 0 set, has come from a port. -/
def Crown.powerUpOf (c : Crown) (p bits : Nat) : Crown :=
  if !c.isTray ∨ p ≥ 64 ∨ !bitOf bits 0 then c
  else
    let r := c.retained p
    let pcc := (r.pcc + 1) % 2 ^ 24
    (c.setRetained p { r with pcc := pcc, flashOp := r.opsec, flashPcc := pcc }).sendRestore p

/-- OPSEC_SAVE (R168): every SAVE_S seconds the retained values go to flash, the crown's own among them. -/
def Crown.opsecSave (c : Crown) : Crown :=
  if c.ns < c.keep.savedAt + max 1 (c.g BZ_RLOG_CTRL_SAVE_S) * nsPerSec then c
  else
    let own := c.toNode.opsec
    c.onKeep (fun k => { k with
      ports := k.ports.map (fun e => (e.1, { e.2 with flashOp := e.2.opsec, flashPcc := e.2.pcc }))
      own := { k.own with opsec := own, flashOp := own, flashPcc := k.own.pcc }
      savedAt := c.ns })

/-- RLOG_RST_PORT (R168): a write with GO zeroes a port's retained values, with them the ageing baselines and points retained beside its
operating seconds (R114), and the crown's ring records it (log entry 63). -/
def Crown.rstPort (c : Crown) (v : Nat) : Crown :=
  if !bitOf v 31 then c
  else
    let p := v % 64
    let c : Crown := { c with age := { c.age with chans := c.age.chans.filter (fun e => e.1 / 64 != p) } }
    (c.setRetained p Retained.zero).logFree

/-! ### Mirrors (R171, R172) -/

/-- Mirror `k`. -/
def Crown.mirror (c : Crown) (k : Nat) : Mirror := c.keep.mirrors.get (fun _ => Mirror.empty) k

/-- A mirror replaced, with its MIRROR_ACK point and PROT count. -/
def Crown.setMirror (c : Crown) (k : Nat) (m : Mirror) : Crown :=
  ((c.onKeep (fun x => { x with mirrors := x.mirrors.set (fun _ => Mirror.empty) k m })).s (BZ_RLOG_MIRk_STAT_PROT k) (min 255 m.prot.length)).s
    (BZ_RLOG_MIRk_ACK_SEQ k) m.acked

/-- Bytes of a mirror's ring: 256 KiB for a leaf, 1 MiB for a crown (R171, R172). -/
def Crown.mirrorSize (c : Crown) (k : Nat) : Nat := if k = 64 ∨ (k < 64 ∧ c.isTray) then 262144 else 1048576

/-- The oldest records are removed until the rest fits, never CLEAR or HEARTWOOD records, of which the protected area is full. -/
def Mirror.fit (fuel : Nat) (size : Nat) (m : Mirror) : Mirror :=
  match fuel with
  | 0 => m
  | n + 1 =>
    if m.recs.foldl (fun a r => a + r.2.len) 0 ≤ size then m
    else
      match m.recs.find? (fun r => !r.2.guarded) with
      | none => m
      | some r => Mirror.fit n size { m with recs := m.recs.erase r }

/-- `next` moves over SEQs that are held or gone. -/
def Mirror.advance (fuel : Nat) (m : Mirror) : Mirror :=
  match fuel with
  | 0 => m
  | n + 1 =>
    if m.ahead.contains m.next then Mirror.advance n { m with ahead := m.ahead.filter (· != m.next), next := (m.next + 1) % 2 ^ 32, moved := true } else m

/-- A CLEAR record has reached the mirror: the clear is applied (R177). -/
def Mirror.applyClear (m : Mirror) (body : List Byte) : Mirror :=
  let high := field body 8 4
  { m with recs := m.recs.map (fun r =>
      if r.1 = m.section_ ∧ seqDiff r.2.seq high ≤ 0 ∧ !r.2.guarded then (r.1, { r.2 with cleared := true }) else r) }

/-- A SEQ is held, or passed over. -/
def Mirror.seen (m : Mirror) (seq : Nat) : Mirror :=
  { m with ahead := m.ahead ++ [seq], top := if seqDiff (seq + 1) m.top > 0 then (seq + 1) % 2 ^ 32 else m.top }

/-- A record enters the mirror in SEQ order; CLEAR and HEARTWOOD records move to the protected area as they arrive, while it has room
(R171). -/
def Mirror.store (size : Nat) (m : Mirror) (r : RingRec) : Mirror :=
  let before := fun (a b : Nat × RingRec) => decide (a.1 < b.1) || (a.1 == b.1 && decide (seqDiff a.2.seq b.2.seq ≤ 0))
  let e := (m.section_, r)
  let m := if r.guarded && decide (m.prot.length < 256) then { m with prot := m.prot ++ [e] } else { m with recs := insertBy before e m.recs }
  let m := { m.seen r.seq with pcc := if r.opbase then r.pcc else m.pcc }
  let m := if r.typ = 0x0C then m.applyClear r.body else m
  Mirror.advance (m.ahead.length + 1) (Mirror.fit (m.recs.length + 1) size m)

/-- READ commands for a range of `cnt` records, 1,024 each (R174). -/
def Crown.readRange (fuel : Nat) (c : Crown) (k lo cnt : Nat) : Crown :=
  match fuel with
  | 0 => c
  | n + 1 =>
    if cnt = 0 then c
    else
      let x := min 1024 cnt
      Crown.readRange n (c.bulkTo k (byte 0x40 ++ zeros 3 ++ le 4 lo ++ le 4 x)) k ((lo + x) % 2 ^ 32) (cnt - x)

/-- A record of a reserved TYPE from a leaf (R7, R166, Table 7.2). -/
def RingRec.reserved (r : RingRec) : Bool := r.typ == 0 || decide (r.typ > 0x0C)

/-- MIRROR_RECORD (R171): a Ring log record of the block behind mirror `k`. A POWER_UP with SEQ 0 starts a section; a SEQ gap is asked
for; the operating seconds of a leaf's port follow (R168). A leaf's record of a reserved TYPE is passed over and counted (R7). `reply`: it
came as DATA, so it belongs to the present section. SEQs compare modulo 2^32. -/
def Crown.mirrorRecord (c : Crown) (k : Nat) (reply : Bool) (r : RingRec) : Crown :=
  let m := c.mirror k
  let leaf := k = 64 ∨ (k < 64 ∧ c.isTray)
  let m := if r.typ = 1 ∧ r.seq = 0 ∧ !reply then { m with section_ := m.section_ + 1, next := 0, top := 0, ahead := [], asked := [], holes := [] } else m
  let skip := decide leaf && r.reserved
  let c := if skip ∧ k < 64 then c.count (BZ_SAPRXk_OTHER_COUNT k) else c
  let c := if k < 64 ∧ c.isTray ∧ r.opbase ∧ !skip then c.setRetained k { c.retained k with opsec := max (c.retained k).opsec r.opsec } else c
  if seqDiff r.seq m.next < 0 ∨ m.ahead.contains r.seq then c.setMirror k m
  else
    let gap := (seqDiff r.seq m.top).toNat
    let lo := m.top
    let m := if gap > 0 then { m with asked := m.asked ++ [(lo, r.seq)] } else m
    let c := c.setMirror k (if skip then Mirror.advance (m.ahead.length + 2) (m.seen r.seq) else Mirror.store (c.mirrorSize k) m r)
    let c := Crown.readRange (gap / 1024 + 1) c k lo gap
    if reply ∧ r.typ = 1 then c.powerUpOf k (field r.body 0 1) else c

/-- A Ring log record's bytes as they came in C5 or DATA; nothing when their CRC fails. -/
def Crown.mirrorBytes (c : Crown) (k : Nat) (reply : Bool) (l : List Byte) : Crown :=
  match RingRec.parse l with
  | none => c
  | some r => c.mirrorRecord k reply r

/-- Records back to back, each of its own LEN. -/
def ringSplit (fuel : Nat) (l : List Byte) : List (List Byte) :=
  match fuel with
  | 0 => []
  | n + 1 => if l.length < 36 ∨ field l 0 2 < 36 then [] else l.take (field l 0 2) :: ringSplit n (l.drop (field l 0 2))

/-- The SEQs from one to before another. -/
def seqRange (a b : Nat) : List Nat := (List.range (seqDiff b a).toNat).map (fun i => (a + i) % 2 ^ 32)

/-- What a reply left out is gone: counted in LOST where GONE, and no longer asked for (R171). -/
def Crown.mirrorSettle (c : Crown) (k : Nat) (h : Nat × Nat × Bool) : Crown :=
  let m := c.mirror k
  let miss := (seqRange h.1 h.2.1).filter (fun s => decide (seqDiff s m.next ≥ 0) && !m.ahead.contains s)
  let c := if h.2.2 then c.inc (BZ_RLOG_MIRk_LOST_COUNT k) miss.length else c
  c.setMirror k (Mirror.advance (m.ahead.length + miss.length + 1) { m with ahead := m.ahead ++ miss, holes := m.holes.filter (· != h) })

/-- DATA (R171, R174): its records fill the mirror. A hole that an earlier DATA left ends where this one goes on, and is settled now; one that no
further DATA bounds is settled at the next MIRROR_ACK, which is no earlier than the read's last DATA (log entry 116). -/
def Crown.ringReply (c : Crown) (k : Nat) (body : List Byte) : Crown :=
  let res := field body 1 1
  let first := field body 4 4
  let c := (c.mirror k).holes.foldl (fun (c : Crown) h =>
    if seqDiff first h.1 ≥ 0 && decide (seqDiff first h.2.1 < 0) then
      let m := c.mirror k
      (c.setMirror k { m with holes := m.holes.filter (· != h) }).mirrorSettle k (h.1, first, h.2.2)
    else c) c
  let l := ringSplit body.length (body.drop 8)
  let c := l.foldl (fun (c : Crown) x => c.mirrorBytes k true x) c
  if res ≠ 1 ∧ res ≠ 3 then c
  else
    let m := c.mirror k
    let a := (first + l.length) % 2 ^ 32
    match m.asked.find? (fun x => decide (seqDiff a x.1 ≥ 0) && decide (seqDiff a x.2 < 0)) with
    | none => c
    | some x =>
      let h := (a, x.2, res == 1)
      if (a + 1) % 2 ^ 32 = x.2 then c.mirrorSettle k h else c.setMirror k { m with holes := m.holes ++ [h] }

/-- MIRROR_ACK at the crown (R171): sent for a mirror that has advanced. -/
def Crown.mirrorAckSend (c : Crown) (k : Nat) : Crown :=
  let c := (c.mirror k).holes.foldl (fun (c : Crown) h => c.mirrorSettle k h) c
  let m := c.mirror k
  if !m.moved then c
  else (c.setMirror k { m with moved := false, acked := m.next, asked := m.asked.filter (fun a => decide (seqDiff a.2 m.next > 0)) }).bulkTo k
    (byte 0x43 ++ zeros 3 ++ le 4 m.next)

/-! ### Tickets and reading (R174 to R176) -/

/-- The mirror of a target: a child's port, or the self leaf. -/
def Crown.mirrorOf (c : Crown) (node : Nat) : Option Nat :=
  if bitOf node 29 ∧ nodeLevel node = nodeLevel c.node ∧ sameNode (putBits node 29 29 0) c.node then some 64
  else if bitOf node 29 ∨ nodeLevel node + 1 ≠ nodeLevel c.node then none
  else c.portToward node

/-- The target's current PCC: retained for a leaf's port, else as its records last gave it. -/
def Crown.pccOf (c : Crown) (k : Nat) : Nat := if k < 64 ∧ c.isTray then (c.retained k).pcc else (c.mirror k).pcc

/-- The first condition of R176 that a ticket fails: 1 TVER or signature, 2 TARGET, 3 PCC, 4 HIGH_SEQ, 5 NONCE, 6 time, 7 the protected area
is full (R177); none when it is accepted. A malformed TARGET names no mirror, so the ticket is rejected as R176 says (log entry 126). -/
def Crown.ticketFails (c : Crown) (t : List Byte) : Option Nat :=
  if field t 0 1 ≠ 1 ∨ t.length ≠ 104 ∨ !Config.ed25519Verify ((c.sec 13).take 32) (t.take 40) (t.drop 40) then some 1
  else match c.mirrorOf (field t 4 4) with
    | none => some 2
    | some k =>
      let m := c.mirror k
      if field t 12 3 ≠ c.pccOf k then some 3
      else if seqDiff (field t 8 4) m.acked ≥ 0 then some 4
      else if m.nonce.any (fun n => n ≥ field t 16 8) then some 5
      else if c.toNode.now > twOf (slice t 24 16) ∨ c.toNode.tfault then some 6
      else if m.prot.length ≥ 256 then some 7
      else none

/-- A ticket's rejection in the crown's ring: its body is the failing condition, in the order of R176, under a TYPE the spec does not give (log
entry 63). -/
def Crown.logTicket (c : Crown) (cond : Nat) : Crown :=
  let (t, c) := c.draw 8
  c.log t (le 4 cond)

/-- CLEAR_TICKET (R176). -/
def Crown.clearTicket (c : Crown) (t : List Byte) : Crown :=
  match c.ticketFails t, c.mirrorOf (field t 4 4) with
  | none, some k =>
    let c := c.setMirror k { c.mirror k with nonce := some (field t 16 8) }
    let digest := (Config.sha384 t ++ zeros 16).take 16
    c.bulkTo k (byte 0x44 ++ zeros 3 ++ slice t 8 4 ++ slice t 12 3 ++ zeros 1 ++ slice t 16 8 ++ digest)
  | some x, _ => (c.count BZ_RLOG_TKT_REJ_COUNT).logTicket x
  | none, none => c

/-- MIRROR_READ (R174): answered from the mirror's present section, up to `count` records, by the crown that keeps the target's mirror, the
other root's among them; passed on toward it by the crowns above. -/
def Crown.mirrorReadTaken (c : Crown) (node first count : Nat) : Crown :=
  let other := c.role = 3 ∧ sameNode node (c.node ^^^ 2 ^ 28) ∧ !bitOf node 29
  match if other then some 65 else c.mirrorOf node with
  | none => match c.portToward node with
    | none => c
    | some p => c.bulkDown p (byte 0x45 ++ zeros 3 ++ le 4 node ++ le 4 first ++ le 4 count)
  | some k =>
    let m := c.mirror k
    let l := ((m.prot ++ m.recs).filter (fun r =>
      r.1 == m.section_ && decide (seqDiff r.2.seq first ≥ 0) && decide (seqDiff r.2.seq (first + count) < 0) && !r.2.cleared)).map (·.2)
    let l := sortBy (fun (a b : RingRec) => decide (seqDiff a.seq b.seq ≤ 0)) l
    c.sendUp (plainRec 0x0C 7 (byte 0x45 ++ zeros 3 ++ le 4 node ++ le 4 first ++ le 4 l.length ++ l.flatMap RingRec.bytes))

/-- MIRROR_READ: a malformed node word discards it (R18). -/
def Crown.mirrorRead (c : Crown) (node first count : Nat) : Crown := c.judged [node] [] (·.mirrorReadTaken node first count)

/-- READ, MIRROR_ACK and CLEAR for the crown's own ring (R172). The CLEAR record's NOT_AFTER is free (log entry 64). -/
def Crown.ownRing (c : Crown) (b : List Byte) : Crown :=
  match field b 0 1 with
  | 0x40 => (c.toNode.ringData (field b 4 4) (field b 8 4)).foldl (fun (c : Crown) x => c.bulkUp x) c
  | 0x43 => c.on (fun n => { n with ring := { n.ring with mirrored := field b 4 4 } })
  | 0x44 =>
    let (na, c) := c.draw 128
    let ticket := byte 1 ++ byte 1 ++ zeros 2 ++ le 4 c.node ++ slice b 4 4 ++ slice b 8 3 ++ zeros 1 ++ slice b 12 8 ++ le 16 na
    match c.toNode.ringClear (field b 4 4) (field b 8 3) ticket (slice b 20 16) with
    | none => c
    | some n => { c with toNode := n }
  | _ => c

/-- RLOG_READ at a crown (R173): the record into the window, with RESULT and LEN as the leaf's register gives them. -/
def Crown.rlogRead (c : Crown) (seq : Nat) : Crown :=
  let (r, e) := c.toNode.ringRead seq
  let bytes := match e with
    | none => []
    | some x => x.bytes
  let c := (c.s BZ_RLOG_RD_SEQ_SEQ seq).on (fun n => { n with ring := { n.ring with window := bytes } })
  c.on (fun n => n.setWord BZ_RLOG_RD_STAT (BitVec.ofNat 32 (r * 2 ^ 28 + bytes.length)))

/-! ### The meter relay (R396) -/

/-- The relay's state of a port. -/
def Crown.relay (c : Crown) (p : Nat) : RelayPort := c.keep.relay.get (fun _ => RelayPort.none) p

/-- It replaced. -/
def Crown.setRelay (c : Crown) (p : Nat) (r : RelayPort) : Crown := c.onKeep (fun k => { k with relay := k.relay.set (fun _ => RelayPort.none) p r })

/-- The held checkpoint as a RESTORE command through the bulk path: header of CMD 3, PLEN 240 and CTR 0, then the checkpoint (R389, R390); it
waits for firmware in basic mode (Table 17.4). -/
def Crown.relaySend (c : Crown) (p : Nat) : Crown :=
  let r := c.relay p
  match r.ckpt with
  | none => c
  | some k =>
    if c.basic && !c.fw then c.setRelay p { r with due := true }
    else
      let cmd := byte 3 ++ zeros 1 ++ le 2 240 ++ zeros 4 ++ k
      ((c.setRelay p { r with due := false }).bulkDown p (byte 0x15 ++ zeros 1 ++ le 2 cmd.length ++ cmd)).count (BZ_MTR_Pp_RESTORE_COUNT p)

/-- METER_RELAY_RESTORE (R396): a RESTORE that waits for firmware goes. -/
def Crown.relayDue (c : Crown) (p : Nat) : Crown := if (c.relay p).due && !(c.basic && !c.fw) then c.relaySend p else c

/-- The key a port's records are verified under: that of its checkpoint, or of the one just come (log entry 65). -/
def RelayPort.key (r : RelayPort) : Option (List Byte) := r.ckpt.map (fun k => slice k 24 32)

/-- A Heartwood record read in a C2 frame of a port (R396): registers, HSEQ and CHAIN, signatures, the checkpoint kept, and a POWER_UP event
of an unrestored Heartwood answered with the checkpoint. A record presented again (R386) is counted alone. -/
def Crown.relayRecord (c : Crown) (p : Nat) (body : List Byte) : Crown :=
  if !c.isTray ∨ p ≥ 64 then c
  else
    let x := body.take (field body 2 2)
    let typ := field x 0 1
    let hseq := field x 4 4
    let flags := field x 1 1
    let r := c.relay p
    let verify := c.flag BZ_MTR_CTRL_VERIFY
    let c := c.count (BZ_MTR_Pp_RECS_COUNT p)
    if hseq ≠ 0 ∧ r.hseq.any (fun h => decide (seqDiff hseq h ≤ 0)) then c
    else
    let c := ((c.s (BZ_MTR_Pp_STAT_RESTORED p) (flags % 2)).s (BZ_MTR_Pp_STAT_PCC p) (field x 13 3)).s (BZ_MTR_Pp_HSEQ_SEQ p) hseq
    let c := c.s (BZ_MTR_Pp_STAT_SEAL p) (if bitOf flags 2 then 2 else if bitOf flags 1 then 1 else 0)
    let fresh := hseq == 0
    let gap := !fresh && r.hseq.any (fun h => (h + 1) % 2 ^ 32 != hseq)
    let c := if verify && gap then c.count (BZ_MTR_Pp_GAP_COUNT p) else c
    let r := if fresh then { r with chain := some (zeros 64), open_ := [] } else if gap then { r with chain := none, open_ := [] } else r
    let r := { r with hseq := some hseq }
    match typ with
    | 4 =>
      let chain := slice x 36 64
      let want := r.chain.map (fun k => (Config.sha512 (k ++ r.open_.flatten) ++ zeros 64).take 64)
      let c := if verify && want.any (fun w => w != chain) then c.count (BZ_MTR_Pp_GAP_COUNT p) else c
      let bad := r.key.any (fun k => !Config.ed25519Verify k (x.take 100) (slice x 100 64))
      let c := if verify && bad then c.count (BZ_MTR_Pp_BADSIG_COUNT p) else c
      c.setRelay p { r with chain := some chain, open_ := [] }
    | 5 =>
      let ok := Config.ed25519Verify (slice x 24 32) (x.take 176) (slice x 176 64)
      let r := { r with open_ := r.open_ ++ [x] }
      if ok then (c.setRelay p { r with ckpt := some (x.take 240) }).s (BZ_MTR_Pp_STAT_CKPT p) 1
      else if verify then (c.setRelay p r).count (BZ_MTR_Pp_BADSIG_COUNT p) else c.setRelay p r
    | 3 =>
      let c := c.setRelay p { r with open_ := r.open_ ++ [x] }
      if field x 24 1 = 1 ∧ !bitOf flags 0 ∧ c.flag BZ_MTR_CTRL_RESTORE_EN then c.relaySend p else c
    | _ => c.setRelay p { r with open_ := r.open_ ++ [x] }

/-- Firmware runs again: what waited for it is sent (Table 17.4). -/
def Crown.keepFlush (c : Crown) : Crown :=
  (List.range 64).foldl (fun (c : Crown) p => (if (c.retained p).due then c.sendRestore p else c).relayDue p) c

end Sys2Proof.Machine
end

