-- ==== Sys2Proof/Machine/Traffic.lean ====
section
/-! DEFINITION. A crown's egress scheduler, re-homing and the active root (spec/09_reduction_traffic.md R229 to R237;
spec/01_canopy.md R29, R30; spec/06_sap_streams.md R145 to R147 in the Bazaim profile). -/

namespace Sys2Proof.Machine

/-! ### Queues (R230, R235 to R237) -/

/-- The egress share of a lane (R235). -/
def laneShare (l : Nat) : Nat := if l ≥ 64 then 1048576 else 65536

/-- The bytes queued for a lane, every class. -/
def Node.laneFill (n : Node) (l : Nat) : Nat := (List.range 8).foldl (fun a q => a + (n.q (l * 8 + q)).fill) 0

/-- The accounted length of a frame on a lane (R230). -/
def Crown.accounted (c : Crown) (l : Nat) (f : Frame) : Nat := f.len + c.g (BZ_SCHl_CTRL_OVH l)

/-- What a weighted class's LOSS record will say of a discarded frame (R236, R159): how many records and body bytes it held and the stamps of
the first and the last are not stated for a frame: free values (log entry 87). -/
def Crown.dropLoss (c : Crown) (l q : Nat) : Crown :=
  let (n, c) := c.draw 12
  let (b, c) := c.draw 13
  let (t, c) := c.draw 96
  c.on (fun x => x.setQ (l * 8 + q) ((x.q (l * 8 + q)).lost t 0 n b 0))

/-- A frame discarded at egress, counted (R236, R237). -/
def Crown.dropCount (c : Crown) (l q : Nat) : Crown :=
  let c := c.count (BZ_SCHl_Qq_DROP_COUNT l q)
  if q < 3 then c else c.dropLoss l q

/-- The weighted queue of a lane whose newest frame is the newest of all. -/
def Node.newestWeighted (n : Node) (l : Nat) : Option Nat :=
  ([3, 4, 5, 6, 7].foldl (fun (a : Option (Nat × Nat)) q =>
    match (n.q (l * 8 + q)).frames.getLast?, a with
    | none, a => a
    | some f, none => some (q, f.at_)
    | some f, some (p, t) => if f.at_ ≥ t then some (q, f.at_) else some (p, t)) none).map (·.1)

/-- Newest weighted frames of the lane discarded until `need` more bytes fit its share (R237). -/
def Crown.makeRoom (fuel : Nat) (c : Crown) (l need : Nat) : Crown :=
  match fuel with
  | 0 => c
  | m + 1 =>
    if c.toNode.laneFill l + need ≤ laneShare l then c
    else match c.toNode.newestWeighted l with
      | none => c
      | some q =>
        let k := l * 8 + q
        Crown.makeRoom m ((c.on (fun n => n.setQ k { n.q k with frames := (n.q k).frames.dropLast })).dropCount l q) l need

/-- A frame into the queue of its class on a lane (R229, R235 to R237): a strict frame always, a weighted one when it fits. -/
def Crown.enqueue (c : Crown) (l : Nat) (f : Frame) (own : Bool) : Crown :=
  let k := l * 8 + f.cls
  let c := if f.cls < 3 then c.makeRoom 16384 l f.len else c
  if f.cls ≥ 3 ∧ !own ∧ c.toNode.laneFill l + f.len > laneShare l then c.dropCount l f.cls
  else c.on (fun n => (n.setQ k { n.q k with frames := (n.q k).frames ++ [⟨f, n.now, own⟩] }).watchFill k)

/-- A frame forwarded whole toward the root, or out at the top's host interface (R26, R150, R229). -/
def Crown.forwardUp (c : Crown) (f : Frame) : Crown :=
  let c := if c.exitHere then c.emit (.word "host" f.bytes) else c
  if c.top then c else (c.toNode.upLanes f.cls).foldl (fun (c : Crown) l => c.enqueue l f false) c

/-- A frame that the class has closed, be it for a time message, enters its egress queue. -/
def Crown.settle (c : Crown) (l cls : Nat) : Crown :=
  let k := l * 8 + cls
  match (c.toNode.q k).closed with
  | none => c
  | some f => (c.on (fun n => n.setQ k { n.q k with closed := none })).enqueue l f true

/-- FRAME_CLOSE at a crown (R144): the class's own frame closes and enters its egress queue. -/
def Crown.closeFrame (c : Crown) (l cls : Nat) (force : Bool) : Crown :=
  let k := l * 8 + cls
  (c.on (·.closeFrame k force)).settle l cls

/-! ### Gates (R232, R233) -/

/-- Whether gate `q` is open at every instant of `len` units from position `pos` of a list on (R232). -/
def listOpen (fuel : Nat) (entry : Nat → Nat) (n q i pos len : Nat) : Bool :=
  match fuel with
  | 0 => false
  | m + 1 =>
    let w := entry i
    let iv := w % 2 ^ 24 * fracPerNs
    if len = 0 then true
    else if pos ≥ iv then listOpen m entry n q (if i + 1 ≥ n then 0 else i + 1) (pos - iv) len
    else if !bitOf w (24 + q - 3) then false
    else if len ≤ iv - pos then true
    else listOpen m entry n q (if i + 1 ≥ n then 0 else i + 1) 0 (len - (iv - pos))

/-- CYCLE of a list in ns. -/
def cycleOf (entry : Nat → Nat) (n : Nat) : Nat := (List.range n).foldl (fun a i => a + entry i % 2 ^ 24) 0

/-- The gates of a lane. -/
def Crown.gates (c : Crown) (l : Nat) : Gates := c.red.gates.get (fun _ => Gates.reset) l

/-- A change to the gates of a lane. -/
def Crown.setGates (c : Crown) (l : Nat) (g : Gates) : Crown := c.onRed (fun r => { r with gates := r.gates.set (fun _ => Gates.reset) l g })

/-- The active list and the pending list: entries and length. -/
def Crown.activeList (c : Crown) (l : Nat) : (Nat → Nat) × Nat :=
  let g := c.gates l
  if c.flag (BZ_SCHl_GATE_CTRL_ACTIVE l) then (g.b.get (fun _ => 0), g.lenB) else (g.a.get (fun _ => 0), g.lenA)

/-- The pending list. -/
def Crown.pendingList (c : Crown) (l : Nat) : Nat → Nat :=
  let g := c.gates l
  if c.flag (BZ_SCHl_GATE_CTRL_ACTIVE l) then g.a.get (fun _ => 0) else g.b.get (fun _ => 0)

/-- Gates act on the lane: GATE_EN, and the step or FREE_RUN_OK (R232, R233). -/
def Crown.gated (c : Crown) (l : Nat) : Bool :=
  c.flag (BZ_SCHl_CTRL_GATE_EN l) && (c.toNode.stepped || c.flag (BZ_SCHl_CTRL_FREE_RUN_OK l))

/-- Whether a list that starts at `start` holds gate `q` open for `len` units from `t` on. -/
def openFrom (entry : Nat → Nat) (n q start t len : Nat) : Bool :=
  let cyc := cycleOf entry n * fracPerNs
  listOpen 4096 entry n q 0 (if t ≥ start then (t - start) % cyc else (cyc - (start - t) % cyc) % cyc) len

/-- A weighted frame of queue `q` may start now under the gates (R232). A list that has never been taken over and has no
interval leaves the gate's state open: `fr` is a free value (log entry 30). -/
def Crown.gateAdmits (c : Crown) (l q : Nat) (f : Frame) (fr : Nat) : Bool :=
  if !c.gated l then true
  else
    let (entry, n) := c.activeList l
    let g := c.gates l
    let r := payRate (c.toNode.laneMode l)
    let tx := (if r = 0 then 0 else ceilDiv (c.accounted l f * 800) r) * fracPerNs
    let t := c.toNode.now
    if cycleOf entry n = 0 then bitOf fr q
    else match g.pend with
      | none => openFrom entry n q g.takeover t tx
      | some p =>
        if t + tx ≤ p then openFrom entry n q g.takeover t tx
        else openFrom entry n q g.takeover t (p - t) && openFrom (c.pendingList l) g.pendLen q p (max p t) (t + tx - max p t)

/-- The time word that the TAKE registers spell. -/
def Crown.takeTime (c : Crown) (l : Nat) : Nat :=
  ((c.g (BZ_SCHl_TAKE_SHI_SEC_HI l) * 2 ^ 32 + c.g (BZ_SCHl_TAKE_SLO_SEC_LO l)) * nsPerSec + c.g (BZ_SCHl_TAKE_NS_NSEC l)) * fracPerNs

/-- GATE_TAKEOVER (R233): the pending list becomes active at TAKEOVER. -/
def Crown.gateTakeover (c : Crown) (l : Nat) : Crown :=
  let g := c.gates l
  match g.pend with
  | none => c
  | some p =>
    if c.toNode.now < p ∨ !(c.toNode.stepped || c.flag (BZ_SCHl_CTRL_FREE_RUN_OK l)) then c
    else
      let wasB := c.flag (BZ_SCHl_GATE_CTRL_ACTIVE l)
      let g := { g with takeover := p, pend := none, lenA := if wasB then g.pendLen else g.lenA, lenB := if wasB then g.lenB else g.pendLen }
      let c := ((c.setGates l g).s (BZ_SCHl_GATE_CTRL_ACTIVE l) (b2n !wasB)).s (BZ_SCHl_GATE_CTRL_PEND l) 0
      let (entry, n) := c.activeList l
      c.s (BZ_SCHl_CYCLE_NS l) (cycleOf entry n % 2 ^ 32)

/-- GO (R232, R233): schedules a take-over, or sets ERR. A GO in the cycle of a take-over comes after it and sets ERR. -/
def Crown.gateGo (c : Crown) (l : Nat) : Crown :=
  let due := match (c.gates l).pend with
    | some p => decide (p ≤ c.toNode.now) && (c.toNode.stepped || c.flag (BZ_SCHl_CTRL_FREE_RUN_OK l))
    | none => false
  if due then (c.gateTakeover l).s (BZ_SCHl_GATE_CTRL_ERR l) 1
  else
    let len := c.g (BZ_SCHl_GATE_CTRL_LEN l)
    let t := c.takeTime l
    let zero := (List.range len).any (fun i => c.pendingList l i % 2 ^ 24 == 0)
    if t < c.toNode.now + usTime 10 ∨ len = 0 ∨ len > 256 ∨ zero then c.s (BZ_SCHl_GATE_CTRL_ERR l) 1
    else (c.setGates l { c.gates l with pend := some t, pendLen := len }).s (BZ_SCHl_GATE_CTRL_PEND l) 1

/-- A write of GATE_DATA (R233): an entry of the pending list. GATE_ADDR names no list, so no write can be aimed at the active one. -/
def Crown.gateData (c : Crown) (l v : Nat) : Crown :=
  let i := c.g (BZ_SCHl_GATE_ADDR_ENTRY l)
  let g := c.gates l
  let g := if c.flag (BZ_SCHl_GATE_CTRL_ACTIVE l) then { g with a := g.a.set (fun _ => 0) i v } else { g with b := g.b.set (fun _ => 0) i v }
  let c := (c.setGates l g).s ⟨BZ_SCHl_GATE_DATA l, 31, 0⟩ v
  if c.flag (BZ_SCHl_GATE_ADDR_AUTOINC l) then c.s (BZ_SCHl_GATE_ADDR_ENTRY l) ((i + 1) % 256) else c

/-! ### Shapers (R231) -/

/-- A shaper. -/
def Crown.shaper (c : Crown) (l q : Nat) : Shaper := c.red.shapers.get (fun _ => Shaper.reset) (l * 8 + q)

/-- A shaper replaced, with its TOKENS register. -/
def Crown.setShaper (c : Crown) (l q : Nat) (x : Shaper) : Crown :=
  (c.onRed (fun r => { r with shapers := r.shapers.set (fun _ => Shaper.reset) (l * 8 + q) x })).s (BZ_SCHl_Qq_TOKENS_TOKENS l q)
    (unsgn 32 (x.tokens / 256))

/-- One queue's refill: the shadow's values, RATE / 256 tokens, the cap at BURST. Tokens are kept in 2^-8 bytes. -/
def Shaper.refill (x : Shaper) (en : Bool) (rate burst : Nat) : Shaper :=
  { x with en := en, rate := rate, burst := burst, tokens := if en then min (x.tokens + rate) (burst * 256 : Nat) else 0 }

/-- SHAPER_REFILL (R231): every weighted queue of every lane. -/
def Crown.shaperRefill (c : Crown) : Crown :=
  (List.range 72).foldl (fun (c : Crown) l => [3, 4, 5, 6, 7].foldl (fun (c : Crown) q =>
    let x := c.shaper l q
    let y := x.refill (c.flag (BZ_SCHl_Qq_SHAPE_SH_EN l q)) (c.g (BZ_SCHl_Qq_SHAPE_RATE l q)) (c.g (BZ_SCHl_Qq_BURST_BURST l q))
    if x = y then c else c.setShaper l q y) c) c

/-- A frame's accounted length leaves its queue's tokens. -/
def Crown.takeTokens (c : Crown) (l q len : Nat) : Crown :=
  let x := c.shaper l q
  if !x.en then c
  else c.setShaper l q { x with tokens := x.tokens - (len * 256 : Nat) }

/-! ### Choosing a frame (R145, R230) -/

/-- A weighted queue is eligible: it holds a frame, its tokens and its gate lets it go. -/
def Crown.eligible (c : Crown) (l q fr : Nat) : Bool :=
  match (c.toNode.q (l * 8 + q)).frames with
  | [] => false
  | f :: _ => (!(c.shaper l q).en || decide ((c.shaper l q).tokens ≥ 0)) && c.gateAdmits l q f.frame fr
      && !(decide (l = c.toNode.weightLane) && decide (c.ns < c.red.flex.holdUntil))

/-- Deficit round robin over accounted lengths (R145, R230): an ineligible queue that holds frames keeps its deficit and gets no
quantum. `turn` as in the leaf's packer. -/
def egressDrr (fuel : Nat) (n : Node) (l ovh : Nat) (may : Nat → Bool) (turn : Nat) : Option (Nat × Nat × Node) :=
  match fuel with
  | 0 => none
  | m + 1 =>
    let cls := turn / 2
    let k := l * 8 + cls
    let c := n.q k
    let next := if cls ≥ 7 then 6 else 2 * (cls + 1)
    match c.frames with
    | [] =>
      let n := if c.deficit != 0 then n.setQ k { c with deficit := 0 } else n
      egressDrr m n l ovh may next
    | f :: _ =>
      if !may cls then egressDrr m n l ovh may next
      else
        let d := if turn % 2 = 0 then c.deficit + 64 * n.weight k else c.deficit
        let n := n.setQ k { c with deficit := d }
        if f.frame.len + ovh ≤ d then some (cls, 2 * cls + 1, n.setQ k { c with deficit := d - (f.frame.len + ovh) })
        else egressDrr m n l ovh may next

/-- The head frame of a class leaves on its lane: own frames with ALIVE and BOOT of this moment; strict ones are kept for replay
(R145 to R147). -/
def Crown.sendHead (c : Crown) (l q : Nat) : Crown :=
  let k := l * 8 + q
  match (c.toNode.q k).frames with
  | [] => c
  | e :: r =>
    let f := if e.own then { e.frame with alive := c.toNode.alive, boot := c.toNode.boot } else e.frame
    let c := c.on (fun n =>
      let x := n.q k
      let n := n.setQ k { x with frames := r, sentNow := x.sentNow || e.own, deficit := if r.isEmpty then 0 else x.deficit }
      (((n.keepFrame k f).watchFill k).letIn k).handOver l f)
    let c := (c.count (BZ_SCHl_Qq_FRAMES_COUNT l q)).takeTokens l q (c.accounted l f)
    if q ≥ 3 ∧ l = c.toNode.weightLane then c.onRed (fun x => { x with upBytes := x.upBytes + f.len }) else c

/-- A due heartbeat leaves: SEQ and ROFF of the next own data frame (R146). -/
def Crown.sendHb (c : Crown) (l q : Nat) : Crown :=
  let k := l * 8 + q
  let x := c.toNode.q k
  let (seq, roff) := match x.frames.find? (·.own) with
    | some e => (e.frame.seq, e.frame.roff)
    | none => (x.seq, x.roff)
  let f : Frame :=
    { format := 2, cls := q, comp := false, hb := true, replay := false, lossIn := false, spare := false, src := c.toNode.src, seq := seq,
      alive := 0, boot := 0, roff := roff, rlen := 0, foff := 0xFFFF, payload := [] }
  ((c.on (fun n => (n.setQ k { n.q k with hbDue := false }).sendFrame l f)).count (BZ_SCHl_Qq_FRAMES_COUNT l q)).takeTokens l q (c.accounted l f)

/-- A replayed strict frame leaves (R147). -/
def Crown.sendStored (c : Crown) (l q : Nat) (f : Frame) (rest : List Frame) : Crown :=
  (c.on (·.sendReplay (l * 8 + q) l f rest)).count (BZ_SCHl_Qq_FRAMES_COUNT l q)

/-- FRAME_SELECT at a crown (R145, R230): the choice at a frame boundary of a lane. -/
def Crown.selectFrame (c : Crown) (l : Nat) : Crown :=
  let c := (c.on (fun n => [0, 1, 2].foldl (fun (n : Node) i => n.replayOn l i) n)).settle l 1
  let q := fun i => c.toNode.q (l * 8 + i)
  let ready := fun i => !(q i).frames.isEmpty || !(q i).replay.isEmpty
  let send := fun (c : Crown) (i : Nat) => match (q i).replay with
    | f :: r => c.sendStored l i f r
    | [] => c.sendHead l i
  if !c.toNode.up l then c
  else if ready 0 then send c 0
  else match lowest 8 (fun i => (q i).hbDue) with
    | some i => c.sendHb l i
    | none =>
      if ready 1 then send c 1
      else if ready 2 then send c 2
      else
        let fr := Config.free c.fresh
        match egressDrr 4096 c.toNode l (c.g (BZ_SCHl_CTRL_OVH l)) (fun i => c.eligible l i fr) (max 6 (c.turn.get (fun _ => 6) l)) with
        | none => c.on (fun n => { n with fresh := n.fresh + 1 })
        | some (i, t, n) =>
          let c : Crown := { c with toNode := { n with fresh := n.fresh + 1, turn := n.turn.set (fun _ => 6) l t } }
          c.sendHead l i

/-! ### Samples (R234) -/

/-- DEPTH and DELAY of a queue now. -/
def Crown.queueLook (c : Crown) (l q : Nat) : Nat × Nat :=
  let x := c.toNode.q (l * 8 + q)
  let depth := x.frames.foldl (fun a e => a + e.frame.len) 0
  (depth, match x.frames with
    | [] => 0
    | e :: _ => (c.toNode.now - e.at_) / fracPerNs)

/-- QUEUE_SAMPLE (R234): every queue of every lane. An empty queue adds 0 to its sums. -/
def Crown.queueSample (c : Crown) : Crown :=
  let c := c.onRed (fun r => { r with nsamp := (r.nsamp + 1) % 2 ^ 32 })
  (List.range 72).foldl (fun (c : Crown) l => (List.range 8).foldl (fun (c : Crown) q =>
    let (d, t) := c.queueLook l q
    if d = 0 ∧ c.g (BZ_SCHl_Qq_DEPTH_BYTES l q) = 0 ∧ c.g (BZ_SCHl_Qq_DELAY_NS l q) = 0 then c
    else
      let t32 := min t (2 ^ 32 - 1)
      let x := c.shaper l q
      let c := c.setShaper l q { x with sumDep := (x.sumDep + d) % 2 ^ 64, sumDly := (x.sumDly + t) % 2 ^ 64 }
      (((c.s (BZ_SCHl_Qq_DEPTH_BYTES l q) d).s (BZ_SCHl_Qq_DELAY_NS l q) t32).s (BZ_SCHl_Qq_MAXDEP_BYTES l q)
        (max d (c.g (BZ_SCHl_Qq_MAXDEP_BYTES l q)))).s (BZ_SCHl_Qq_MAXDLY_NS l q) (max t32 (c.g (BZ_SCHl_Qq_MAXDLY_NS l q)))) c) c

/-- NSAMP_READ (R234): the sums of the same sample are latched. -/
def Crown.nsampRead (c : Crown) (l q : Nat) : Crown :=
  let x := c.shaper l q
  (((c.s (BZ_SCHl_Qq_SUMDEP_LO_SUM_LO l q) (x.sumDep % 2 ^ 32)).s (BZ_SCHl_Qq_SUMDEP_HI_SUM_HI l q) (x.sumDep / 2 ^ 32)).s
    (BZ_SCHl_Qq_SUMDLY_LO_SUM_LO l q) (x.sumDly % 2 ^ 32)).s (BZ_SCHl_Qq_SUMDLY_HI_SUM_HI l q) (x.sumDly / 2 ^ 32)

/-- STRICT_DISCARD (R237): no lane toward the root in service, a flex lane among them, and the strict queues over the share: the oldest frame of C1, then
C0, then C2, goes. -/
def Crown.strictDiscard (c : Crown) (l : Nat) : Crown :=
  if c.toNode.up c.upLane ∨ c.upInService ∨ c.flexLane.any c.toNode.up ∨ l ≠ c.upLane ∨ c.toNode.laneFill l ≤ laneShare l then c
  else match [1, 0, 2].find? (fun q => !(c.toNode.q (l * 8 + q)).frames.isEmpty) with
    | none => c
    | some q => (c.on (fun n => n.setQ (l * 8 + q) { n.q (l * 8 + q) with frames := (n.q (l * 8 + q)).frames.drop 1 })).dropCount l q

/-! ### Re-homing and the active root (R29, R30) -/

/-- Follows whether any up lane is in service (R29). -/
def Crown.watchUp (c : Crown) : Crown :=
  c.onRed (fun r => { r with noUpSince := if c.upInService then none else some (r.noUpSince.getD c.ns) })

/-- No up lane has been in service for 1 ms (R29). -/
def Crown.cutOff (c : Crown) : Bool := match c.red.noUpSince with
  | none => false
  | some t => decide (t + 1000000 ≤ c.ns)

/-- The peer lanes toward neighbour 1 (p + 1) or 2 (p - 1). -/
def peerLanes (nb : Nat) : List Nat := if nb = 1 then [66, 67] else [68, 69]

/-- A neighbour can carry the traffic: a peer lane to it is in service and the last KEEPALIVE received on those lanes had NO_UP = 0 (R29). -/
def Crown.able (c : Crown) (nb : Nat) : Bool :=
  let heard := ((peerLanes nb).filter c.toNode.up).filterMap (fun k => (c.toNode.lane k).kaHeard.map (fun t => (t, (c.toNode.lane k).farNoUp)))
  heard.any (fun x => !x.2 && heard.all (fun y => decide (y.1 ≤ x.1)))

/-- The lane to a neighbour. -/
def Crown.laneTo (c : Crown) (nb : Nat) : Nat := ((peerLanes nb).find? (fun k => c.toNode.up k)).getD 66

/-- Every class moves from its lane to another: frames and queues with it; strict classes resend their stores (R29, R147). -/
def Crown.moveAll (c : Crown) (dst : Nat) : Crown :=
  let src := c.upLane
  if src = dst then c
  else
    let c := if c.flexLane.isNone then c.moveWeighted src dst else c
    let c := [0, 1, 2].foldl (fun (c : Crown) k => c.on (fun n =>
      let a := n.q (src * 8 + k)
      let b := n.q (dst * 8 + k)
      ((n.setQ (dst * 8 + k) { a with frames := b.frames ++ a.frames, queue := b.queue ++ a.queue, waits := b.waits ++ a.waits }).setQ (src * 8 + k) ClassQ.empty).startReplay
        (dst * 8 + k) dst)) c
    c.on (fun n => { n with upLane := dst })

/-- Where a crown that has re-homed sends its upward traffic (R29): p + 1 where it stays able or has been able for 10 ms, else the neighbour in
use, else one that is able; with none able it waits in the queues of an up lane. Within a neighbour its traffic takes a lane in service. A flex
lane in service carries it in place of a peer lane (R228), and the neighbour is then its time parent alone. -/
def Crown.rehomeChoice (c : Crown) : Crown :=
  let c := c.onRed (fun r => { r with ableSince := if c.able 1 then some (r.ableSince.getD c.ns) else none })
  if !c.red.rehomed ∨ c.upInService then c
  else
    let long := match c.red.ableSince with
      | none => false
      | some t => decide (t + 10000000 ≤ c.ns)
    let nb := if c.red.neighbour = 2 ∧ c.able 2 ∧ !long then 2 else if c.able 1 then 1 else if c.able 2 then 2 else 0
    let dst := if let some k := c.flexLane then k else if nb = 0 then 64 else if nb = c.red.neighbour ∧ c.toNode.up c.upLane then c.upLane else c.laneTo nb
    (c.moveAll dst).onRed (fun r => { r with neighbour := nb })

/-- A root is disciplined by PPS (R48, R50, R51): root 0, root 1 while it is active, and a SOLO crown that has seen an edge. -/
def Crown.byPps (c : Crown) : Bool := (c.role == 3 && (!c.bring.boot.root1 || c.red.active)) || (c.role == 0 && c.time.edgeAt.isSome)

/-- The far end's last KEEPALIVE on a lane in service claimed the active root (R30, R191). -/
def Crown.claims (c : Crown) (k : Nat) : Bool :=
  c.toNode.up k && (c.toNode.lane k).kaHeard.isSome && (c.toNode.lane k).rootAt == (c.toNode.lane k).kaHeard

/-- A pod crown's up lane to the active root; root 0 where both claim (R30). -/
def Crown.rootLane (c : Crown) : Nat := if c.claims 64 then 64 else if c.claims 65 then 65 else c.upLane

/-- The lane of the time parent (R41); 0x7F none or PPS. -/
def Crown.timeLane (c : Crown) : Nat :=
  match c.role with
  | 1 => if c.red.neighbour ≠ 0 then (if (peerLanes c.red.neighbour).contains c.upLane then c.upLane else c.laneTo c.red.neighbour) else if c.toNode.up 64 then 64 else if c.toNode.up 65 then 65 else c.time.parent
  | 2 => c.rootLane
  | 3 => if c.byPps then 0x7F else ([66, 67, 68, 69].find? c.toNode.up).getD c.time.parent
  | _ => 0x7F

/-- Without an up lane in service the strict classes take the flex lane that carries the weighted ones (R228). -/
def Crown.strictFlex (c : Crown) : Crown := match c.flexLane with
  | some k => if c.upInService then c else c.moveAll k
  | none => c

/-- The time parent follows R41; upward traffic takes a tray crown's up lane in service, the lower where both are, and a pod crown's
lane to the active root (log entry 84). Root 1 is active no more once root 0 claims to be (R30, R50; log entry 90). -/
def Crown.followUp (c : Crown) : Crown :=
  let c := if c.bring.boot.root1 ∧ c.red.active ∧ [66, 67, 68, 69].any c.claims then c.onRed (fun r => { r with active := false }) else c
  let c := match c.role with
    | 1 =>
      if c.red.neighbour = 0 ∧ c.upInService then c.moveAll (if c.toNode.up 64 then 64 else 65)
      else
        let c := if c.upLane ≥ 70 ∧ c.flexLane.isNone then c.moveAll 64 else c
        c.rehomeChoice.strictFlex
    | 2 =>
      let k := if c.upLane ≥ 70 ∧ !c.claims 64 ∧ !c.claims 65 then 64 else c.rootLane
      if c.flexLane.isSome ∧ !c.upInService then c.strictFlex
      else if c.upLane ≥ 70 then c.moveAll k else c.on (fun n => { n with upLane := k })
    | _ => c
  c.on (·.reparent c.timeLane)

/-- REHOME_START (R29): a tray crown without an up lane for 1 ms re-homes. -/
def Crown.rehomeStart (c : Crown) : Crown :=
  if nodeLevel c.node ≠ 1 ∨ c.role ≠ 1 ∨ !c.cutOff then c else (c.onRed (fun r => { r with rehomed := true })).rehomeChoice

/-- REHOME_RETURN (R29): to the up lanes once one is in service; else the choice is made again. -/
def Crown.rehomeReturn (c : Crown) : Crown :=
  if !c.red.rehomed then c
  else if c.upInService then (c.moveAll (if c.toNode.up 64 then 64 else 65)).onRed (fun r => { r with neighbour := 0, rehomed := false })
  else c.rehomeChoice

/-- ROOT1_ACTIVATE (R30): no keep-alive from root 0 on a root peer lane for 1 ms, and a pod crown that reports the same. -/
def Crown.root1Activate (c : Crown) : Crown :=
  let quiet := [66, 67, 68, 69].all (fun k => match (c.toNode.lane k).kaHeard with
    | none => decide (1000000 ≤ c.ns)
    | some t => decide (t + 1000000 ≤ c.ns))
  if c.role = 3 ∧ bitOf c.node 28 ∧ quiet ∧ (List.range 64).any (fun k => c.toNode.up k && (c.toNode.lane k).farAbsent)
  then c.onRed (fun r => { r with active := true }) else c

/-- The path bits of a KEEPALIVE on a lane: ACTIVE_ROOT, ROOT0_ABSENT, NO_UP (R191). -/
def Crown.pathBits (c : Crown) (k : Nat) : Bool × Bool × Bool :=
  let absent := c.role == 2 && k == 65 && (match (c.toNode.lane 64).rootAt with
    | none => decide (1000000 ≤ c.ns)
    | some t => decide (t + 1000000 ≤ c.ns))
  (c.activeRoot, absent, !c.upInService)

end Sys2Proof.Machine
end

