-- ==== Sys2Proof/Machine/Modes.lean ====
section
/-! DEFINITION. A crown's control mode, overload state and rehearsal scheduler (spec/17_modes_degraded.md R428 to R442). -/

namespace Sys2Proof.Machine

/-- A change to the modes. -/
def Crown.onModes (c : Crown) (f : Modes → Modes) : Crown := { c with bring := { c.bring with modes := f c.bring.modes } }

/-- A change to the clocks. -/
def Crown.onClk (c : Crown) (f : Clocks → Clocks) : Crown := { c with bring := { c.bring with clk := f c.bring.clk } }

/-- A change to the host interface. -/
def Crown.onHost (c : Crown) (f : HostIf → HostIf) : Crown := { c with bring := { c.bring with host := f c.bring.host } }

/-! ### Records (R414, R442) -/

/-- A BOOT record in C5 (R414): TYPE and its 12-byte body. -/
def Crown.bootRec (c : Crown) (typ : Nat) (body : List Byte) : Crown :=
  c.sendUp (c.stampedRec 0x12 5 (byte typ ++ byte c.toNode.qual.code ++ zeros 2 ++ le 4 c.node ++ body) (some (17, 0)))

/-- READY (R414): PHASE flags are the word of BZ_BOOT_STAT (log entry 68). -/
def Crown.readyRec (c : Crown) : Crown :=
  c.bootRec 0x70 (le 4 (c.toNode.word BZ_BOOT_STAT).toNat ++ le 4 (c.g BZ_BOOT_TIME_US) ++ le 4 (c.g BZ_SEED_GEN_GEN))

/-- A MODE record in the crown's ring (R442). -/
def Crown.modeRec (c : Crown) (old new cause : Nat) : Crown :=
  c.log 0x21 (byte old ++ byte new ++ byte cause ++ zeros 1 ++ le 4 (c.g BZ_SEED_GEN_GEN))

/-! ### Rehearsals (R438 to R442) -/

/-- The rehearsal's end: its record (R442) and its registers. -/
def Crown.rhEnd (c : Crown) (r : Rehearsal) (result us : Nat) : Crown :=
  let c := c.log 0x20 (byte r.kind ++ byte result ++ byte r.target ++ byte r.unit_ ++ le 4 us)
  (c.onModes (fun m => { m with rh := none })).s BZ_RH_STAT_RUNNING 0

/-- Microseconds since a rehearsal started. -/
def Crown.rhUs (c : Crown) (r : Rehearsal) : Nat := (c.ns - r.at_) / 1000

/-- A Burl of the rehearsal path (R441): WP_ID 0xFFFF, DET 7, SEV 3; TYPE 0x40 ONSET or 0x41 CLEAR. -/
def Crown.rhBurl (c : Crown) (r : Rehearsal) (typ : Nat) : Crown :=
  let n := (c.g BZ_BURL_SEQ_SEQ + 1) % 2 ^ 32
  let c := c.s BZ_BURL_SEQ_SEQ n
  let key := if r.kind = 1 ∧ r.target ≥ 64 then c.node else c.portWord (if r.kind = 1 then (c.port r.target).num else r.target)
  let value := f32Of (fNat (c.rhUs r / 1000))
  let body := twBytes c.toNode.now ++ byte typ ++ byte (c.toNode.qual.code + 4 * 7) ++ byte 3 ++ byte (if r.kind = 2 then r.unit_ else 0xFF) ++ le 4 c.node
    ++ le 4 c.node ++ le 4 n ++ le 2 0xFFFF ++ le 2 r.kind ++ le 4 0 ++ le 4 key ++ le 4 0 ++ le 4 value ++ le 4 0 ++ le 4 0 ++ le 2 0 ++ le 2 0
  (c.groveBurl body).burlUp body

/-- A port's die may be a target (R439). -/
def Crown.rhDie (c : Crown) (p : Nat) : Bool :=
  let d := c.die p
  d.pstate == 0 && d.grade == 3 && d.timeOk && !c.carriesRadio p

/-- A watch unit's CTRL after a leaf's list. -/
def unitCtrl (l : List (Nat × Nat)) (w : Nat) : Nat := l.foldl (fun a e => if e.1 = TZ_WUw_CTRL w then e.2 else a) (resetOf leafTable (TZ_WUw_CTRL w)).toNat

/-- The unit a GUARD rehearsal injects (Table 17.6): the lowest enabled one of the leaf's list whose actions are each RECORD or THROTTLE. -/
def Crown.rhUnit (c : Crown) (p : Nat) : Option Nat :=
  let l := leafList c.image (c.port p).list
  let mild := fun a => a == 0 || a == 1 || decide (a > 4)
  lowest 32 (fun w =>
    let v := unitCtrl l w
    bitOf v 31 && mild (bitsOf v 14 12) && mild (bitsOf v 11 9))

/-- The guard of a unit under a leaf's list. -/
def Crown.rhGuard (c : Crown) (p w : Nat) : Nat := bitsOf (unitCtrl (leafList c.image (c.port p).list) w) 17 15

/-- The lane that backs a lane of a redundant pair (R439); none for a lane of no pair. -/
def Crown.rhPartner (c : Crown) (k : Nat) : Option Nat :=
  if k = 64 then some 65 else if k = 65 then some 64
  else if k = 66 ∨ k = 68 then some (k + 1) else if k = 67 ∨ k = 69 then some (k - 1)
  else if k < 64 ∧ (c.port k).kind = 3 then some (c.port k).num else none

/-- A lane may be a LANE target (R439). -/
def Crown.rhLane (c : Crown) (k : Nat) : Bool :=
  match c.rhPartner k with
  | none => false
  | some p =>
    c.toNode.up p
      && (if k = 64 ∨ k = 65 then c.g BZ_TIME_SRC_LANE != k
          else if k ≥ 66 then
            (c.red.neighbour == 0 || !(c.upLane == k || c.upLane == p)) && !(c.toNode.lane k).farNoUp && !(c.toNode.lane p).farNoUp
          else c.rhDie p)

/-- The engine an AUDIT rehearsal names: the lowest declared tenant engine of the port that is IDLE. -/
def Crown.rhEngine (c : Crown) (p : Nat) : Option Nat :=
  lowest 256 (fun e => (c.engineDecl p e).any (fun d => !bitOf (field d 2 1) 1) && (c.audEng p e).state == 0)

/-- A target of a kind is eligible (R439). -/
def Crown.rhEligible (c : Crown) (kind t : Nat) : Bool :=
  !c.basic && c.g BZ_MODE_STAT_OVL != 2
    && (match kind with
        | 0 =>
          decide (t < 64) && c.rhDie t && (c.readySpare (c.groupOf t)).isSome
            && (match c.rhUnit t with
                | none => false
                | some w => !(c.bring.modes.radioGuards.contains (8 * t + c.rhGuard t w)))
        | 1 => c.rhLane t
        | _ => decide (t < 64) && c.rhDie t && (c.rhEngine t).isSome)

/-- The next eligible target after the previous one, rising and wrapping (R438). -/
def Crown.rhNext (c : Crown) (kind : Nat) : Option Nat :=
  let n := if kind = 1 then 70 else 64
  let last := c.bring.modes.last.get (fun _ => none) kind
  let from_ := match last with
    | none => 0
    | some t => t + 1
  ((List.range n).map (fun i => (from_ + i) % n)).find? (c.rhEligible kind)

/-- Hours of a kind's interval. -/
def Crown.rhHours (c : Crown) (kind : Nat) : Nat :=
  match kind with
  | 0 => c.g BZ_RH_CTRL_GUARD_H
  | 1 => c.g BZ_RH_CTRL_LANE_H
  | _ => c.g BZ_RH_CTRL_AUDIT_H

/-- A kind is due: its interval has passed since it last started; one that has never started is due (log entry 69). -/
def Crown.rhDue (c : Crown) (kind : Nat) : Bool :=
  let h := c.rhHours kind
  h != 0 && (match c.bring.modes.started.get (fun _ => none) kind with
    | none => true
    | some t => decide (t + h * 3600 * nsPerSec * fracPerNs ≤ c.toNode.now))

/-- C0 to C2 gaps that the crown has found on a lane's partner (R148). -/
def Crown.rhGaps (c : Crown) (partner : Nat) : Nat := c.toNode.missed.get (fun _ => 0) partner

/-- A rehearsal starts (Table 17.6). -/
def Crown.rhStart (c : Crown) (kind t : Nat) : Crown :=
  let unit := match kind with
    | 0 => (c.rhUnit t).getD 0
    | 1 => 0
    | _ => (c.rhEngine t).getD 0
  let throttle := kind == 0 && (let v := unitCtrl (leafList c.image (c.port t).list) unit; bitsOf v 11 9 == 1)
  let partner := (c.rhPartner t).getD 0
  let r : Rehearsal := ⟨kind, t, unit, c.ns, false, false, throttle, partner, c.rhGaps partner, false⟩
  let c := c.onModes (fun m => { m with
    rh := some r, started := m.started.set (fun _ => none) kind (some c.toNode.now), tried := m.tried.set (fun _ => none) kind none, last := m.last.set (fun _ => none) kind (some t) })
  let c := (((c.s BZ_RH_STAT_RUNNING 1).s BZ_RH_STAT_KIND kind).s BZ_RH_STAT_UNIT unit).s BZ_RH_STAT_TARGET t
  match kind with
  | 0 =>
    let seq := c.bring.boot.listSeq
    (c.onBoot (fun b => { b with listSeq := seq + 1 })).bulkDown t (byte 0x12 ++ byte 1 ++ zeros 2 ++ le 4 seq ++ le 2 TZ_GRD_INJECT ++ zeros 2 ++ le 4 (2 ^ 31 + unit))
  | 1 => c.on (·.laneEn t false)
  | _ => c.rehearseGo t unit

/-- The whole minute of canopy time. -/
def Crown.minute (c : Crown) : Nat := c.toNode.now / (60 * nsPerSec * fracPerNs)

/-- A kind is tried now: it is due, and found no eligible target earlier in this minute (R438). -/
def Crown.rhTry (c : Crown) (kind : Nat) : Bool := c.rhDue kind && c.bring.modes.tried.get (fun _ => none) kind != some c.minute

/-- REHEARSAL_DUE (R438): the first due kind in the order GUARD, LANE, AUDIT that finds an eligible target starts on it; a kind that finds none
is tried again in the next minute. -/
def Crown.rehearsalDue (c : Crown) : Crown :=
  if !c.flag BZ_RH_CTRL_EN || !c.isTray || c.bring.modes.rh.isSome || c.toNode.tfault || !c.fw then c
  else
    let due := [0, 1, 2].filter c.rhTry
    match due.findSome? (fun k => (c.rhNext k).map (fun t => (k, t))) with
    | none => c.onModes (fun m => { m with tried := due.foldl (fun t k => t.set (fun _ => none) k (some c.minute)) m.tried })
    | some x => c.rhStart x.1 x.2

/-- A rehearsal passes (R441). -/
def Crown.rhPass (c : Crown) (r : Rehearsal) : Crown :=
  let open_ := c.bring.modes.burl.get (fun _ => false) r.kind
  let c := (c.rhEnd r 0 (c.rhUs r)).count BZ_RH_PASS_COUNT
  if open_ then (c.onModes (fun m => { m with burl := m.burl.set (fun _ => false) r.kind false })).rhBurl r 0x41 else c

/-- Whether what Table 17.6 expects has come. -/
def Crown.rhPassed (c : Crown) (r : Rehearsal) : Bool :=
  match r.kind with
  | 0 => r.seen && (!r.throttle || r.health)
  | 1 => r.restored && c.toNode.up r.target && c.toNode.up r.partner && c.rhGaps r.partner == r.gaps
  | _ => c.aud.rehearsed == some true

/-- The time within which a kind passes, in ns; none where R345 decides alone. -/
def Crown.rhLimit (c : Crown) (r : Rehearsal) : Option Nat :=
  match r.kind with
  | 0 => some (max 1 (c.g BZ_RH_TMO_DETECT_MS) * 1000000)
  | 1 => some ((max 1 (c.g BZ_RH_TMO_LANE_HOLD_MS) + 20) * 1000000)
  | _ => none

/-- REHEARSAL_PASS. -/
def Crown.rehearsalPass (c : Crown) : Crown :=
  match c.bring.modes.rh with
  | none => c
  | some r =>
    let late := match c.rhLimit r with
      | none => false
      | some n => decide (c.ns > r.at_ + n)
    if !late && c.rhPassed r then c.rhPass r else c

/-- REHEARSAL_DETECT_TIMEOUT (R441): counted as missed, with its record and an ONSET Burl. -/
def Crown.rehearsalTimeout (c : Crown) : Crown :=
  match c.bring.modes.rh with
  | none => c
  | some r =>
    let missed := match c.rhLimit r with
      | none => c.aud.rehearsed == some false
      | some n => decide (c.ns ≥ r.at_ + n) && !c.rhPassed r
    if !missed then c
    else
      let c := if r.kind = 1 ∧ !r.restored then c.on (·.laneEn r.target true) else c
      let c := (c.rhEnd r 1 (c.rhUs r)).count BZ_RH_MISS_COUNT
      (c.onModes (fun m => { m with burl := m.burl.set (fun _ => false) r.kind true })).rhBurl r 0x40

/-- A rehearsal ends as ABORTED (R440). -/
def Crown.rhAbort (c : Crown) (r : Rehearsal) : Crown :=
  let c := if r.kind = 1 ∧ !r.restored then c.on (·.laneEn r.target true) else c
  (c.rhEnd r 2 (c.rhUs r)).count BZ_RH_ABORT_COUNT

/-- The target of a rehearsal under way stays eligible (R439, R440); an engine that the rehearsal itself has sent to its repeat test does. -/
def Crown.rhHolds (c : Crown) (r : Rehearsal) : Bool :=
  if r.kind ≠ 2 then c.rhEligible r.kind r.target
  else !c.basic && c.g BZ_MODE_STAT_OVL != 2 && c.rhDie r.target && ((c.audEng r.target r.unit_).state == 0 || c.aud.samples.any (·.rehearsal))

/-- REHEARSAL_ABORT (R440): the target has ceased to be eligible. A rehearsal that has what it waits for passes instead. -/
def Crown.rehearsalAbort (c : Crown) : Crown :=
  match c.bring.modes.rh with
  | none => c
  | some r => if c.rhPassed r || c.rhHolds r then c else c.rhAbort r

/-- LANE_HOLD_END (R438): EN = 1 on the held lane. -/
def Crown.laneHoldEnd (c : Crown) : Crown :=
  match c.bring.modes.rh with
  | none => c
  | some r =>
    if r.kind ≠ 1 ∨ r.restored ∨ c.ns < r.at_ + max 1 (c.g BZ_RH_TMO_LANE_HOLD_MS) * 1000000 then c
    else (c.on (·.laneEn r.target true)).onModes (fun m => { m with rh := some { r with restored := true } })

/-- A guard record of a die as the scheduler sees it: the class its guard reported, and an injected trip of the unit a rehearsal waits for. -/
def Crown.rhGuardRec (c : Crown) (p : Nat) (body : List Byte) : Crown :=
  let g := 8 * p + field body 23 1 % 8
  let c := c.onModes (fun m => { m with
    radioGuards := if bitOf (field body 17 1) 3 then (if m.radioGuards.contains g then m.radioGuards else g :: m.radioGuards) else m.radioGuards.filter (· != g) })
  match c.bring.modes.rh with
  | none => c
  | some r =>
    if r.kind = 0 ∧ r.target = p ∧ field body 16 1 = 0x10 ∧ field body 18 1 = r.unit_ ∧ bitOf (field body 17 1) 2
    then c.onModes (fun m => { m with rh := some { r with seen := true, health := bitOf (c.die p).cond 9 } }) else c

/-! ### Control mode (R430 to R433) -/

/-- Engine queue 7, tree queue 3 and Grove rings 2 and 3, which firmware enables for a host (R496). -/
def Crown.hostQueues (c : Crown) (en : Bool) : Crown :=
  let v := b2n en
  ((((c.s (BZ_EQk_CTRL_EN 7) v).s (BZ_TQk_CTRL_EN 3) v).s (BZ_GRVRr_CTRL_EN 2) v).s (BZ_GRVRr_CTRL_EN 3) v).engRescan.treeRescan

/-- Every unit's BASIC status bit (R431). -/
def Crown.basicBits (c : Crown) (v : Nat) : Crown :=
  (((c.s BZ_ENG_STAT_BASIC v).s BZ_TRE_STAT_BASIC v).s BZ_WIN_STAT_BASIC v).s BZ_GRV_STAT_BASIC v

/-- The crown takes a control mode for good: entry to and exit from basic mode (R431, R432), to and from HOST (R496). Every change has its MODE
record (R442); only entry and exit send READY. -/
def Crown.setMode (c : Crown) (new : Nat) : Crown :=
  let old := c.g BZ_MODE_STAT_MODE
  if new = old then c
  else
    let c := c.s BZ_MODE_STAT_MODE new
    let c := if new = 2 then
        (let c := (c.count BZ_MODE_ENTRIES_COUNT).basicBits 1
         let c := c.audBasic
         match c.bring.modes.rh with
         | none => c
         | some r => c.rhAbort r)
      else if old = 2 then
        (let c := (c.basicBits 0).winResume (c.winSlots.length * 4096 + 1)
         let c := if c.isTray then c.newSeed else c
         ((List.range 65).foldl Crown.dueMargins c).engRescan.treeRescan)
      else c
    let c := if new = 1 then c.hostQueues true else if old = 1 then c.hostQueues false else c
    let c := c.modeRec old new (c.g BZ_MODE_STAT_CAUSE)
    if new = 2 ∨ old = 2 then c.readyRec else c

/-- The mode that holds when no cause of basic mode does: HOST in SOLO role, else NORMAL, and HOST where the crown is in it (Table 17.2). -/
def Crown.restMode (c : Crown) : Nat := if c.role = 0 then 1 else if c.g BZ_MODE_STAT_MODE = 1 then 1 else 0

/-- The causes of basic mode replaced (R430): CAUSE shows the lowest. -/
def Crown.setCauses (c : Crown) (m : Nat) : Crown :=
  let c := c.onModes (fun x => { x with causes := m })
  let low := (lowest 7 (fun i => decide (1 ≤ i) && bitOf m i)).getD 0
  let c := c.s BZ_MODE_STAT_CAUSE low
  c.setMode (if m = 0 then c.restMode else 2)

/-- A cause arises. -/
def Crown.addCause (c : Crown) (i : Nat) : Crown := c.setCauses (c.bring.modes.causes ||| 2 ^ i)

/-- A cause ends. -/
def Crown.dropCause (c : Crown) (i : Nat) : Crown := c.setCauses (putBits c.bring.modes.causes i i 0)

/-- ENTER (R430). -/
def Crown.modeEnter (c : Crown) : Crown := c.addCause 5

/-- EXIT (R430): causes 4 and 5 only. -/
def Crown.modeExit (c : Crown) : Crown := c.setCauses (putBits c.bring.modes.causes 5 4 0)

/-- A write of BZ_MODE_CMD; with both bits the crown enters and then leaves for cause 5 (log entry 123). -/
def Crown.modeCmdWrite (c : Crown) (v : Nat) : Crown :=
  let c := c.on (·.write BZ_MODE_CMD (v % 2 ^ 30))
  let c := if bitOf v 31 then c.modeEnter else c
  if bitOf v 30 then c.modeExit else c

/-! ### Overload (R434) and lane falls (Table 17.2) -/

/-- Everything that counts a drop: ingress, egress, and THIN and DROP of the crown's own LOSS records. -/
def Crown.dropTotal (c : Crown) : Nat :=
  (List.range 72).foldl (fun a k => a + c.g (BZ_ING_DROPk_COUNT k) + (List.range 8).foldl (fun b q => b + c.g (BZ_SCHl_Qq_DROP_COUNT k q)) 0) 0
    + c.toNode.pack.foldl (fun a e => a + e.2.lostAll) 0

/-- OVL at the end of an interval (R434). -/
def Crown.overload (c : Crown) : Crown :=
  let t := c.dropTotal
  let shed := decide ((t : Int) > c.bring.modes.drops)
  let coarse := c.toNode.pack.any (fun e => decide (e.2.level > 0)) || c.red.kids.any (fun e => e.2.orders.any (fun o => o.2.any (fun x => x.mode != 0)))
  (c.onModes (fun m => { m with drops := (t : Int) })).s BZ_MODE_STAT_OVL (if shed then 2 else if coarse then 1 else 0)

/-- The lane group of a lane (Table 16.4). -/
def laneGroup (k : Nat) : Nat := if k < 64 then 0 else if k < 66 then 1 else if k < 70 then 2 else 3

/-- Lanes in service below their declared MODE_MIN: each fall is counted and recorded (Table 17.2, R442). -/
def Crown.laneWatch (c : Crown) : Crown :=
  (List.range 72).foldl (fun (c : Crown) k =>
    let m := modeMin c.image c.node (laneGroup k)
    let low := c.toNode.up k && decide (c.toNode.laneMode k < m)
    if low && !c.bring.modes.low.contains k then
      (let c := (c.onModes (fun x => { x with low := k :: x.low })).count BZ_MODE_LANEMIN_COUNT
       let now := c.g BZ_MODE_STAT_MODE
       c.modeRec now now (0x10 + laneGroup k))
    else if !low && c.toNode.up k then c.onModes (fun x => { x with low := x.low.filter (· != k) }) else c) c

end Sys2Proof.Machine
end

