-- ==== Sys2Proof/Machine/CrownClock.lean ====
section
/-! DEFINITION. A crown's clocks, PLLs, resets and the start of its lanes (spec/19_clocks_resets.md R472 to R487;
spec/08_bark_links.md R205, R206; spec/18_ports.md R463). -/

namespace Sys2Proof.Machine

/-- The domains with a PLL, a multiplexer and a reset of their own (R472, R473). -/
def pllDomains : List Nat := [2, 3, 4, 5, 6, 7, 8, 9, 10, 11, 12, 13, 14, 15, 16, 17]

/-- The order of the sequencer's releases (R484). -/
def releaseOrder : List Nat := [17, 2, 4, 3, 15, 13, 14, 11, 12, 5, 6, 7, 8, 9, 10, 16]

/-- A domain is held in reset. -/
def Crown.inReset (c : Crown) (d : Nat) : Bool := bitOf (c.g BZ_RST_STAT_IN_RESET) d

/-- A source has failed. -/
def Crown.clockFailed (c : Crown) (d : Nat) : Bool := (c.bring.clk.failed.get (fun _ => none) d).isSome

/-- A domain has its clock and is out of reset. -/
def Crown.live (c : Crown) (d : Nat) : Bool := !c.inReset d && !c.clockFailed d

/-- The reference of a domain: 18 `bz_refclk`, 19 `pcie_refclk`. -/
def refOfDomain (d : Nat) : Nat := if d = 16 then 19 else 18

/-- The sources that a failure of source `s` takes with it, itself first (R479). -/
def sourceOf (s : Nat) : List Nat := if s = 18 then 18 :: pllDomains.filter (· != 16) else if s = 19 then [19, 16] else [s]

/-- The lanes of a lane domain. -/
def lanesOf (d : Nat) : List Nat := (List.range 72).filter (fun k => if d = 13 then k < 32 else if d = 14 then 32 ≤ k && k < 64 else d == 15 && 64 ≤ k)

/-- A CLOCK record of the crown's ring (R480). -/
def Crown.clockRec (c : Crown) (d event us : Nat) : Crown := c.log 0x22 (byte d ++ byte event ++ zeros 2 ++ le 4 us)

/-- Microseconds since a source failed; 0 where it has not. -/
def Crown.failedUs (c : Crown) (d : Nat) : Nat := match c.bring.clk.failed.get (fun _ => none) d with
  | some t => (c.ns - t) / 1000
  | none => 0

/-! ### What depends on the sampled role (R463, R496, R507; Tables 16.11, 17.7, 20.9) -/

/-- The registers of the CFG reset whose reset value depends on the role. -/
def Crown.roleRegs (c : Crown) : Crown :=
  let c := c.s BZ_BOOT_CTRL_READY_MS (if c.role < 2 then 400 else if c.role = 2 then 520 else 640)
  c.s BZ_HIF_CTRL_HOST_OK (b2n (c.role == 0))

/-! ### Lanes -/

/-- A crown lane at its reset (R208). -/
def Node.crownLaneReset (n : Node) (k : Nat) : Node :=
  let b := n.lb k
  let n := (List.range 72).foldl (fun (n : Node) j => if j = k then n.dropEngine j else n) n
  { n with regs := n.regs.filter (fun e => !(decide (b ≤ e.1) && decide (e.1 < b + 0x400))) }.setLane k { Lane.reset with since := n.ns }

/-- The lanes of a released lane domain start (R206): 64 to 69 at once, but not in SOLO role; the downlinks with their pass. -/
def Crown.lanesStart (c : Crown) (d : Nat) : Crown :=
  let c := c.onClk (fun x => { x with linkAt := c.ns, pass := if d = 15 then x.pass else 0, batches := if d = 15 then x.batches else [], batch := if d = 15 then x.batch else [], missed := if d = 15 then x.missed else [] })
  if d = 15 ∧ c.role ≠ 0 then [64, 65, 66, 67, 68, 69].foldl (fun (c : Crown) k => if c.flag (BK_CTRL_EN (c.toNode.lb k)) then c.on (·.startAttempt k) else c) c
  else c

/-- A batch of a downlink pass (R206): its ports with EN = 1 that are OFF or wait for a retry start an attempt; one that trains or serves, its domain not having been
reset, goes on. -/
def Crown.startBatch (c : Crown) (ps : List Nat) : Crown :=
  let ps := ps.filter (fun p => c.flag (BK_CTRL_EN (c.toNode.lb p)))
  let idle := ps.filter (fun p => c.toNode.laneState p == 0 || c.toNode.laneState p == 12)
  let c := idle.foldl (fun (c : Crown) p => c.on (fun n => (n.setLane p { n.lane p with settled := false, failed := false }).startAttempt p)) c
  c.onClk (fun x => { x with batch := ps })

/-- DOWNLINK_PASS_START (R206): lanes 64 to 69 are UP or GATE_MS has passed since the release. -/
def Crown.passStart (c : Crown) : Crown :=
  let open_ := [64, 65, 66, 67, 68, 69].all c.toNode.up || decide (c.bring.clk.linkAt + c.g BZ_BK_GATE_GATE_MS * 1000000 ≤ c.ns)
  if c.bring.clk.pass ≠ 0 ∨ !open_ ∨ !(c.live 13 && c.live 14 && c.live 15) then c
  else (c.onClk (fun x => { x with pass := 1, missed := [], batches := (List.range 7).map (fun b => (List.range 8).map (8 * (b + 1) + ·)) })).startBatch (List.range 8)

/-- Batches of eight in the order given. -/
def inEights (fuel : Nat) (l : List Nat) : List (List Nat) :=
  match fuel, l with
  | 0, _ => []
  | _, [] => []
  | n + 1, l => l.take 8 :: inEights n (l.drop 8)

/-- BATCH_START (R206): every lane of the batch is UP or has failed; the next batch of the pass, or the second pass, starts. -/
def Crown.batchStart (c : Crown) : Crown :=
  let x := c.bring.clk
  if !(x.pass == 1 || x.pass == 2) || !(x.batch.all (fun p => (c.toNode.lane p).settled)) then c
  else
    let missed := if x.pass = 1 then x.missed ++ x.batch.filter (fun p => (c.toNode.lane p).failed) else x.missed
    let c := c.onClk (fun y => { y with missed := missed })
    match x.batches with
    | b :: r => (c.onClk (fun y => { y with batches := r })).startBatch b
    | [] =>
      if x.pass = 2 then c.onClk (fun y => { y with pass := 3, batch := [] })
      else match inEights 8 missed with
        | [] => c.onClk (fun y => { y with pass := 3, batch := [] })
        | b :: r => (c.onClk (fun y => { y with pass := 2, batches := r })).startBatch b

/-- ECHO_ENGINE_GRANT (R205): a free engine to the lowest waiting downlink. -/
def Crown.engineGrant (c : Crown) : Crown :=
  match lowest 64 (fun k => c.toNode.laneState k == 2) with
  | none => c
  | some k => match c.toNode.freeEngine k with
    | none => c
    | some e => c.on (·.probe k e)

/-- RETRY at a crown (R197, R206): a downlink waits for its pass while passes run. -/
def Crown.laneRetry (c : Crown) (k : Nat) : Crown := if k < 64 ∧ c.bring.clk.pass < 3 then c else c.on (·.retry k)

/-! ### What each reset does (R483 and the rules it names) -/

/-- Running jobs that satisfy a condition take fault DOMAIN_RESET (R267); no cell is concerned. -/
def Crown.engDomainFault (c : Crown) (hit : EngJob → Bool) : Crown :=
  (List.range 8).foldl (fun (c : Crown) k => match c.engJob k with
    | none => c
    | some j =>
      if j.running && hit j then c.engineFault k 8 0x3FF else c) c

/-- Running tree jobs take the fault of a domain reset (R291). -/
def Crown.treeDomainFault (c : Crown) : Crown := (List.range 4).foldl (fun (c : Crown) k => c.treeFault k 2) c

/-- NOC (R483): open windows and queued frames go, counted; running jobs take their fault; Grove's map, the audit and the window engine
keep their state. -/
def Crown.nocReset (c : Crown) : Crown :=
  let c := c.toNode.pack.foldl (fun (c : Crown) e =>
    if e.1 / 8 < 72 then c.inc (BZ_SCHl_Qq_DROP_COUNT (e.1 / 8) (e.1 % 8)) (e.2.frames.length + b2n e.2.closed.isSome) else c) c
  let c := c.red.waiting.foldl (fun (c : Crown) r => if r.lane < 72 then c.count (BZ_ING_DROPk_COUNT r.lane) else c) c
  let c := c.on (fun n => { n with pack := n.pack.map (fun e => (e.1, { e.2 with frames := [], closed := none, deficit := 0, store := [], frozen := false, replay := [] })), turn := [] })
  let c := c.onRed (fun r => { r with opens := [], seen := [], missed := [], copies := [], waiting := [] })
  (c.engDomainFault (fun _ => true)).treeDomainFault

/-- MCA and MCB (R273): STATE of their controllers is OFF; jobs take their fault. -/
def Crown.mcReset (c : Crown) (d : Nat) : Crown :=
  let c := (List.range 4).foldl (fun (c : Crown) i => c.s (BZ_MCc_STAT_STATE (4 * (d - 11) + i)) 0) c
  (c.engDomainFault (fun _ => true)).treeDomainFault

/-- The registers that show what a CFG reset leaves running (R270, R292, R347; log entry 92): plans, children, circuits, feature sets,
ensembles, jobs and audit. -/
def Crown.statusRegs (c : Crown) : Crown :=
  let c := c.planSlots.foldl (fun (c : Crown) e => c.setPlan e.1 e.2) (c.s BZ_RED_PLANS_NPLAN c.planSlots.length)
  let c := (List.range 32).foldl (fun (c : Crown) s => match c.fset s with
    | some f => (c.s (BZ_FSs_STAT_ACTIVE s) 1).s (BZ_FSs_STAT_FSET_ID s) f.id
    | none => c) c
  let c := c.s BZ_TRE_STAT_PFREE (64 - c.tree.ens.foldl (fun a y => a + (y.2.map (·.pcnt)).getD 0) 0)
  let c := (List.range 64).foldl (fun (c : Crown) k => c.setKid k (c.kid k)) c
  let f := c.red.flex
  let c := ((c.s BZ_FLEX_STAT_PEND (b2n f.req.isSome)).s BZ_FLEX_STAT_L70 (bitsOf f.held 0 0)).s BZ_FLEX_STAT_L71 (bitsOf f.held 1 1)
  let c := (List.range 8).foldl (fun (c : Crown) k => c.setEngJob k (c.engJob k)) c
  let c := (List.range 4).foldl (fun (c : Crown) k => c.setTreeJob k (c.treeJob k)) c
  let c := c.keep.mirrors.foldl (fun (c : Crown) e => c.setMirror e.1 (c.mirror e.1)) c
  c.engRescan.treeRescan.groveRegs.audRegs

/-- CFG: every register that its chapter scopes to CFG; views return to UNUSED (R505); gate lists, shapers and the Ring log's read
window are registers' contents. -/
def Crown.cfgReset (c : Crown) : Crown :=
  let c := (c.on (·.resetRegs .cfg)).on (fun n => { n with ring := { n.ring with window := [] } })
  let c := c.onRed (fun r => { r with shapers := [], gates := [] })
  let c := (c.onHost (fun h => { h with views := [] })).roleRegs
  (c.basicBits (b2n c.basic)).statusRegs

/-- A domain's reset takes effect. -/
def Crown.domainReset (c : Crown) (d : Nat) : Crown :=
  match d with
  | 2 => c.s BZ_MODE_STAT_FW 0
  | 3 => c.nocReset
  | 4 => { c.on (fun n => if c.live 3 then n.timeResetTold else n.timeReset) with self := c.self.resetAssert 1 }
  | 9 =>
    let c := c.treeDomainFault
    ({ c.on (·.resetRegs .tre) with tree := { c.tree with ens := [] } } : Crown).s BZ_TRE_STAT_PFREE 64
  | 10 => (c.on (·.resetRegs .scn)).winReset.basicBits (b2n c.basic)
  | 11 => c.mcReset 11
  | 12 => c.mcReset 12
  | 13 => (lanesOf 13).foldl (fun (c : Crown) k => c.on (·.crownLaneReset k)) c
  | 14 => (lanesOf 14).foldl (fun (c : Crown) k => c.on (·.crownLaneReset k)) c
  | 15 => ((lanesOf 15).foldl (fun (c : Crown) k => c.on (·.crownLaneReset k)) c).on (·.resetRegs .bku)
  | 16 => c.s BZ_HIF_CTRL_LINK 0
  | 17 => c.cfgReset
  | _ => if 5 ≤ d ∧ d ≤ 8 then c.engDomainFault (fun j => (chainCells j.descs).any (fun g => g / 128 == d - 5)) else c

/-- Reset `d` is asserted (R485): a hung switch ends and is recorded, the multiplexer is forced to its reference. A reset already asserted
goes on. -/
def Crown.assertReset (c : Crown) (d : Nat) : Crown :=
  if d < 2 ∨ d > 17 then c
  else
    let hung := c.flag (BZ_CLKd_STAT_SWITCHING d)
    let c := if hung then c.clockRec d 2 (c.failedUs d) else c
    let c := (c.s (BZ_CLKd_STAT_SWITCHING d) 0).s (BZ_CLKd_STAT_ON_PLL d) 0
    let c := c.s BZ_RST_STAT_IN_RESET (putBits (c.g BZ_RST_STAT_IN_RESET) d d 1)
    let c := c.s BZ_RST_CAUSE_CLKRET (putBits (c.g BZ_RST_CAUSE_CLKRET) d d 0)
    (c.onClk (fun x => { x with resetAt := x.resetAt.set (fun _ => none) d (some c.ns) })).domainReset d

/-- What starts when a domain's reset is released. -/
def Crown.domainStart (c : Crown) (d : Nat) : Crown :=
  match d with
  | 4 => ({ c with self := if bitOf c.self.boot.held 1 then c.self.timeRelease else c.self } : Crown).log 0x01 (byte 4 ++ zeros 3)
  | 11 => (List.range 4).foldl (fun (c : Crown) i => c.s (BZ_MCc_STAT_STATE i) 1) c
  | 12 => (List.range 4).foldl (fun (c : Crown) i => c.s (BZ_MCc_STAT_STATE (4 + i)) 1) c
  | 13 => c.lanesStart 13
  | 14 => c.lanesStart 14
  | 15 => c.lanesStart 15
  | _ => c

/-- Reset `d` is released (R484, R485): on the PLL once it has locked when SEL = 1, else on the reference. -/
def Crown.releaseReset (c : Crown) (d : Nat) : Crown :=
  let c := c.s BZ_RST_STAT_IN_RESET (putBits (c.g BZ_RST_STAT_IN_RESET) d d 0)
  let c := c.onClk (fun x => { x with resetAt := x.resetAt.set (fun _ => none) d none })
  (c.s (BZ_CLKd_STAT_ON_PLL d) (b2n (c.flag (BZ_CLKd_CTRL_SEL d) && c.flag (BZ_CLKd_STAT_LOCK d)))).domainStart d

/-- A reset that a command or a clock return asserted has been held for 64 reference cycles and may be released. -/
def Crown.mayRelease (c : Crown) (d : Nat) : Bool :=
  (match c.bring.clk.resetAt.get (fun _ => none) d with
   | some t => decide (t + 640 ≤ c.ns)
   | none => false) && !c.clockFailed d && (!c.flag (BZ_CLKd_CTRL_SEL d) || c.flag (BZ_CLKd_STAT_LOCK d))

/-- Resets whose 64 cycles have passed are released. -/
def Crown.resetTick (c : Crown) : Crown :=
  if c.bring.clk.resetAt = [] then c
  else pllDomains.foldl (fun (c : Crown) d => if c.mayRelease d then c.releaseReset d else c) c

/-- The sequencer of R484: domains in its order, each once its PLL has locked; one marked failed is passed over, one still unlocked ends the
sequence. -/
def Crown.sequence (l : List Nat) (c : Crown) : Crown :=
  match l with
  | [] => c
  | d :: r =>
    let waits := c.inReset d && (c.bring.clk.resetAt.get (fun _ => none) d).isNone
    if !waits || c.clockFailed d then Crown.sequence r c
    else if c.flag (BZ_CLKd_STAT_LOCK d) then Crown.sequence r (c.releaseReset d)
    else c

/-! ### PLLs and multiplexers (R473, R474) -/

/-- PLL_LOCK: the PLL of domain `d` has locked. -/
def Crown.pllLock (c : Crown) (d : Nat) : Crown :=
  if d < 2 ∨ d > 17 ∨ !c.flag (BZ_CLKd_CTRL_PLL_EN d) ∨ c.clockFailed (refOfDomain d) then c
  else ((c.s (BZ_CLKd_STAT_LOCK d) 1).sequence releaseOrder).resetTick

/-- A write of BZ_CLKd_CTRL (R473, R474). -/
def Crown.clkCtrlWrite (c : Crown) (d v : Nat) : Crown :=
  let sel := c.flag (BZ_CLKd_CTRL_SEL d)
  let busy := c.flag (BZ_CLKd_STAT_SWITCHING d)
  let pll := decide (bitsOf v 30 30 ≠ c.g (BZ_CLKd_CTRL_PLL_EN d) ∨ bitsOf v 15 8 ≠ c.g (BZ_CLKd_CTRL_MULT d) ∨ bitsOf v 3 0 ≠ c.g (BZ_CLKd_CTRL_DIV d))
  let turn := bitOf v 31 != sel
  if (pll && (c.flag (BZ_CLKd_STAT_ON_PLL d) || busy)) || (turn && busy) then c.s (BZ_CLKd_STAT_ERR d) 1
  else
    let c := if pll then (((c.s (BZ_CLKd_CTRL_PLL_EN d) (bitsOf v 30 30)).s (BZ_CLKd_CTRL_MULT d) (bitsOf v 15 8)).s (BZ_CLKd_CTRL_DIV d) (bitsOf v 3 0)).s (BZ_CLKd_STAT_LOCK d) 0 else c
    if turn then
      (let c := c.s (BZ_CLKd_CTRL_SEL d) (bitsOf v 31 31)
       if c.inReset d then c else c.s (BZ_CLKd_STAT_SWITCHING d) 1)
    else c

/-- CLOCK_SWITCH_DONE (R474): with both clocks running the switch completes; with one stopped it never does. -/
def Crown.switchDone (c : Crown) (d : Nat) : Crown :=
  let runs := !c.clockFailed d && !c.clockFailed (refOfDomain d) && c.flag (BZ_CLKd_CTRL_PLL_EN d)
  if d < 2 ∨ d > 17 ∨ !c.flag (BZ_CLKd_STAT_SWITCHING d) ∨ !runs then c
  else (c.s (BZ_CLKd_STAT_SWITCHING d) 0).s (BZ_CLKd_STAT_ON_PLL d) (c.g (BZ_CLKd_CTRL_SEL d))

/-! ### Sources (R477 to R480) -/

/-- Lanes OFF: front ends silent, the lane DOWN (Table 19.5). -/
def Crown.lanesFail (c : Crown) (d : Nat) : Crown :=
  (lanesOf d).foldl (fun (c : Crown) k => if c.toNode.laneState k = 0 then c else c.on (fun n => (if n.serving k then n.laneDown k 1 else n.dropEngine k).enter k 1)) c

/-- A source fails: counted, shown, recorded, and what it drives is forced (Table 19.5). -/
def Crown.sourceFails (c : Crown) (d : Nat) : Crown :=
  if c.clockFailed d then c
  else
    let c := c.onClk (fun x => { x with failed := x.failed.set (fun _ => none) d (some c.ns) })
    let c := ((c.s BZ_CLK_FAIL_FAIL (putBits (c.g BZ_CLK_FAIL_FAIL) d d 1)).count BZ_CLK_FAILS_COUNT).s BZ_CLK_ALIVE_ALIVE (putBits (c.g BZ_CLK_ALIVE_ALIVE) d d 0)
    let c := c.clockRec d 0 0
    match d with
    | 2 => c.s BZ_MODE_STAT_FW 0
    | 4 => { c with self := c.self.clockFail 1 }
    | 11 => (List.range 4).foldl (fun (c : Crown) i => c.s (BZ_MCc_STAT_STATE i) 3) c
    | 12 => (List.range 4).foldl (fun (c : Crown) i => c.s (BZ_MCc_STAT_STATE (4 + i)) 3) c
    | 13 => c.lanesFail 13
    | 14 => c.lanesFail 14
    | 15 => (c.lanesFail 15).watchUp
    | 16 => c.s BZ_HIF_CTRL_LINK 0
    | _ => c

/-- CLOCK_FAIL (R477, R479): declared by the monitors, which stop with HWD. -/
def Crown.clockFail (c : Crown) (s : Nat) : Crown :=
  if s > 19 ∨ (c.clockFailed 1 ∧ s ≠ 1) then c else (sourceOf s).foldl Crown.sourceFails c

/-- A failed source is alive again: the record, and its domain's reset once (R480). -/
def Crown.sourceReturns (c : Crown) (d : Nat) : Crown :=
  if !c.clockFailed d then c
  else
    let us := c.failedUs d
    let c := (c.onClk (fun x => { x with failed := x.failed.set (fun _ => none) d none })).s BZ_CLK_ALIVE_ALIVE (putBits (c.g BZ_CLK_ALIVE_ALIVE) d d 1)
    let c := c.clockRec d 1 us
    let c := if d = 4 then { c with self := c.self.timeBack } else c
    if 2 ≤ d ∧ d ≤ 17 then (let c := c.assertReset d; c.s BZ_RST_CAUSE_CLKRET (putBits (c.g BZ_RST_CAUSE_CLKRET) d d 1)) else c

/-- CLOCK_RETURN (R480). -/
def Crown.clockReturn (c : Crown) (s : Nat) : Crown :=
  if s > 19 ∨ (c.clockFailed 1 ∧ s ≠ 1) then c else (sourceOf s).foldl Crown.sourceReturns c

/-- PLL_LOCK_TIMEOUT (R484): 1 ms after the AON release a domain whose PLL has not locked stays in reset and counts as failed. -/
def Crown.lockTimeout (c : Crown) (d : Nat) : Crown :=
  let waits := c.inReset d && (c.bring.clk.resetAt.get (fun _ => none) d).isNone
  if d < 2 ∨ d > 17 ∨ !waits ∨ c.flag (BZ_CLKd_STAT_LOCK d) ∨ c.ns < c.bring.boot.aonNs + 1000000 then c
  else (c.sourceFails d).sequence releaseOrder

/-- A write of BZ_RST_CMD (R485). -/
def Crown.rstCmd (c : Crown) (v : Nat) : Crown :=
  pllDomains.foldl (fun (c : Crown) d =>
    if bitOf v d then c.assertReset d else c) c

/-! ### The AON reset (R3, R23, R242, R463, R484) -/

/-- What flash holds for a block stays through the AON reset; everything else of it goes (R168, R176). The release counts the power cycle, once. -/
def Keeping.powerCycle (k : Keeping) (ns : Nat) (released : Bool) : Keeping :=
  let pcc := (k.own.flashPcc + b2n released) % 2 ^ 24
  { Keeping.reset with
    ports := k.ports.map (fun e => (e.1, { e.2 with opsec := e.2.flashOp, pcc := e.2.flashPcc, due := false }))
    own := { k.own with opsec := k.own.flashOp, pcc := pcc, flashPcc := pcc, due := false }
    savedAt := ns
    mirrors := (k.mirrors.map (fun e => (e.1, { Mirror.empty with pcc := e.2.pcc, nonce := e.2.nonce }))).filter (fun e => decide (e.2 ≠ Mirror.empty)) }

/-- The AON reset asserted: every register and unit of the macro, every other reset with it. HBM, flash and fuses lie outside,
and what flash holds is kept: operating data, and the ageing points (R114; log entry 114). -/
def Crown.aonUnits (c : Crown) (released : Bool) : Crown :=
  let keep := c.keep.powerCycle c.ns released
  let own := keep.own
  { Crown.reset with
    toNode := { Node.reset true with ns := c.ns, fresh := c.fresh, out := c.out, aliveAt := c.ns + 100000, ring := { RingLog.empty with base := own.opsec, pcc := own.pcc, opbase := true } }
    hbm := c.hbm
    keep := keep
    age := { Ageing.reset with chans := c.age.chans.map (fun e => (e.1, e.2.retained)) }
    self := { c.self.aonUnits with selfWord := c.self.selfWord }
    bring := { Bring.reset with boot := { CrownBoot.reset with fuses := c.bring.boot.fuses, slotA := c.bring.boot.slotA, slotB := c.bring.boot.slotB } } }

/-- What is fused only grows: the rollback count and the revoked keys of an earlier reading stand. -/
def Fuses.join (old new : Fuses) : Fuses := { new with revoked := old.revoked ||| new.revoked, rollback := max old.rollback new.rollback }

/-- AON_RESET_RELEASE (R3, R463, R484): the straps are sampled, the node word of a ROOT or SOLO crown set, the sequencer waits for the PLLs,
and the ring's first record is POWER_UP. The self leaf of a TRAY or POD crown, whose own word is not yet assigned, has the word that 0 gives (log entry 111). -/
def Crown.aonRelease (c : Crown) (role : Nat) (root1 : Bool) (fuses : Fuses) (self : LeafStraps) : Crown :=
  let old := c.bring.boot.fuses
  let c := c.aonUnits true
  let c := c.onBoot (fun b => { b with fuses := old.join fuses, startNs := c.ns, aonNs := c.ns, root1 := root1 })
  let c := c.s BZ_STRAP_ROLE (role % 4)
  let word := match role % 4 with
    | 3 => if root1 then 0xD0000000 else 0xC0000000
    | 0 => 0x40000000
    | _ => 0
  let c := ((c.s BZ_NODE_WORD word).roleRegs).on (fun n => { n with upLane := if role % 4 = 3 then 66 else 64 })
  let c := { c with self := { c.self.aonRelease self with selfWord := some (selfLeafWord word) } }
  let c := if role % 4 = 0 then (((c.s BZ_MODE_STAT_MODE 2).s BZ_MODE_STAT_CAUSE 6).basicBits 1).onModes (fun m => { m with causes := 2 ^ 6 }) else c
  (c.s BZ_CLK_ALIVE_ALIVE 0xFFFFF).log 0x01 (byte 7 ++ zeros 3)

/-- RESET_ASSERT at a crown: 0 AON, 2 to 17 a domain's reset (16 by `pcie_perst_n`). -/
def Crown.resetAssert (c : Crown) (d : Nat) : Crown := if d = 0 then c.aonUnits false else c.assertReset d

end Sys2Proof.Machine
end

