-- ==== Sys2Proof/Machine/CrownPort.lean ====
section
/-! DEFINITION. The crown's window: what a read of each register returns, and what a write to it does, whoever makes it (R8 to R12, R436 and
the register tables of chapters 0 to 20). The writes that start a warm start or a mailbox command, which only masters make and no register
write list (log entry 70), are added in HostPort. -/

namespace Sys2Proof.Machine

/-! ### Masters (R436): 0 the management core, 1 the host interface, 0x40 + v tenant view v; 0xFFFF a register write list -/

/-- A view's page of BAR2 (R467, R508): its registers at offset 0; nothing behind the rest of the page. -/
def masterOffset (off mid : Nat) : Option Nat :=
  if 0x40 ≤ mid ∧ mid < 0x80 then (if off < 0x100 then some (0x144000 + 0x100 * (mid - 0x40) + off) else none) else some off

/-! ### Reads -/

/-- Lane and queue of a scheduler queue's register. -/
def schIx (off r : Nat) : Option (Nat × Nat) :=
  if 0x26000 + r ≤ off ∧ off < 0x2F000 ∧ (off - r) % 0x40 = 0 then some ((off - r - 0x26000) / 0x200, (off - r - 0x26000) / 0x40 % 8) else none

/-- The crown as a read finds it: selections and samples that a read computes are shown in their registers. -/
def Crown.readView (c : Crown) (off : Nat) : Crown :=
  if off = 0xF0204 ∨ off = 0xF0208 then c.dieView
  else if 0xE0064 ≤ off ∧ off ≤ 0xE006C then c.engineView
  else match schIx off 0x1C with
    | some (l, q) => c.nsampRead l q
    | none => c

/-- Valid logical cells (Table 10.8). -/
def Crown.validCells (c : Crown) : Nat := (List.range 4).foldl (fun a q => a + (numsWhere 128 (c.cellValid q)).length) 0

/-- What a register computed from the units reads as; none for one that is stored. -/
def Crown.view (c : Crown) (off priv : Nat) : Option Nat :=
  if 0x10000 ≤ off ∧ off < 0x10100 then c.toNode.timeView off priv
  else match off with
    | 0x100000 => some c.ring.head
    | 0x100004 => some c.ring.tail
    | 0x100024 => some (c.toNode.word BZ_RLOG_RD_STAT).toNat
    | 0xF0008 => some (putBits (c.toNode.word 0xF0008).toNat 30 30 (b2n c.stale))
    | 0x80004 => some (c.g BZ_ENG_STAT_BASIC * 2 ^ 31 + b2n (!c.hbmReady) * 2 ^ 30 + c.validCells)
    | _ =>
      if 0x101000 ≤ off ∧ off < 0x101200 then some (field c.ring.window (off - 0x101000) 4)
      else match famIx off 0x40014 0x400 72 with
        | some k => some (c.toNode.capLocal k)
        | none => match famIx off 0x24018 0x40 72 with
        | some l => some (c.pendingList l (c.g (BZ_SCHl_GATE_ADDR_ENTRY l)))
        | none => match schIx off 0 with
        | some (_, q) => if q < 3 then some (c.toNode.read off % 2 ^ 31) else none
        | none => match schIx off 0x1C with
          | some _ => some c.red.nsamp
          | none => match schIx off 0x38 with
            | some (l, q) => some (if q < 3 then 0 else (c.toNode.q (l * 8 + q)).level)
            | none => none

/-- Drops that OVL has seen go with a counter that a read clears (R434). -/
def Crown.dropsRead (c : Crown) (off : Nat) : Crown :=
  if (famIx off 0x23000 4 72).isSome || (schIx off 0x30).isSome then c.onModes (fun m => { m with drops := m.drops - ((c.toNode.word off).toNat : Int) }) else c

/-- An access of GATE_DATA moves ENTRY on under AUTOINC (Table 9.6). -/
def Crown.gateStep (c : Crown) (off : Nat) : Crown := match famIx off 0x24018 0x40 72 with
  | some l => if c.flag (BZ_SCHl_GATE_ADDR_AUTOINC l) then c.s (BZ_SCHl_GATE_ADDR_ENTRY l) ((c.g (BZ_SCHl_GATE_ADDR_ENTRY l) + 1) % 256) else c
  | none => c

/-- A read of the crown window: the value and the crown after it (R9, R12, R467). With CFG without a clock or in reset, 0 (Table 19.5). -/
def Crown.regRead (c : Crown) (off priv mid : Nat) : Nat × Crown :=
  match masterOffset off mid with
  | none => (0, c)
  | some off =>
    if !c.live 17 || off % 4 ≠ 0 then (0, c)
    else
      let c := c.readView off
      let v := (c.view off priv).getD (c.toNode.read off)
      (v, (((c.dropsRead off).gateStep off).on (·.timeReadEffect off priv)).on (·.clearRc off))

/-! ### Writes -/

/-- A write of a job ring's register (R259, R260, R268): SIZE_LOG, BASE and CPL_BASE keep their values while EN = 1; TAIL and CPL_HEAD are
refused beyond the ring. -/
def Crown.ringWriteReg (c : Crown) (r : Ring) (off v : Nat) : Crown :=
  let en := c.flag r.en
  if off = r.tail.off then c.writeTail r (v % 65536)
  else if off = r.cplHead.off then c.writeCplHead r (v % 65536)
  else if (off = r.base.off ∨ off = r.cplBase.off) ∧ en then c
  else if off = r.size.off then
    let old := c.g r.size
    let c := c.on (·.write off v)
    if en then c.s r.size old else c
  else c.on (·.write off v)

/-- A write to an engine queue's register. -/
def Crown.eqWrite (c : Crown) (k off v : Nat) : Crown :=
  let c := c.ringWriteReg (jobRing (eqBase k)) off v
  if off = BZ_EQk_CTRL k ∧ bitOf v 30 then c.abortQueue k else c.engRescan

/-- A write to a tree queue's register. -/
def Crown.tqWrite (c : Crown) (k off v : Nat) : Crown :=
  let c := c.ringWriteReg (jobRing (tqBase k)) off v
  if off = BZ_TQk_CTRL k ∧ bitOf v 30 then c.treeAbort k else c.treeRescan

/-- The pages of a view: its read window and its write window (R498). -/
def Crown.viewReads (c : Crown) (v : Nat) : Nat × Nat := (c.g (BZ_Vv_RLO_PAGE v), c.g (BZ_Vv_RLO_PAGE v) + c.g (BZ_Vv_RPAGES_COUNT v))

/-- The write window of a view. -/
def Crown.viewWrites (c : Crown) (v : Nat) : Nat × Nat :=
  let x := c.bring.host.views.get (fun _ => View.none) v
  let lo := c.g (BZ_Vv_RLO_PAGE v) + x.wOff
  (lo, lo + x.wPages)

/-- Whether bytes lie inside pages. -/
def insidePages (w : Nat × Nat) (a n : Nat) : Bool := decide (4096 * w.1 ≤ a) && decide (a + n ≤ 4096 * w.2)

/-- A view ring whose EN rises must lie in the view's windows (R499). -/
def Crown.viewRingFits (c : Crown) (v r : Nat) : Bool :=
  let x := viewRing v r
  let n := c.ringN x
  insidePages (c.viewReads v) (pageAddr (c.g x.base)) (n * x.slot) && insidePages (c.viewWrites v) (pageAddr (c.g x.cplBase)) (n * x.cslot)

/-- A write to a view's ring register (R499, R260). -/
def Crown.viewRingWrite (c : Crown) (v r off w : Nat) : Crown :=
  let x := viewRing v r
  let en := c.flag x.en
  let c := c.ringWriteReg x off w
  if off = BZ_Vv_RINGr_CTRL v r ∧ bitOf w 31 ∧ !en ∧ !c.viewRingFits v r then (c.s x.en 0).s x.ovr 1 else c

/-- GO of a view's DMA channel (R504): BUSY while the copy is allowed, else ERR. -/
def Crown.dmaGo (c : Crown) (v : Nat) : Crown :=
  let off := c.g ⟨BZ_Vv_DMA_OFF v, 31, 0⟩
  let len := c.g ⟨BZ_Vv_DMA_LEN v, 24, 0⟩
  let a := pageAddr (c.viewReads v).1 + off
  let ok := len ≤ 16777216 && off % 64 == 0 && len % 64 == 0 && insidePages (c.viewReads v) a len
    && (!c.flag (BZ_Vv_DMA_CTRL_TO_HBM v) || insidePages (c.viewWrites v) a len)
  if c.flag (BZ_Vv_DMA_CTRL_BUSY v) then c else if ok then c.s (BZ_Vv_DMA_CTRL_BUSY v) 1 else c.s (BZ_Vv_DMA_CTRL_ERR v) 1

/-- A write to a view's registers (R499, R501, R504): through its own page, nothing while it is FROZEN; the channel's settings hold while it
copies. -/
def Crown.viewWrite (c : Crown) (off v mid : Nat) : Crown :=
  let n := (off - 0x144000) / 0x100
  let r := off % 0x100
  if 0x40 ≤ mid ∧ mid < 0x80 ∧ c.g (BZ_Vv_STAT_STATE n) = 2 then c
  else if r < 0x60 then c.viewRingWrite n (r / 0x20) off v
  else if r < 0x70 then (if c.flag (BZ_Vv_DMA_CTRL_BUSY n) then c else c.on (·.write off v))
  else if r = 0x70 then
    if c.flag (BZ_Vv_DMA_CTRL_BUSY n) then c.on (·.write off (v % 2 ^ 30 + c.g (BZ_Vv_DMA_CTRL_TO_HBM n) * 2 ^ 30))
    else
      let c := c.on (·.write off (v % 2 ^ 31))
      if bitOf v 31 then c.dmaGo n else c
  else c.on (·.write off v)

/-- The staging registers of the loader (R489): a data word goes to the next bytes of the staging area; nothing while BUSY. -/
def Crown.loadWrite (c : Crown) (off v : Nat) : Crown :=
  if c.flag BZ_FW_LOAD_CTRL_BUSY then c
  else if off = BZ_FW_LOAD_PAGE then (c.on (·.write off v)).s BZ_FW_LOAD_LEN_BYTES 0
  else if off = BZ_FW_LOAD_DATA then
    let n := c.g BZ_FW_LOAD_LEN_BYTES
    (c.hbmWrite (pageAddr (c.g BZ_FW_LOAD_PAGE_PAGE) + n) (le 4 v)).s BZ_FW_LOAD_LEN_BYTES (n + 4)
  else c.on (·.write off (v % 2 ^ 31))

/-- The watchdog's registers, which only the management core writes (R490). -/
def Crown.wdogWrite (c : Crown) (off v mid : Nat) : Crown :=
  if mid ≠ 0 ∧ mid ≠ 0xFFFF then c
  else if off = BZ_WDOG_KICK then (if v = 0x4B1C ∧ mid = 0 then c.onHost (fun h => { h with wdogAt := c.ns }) else c)
  else c.on (·.write off v)

/-- The reset that scopes the register at an offset is asserted, which keeps the register at its reset value (R485). -/
def Crown.regHeld (c : Crown) (off : Nat) : Bool :=
  match findReg crownTable off with
  | none => false
  | some (d, _, _) => match d.scope with
    | .cTime => c.inReset 4
    | .tre => c.inReset 9
    | .scn => c.inReset 10
    | .bku => c.inReset 15
    | .bkLane => c.inReset (let k := (off - 0x40000) / 0x400; if k < 32 then 13 else if k < 64 then 14 else 15)
    | _ => false

/-- A write of the crown window by any master, but for the bits that start firmware's own procedures. -/
def Crown.regWrite (c : Crown) (off v priv mid : Nat) : Crown :=
  match masterOffset off mid with
  | none => c
  | some off =>
  if !c.live 17 || off % 4 ≠ 0 || priv > 3 || c.regHeld off then c
  else if 0x144000 ≤ off ∧ off < 0x148000 then c.viewWrite off v mid
  else if 0x110010 ≤ off ∧ off ≤ 0x110018 then c.loadWrite off v
  else if off = BZ_WDOG_CTRL ∨ off = BZ_WDOG_KICK then c.wdogWrite off v mid
  else match off with
    | 0x10080 => c.on (·.capCtrlWrite v)
    | 0x1002C => c.on (fun n => (n.write off v).refault)
    | 0x10030 => c.on (fun n => (n.write off v).refault)
    | 0x10130 => if bitOf v 0 ∧ c.role = 0 then c.on (·.timeSet) else c
    | 0x22400 =>
      let c := c.on (·.write off v)
      let c := if c.flag BZ_FLEX_CTRL_REQ then c.flexReq 3 else c
      if c.flag BZ_FLEX_CTRL_REL then c.flexRelease else c
    | 0x80100 => c.mapCommand v
    | 0xD000C => c.winCommand v
    | 0xD0010 => c.hsWrite off v
    | 0xD0014 => c.hsWrite off v
    | 0xD001C => c.hsWrite off v
    | 0xE0000 => c.estimateWrite off v
    | 0xE0004 => c.estimateWrite off v
    | 0xE0008 => c.estimateWrite off v
    | 0xE0028 => c.estimateWrite off v
    | 0xE0030 => c.rehearseWrite v
    | 0xE0064 => c.engStatWrite v
    | 0xF0210 => c.portCmdWrite v
    | 0x100010 => c.rstPort v
    | 0x100020 => c.rlogRead (v % 2 ^ 32)
    | 0x150404 => c.modeCmdWrite v
    | 0x150008 => c.on (·.write off (v % 2 ^ 31))
    | 0x140004 => c
    | 0x130200 => c.rstCmd v
    | _ => match famIx off 0x40000 0x400 72 with
      | some k => (c.on (·.laneCtrlWrite k v (c.clockFailed (if k < 32 then 13 else if k < 64 then 14 else 15)))).laneWatch
      | none => match famIx off 0x24018 0x40 72 with
        | some l => c.gateData l v
        | none => match famIx off 0x24004 0x40 72 with
          | some l =>
            let c := c.on (·.write off (v % 2 ^ 31))
            if bitOf v 31 then c.gateGo l else c
          | none => match famIx off 0xC0100 0x20 16 with
            | some e => c.ensCommand e v
            | none => match famIx off 0x130120 0x10 16 with
              | some d => c.clkCtrlWrite (d + 2) v
              | none =>
                if 0x82000 ≤ off ∧ off < 0x82400 then c.eqWrite ((off - 0x82000) / 0x80) off v
                else if 0xC1000 ≤ off ∧ off < 0xC1100 then c.tqWrite ((off - 0xC1000) / 0x40) off v
                else if 0xF0100 ≤ off ∧ off < 0xF0180 then c.ringWriteReg (groveRing ((off - 0xF0100) / 0x20)) off v
                else if 0x140400 ≤ off ∧ off < 0x140800 ∧ c.flag BZ_HIF_MBX_BUSY then c
                else c.on (·.write off v)

/-- A crown register write list (R401): in entry order, privilege 3, master 0xFFFF. -/
def Crown.writeList (c : Crown) (l : List (Nat × Nat)) : Crown := l.foldl (fun (c : Crown) e => c.regWrite e.1 e.2 3 0xFFFF) c

end Sys2Proof.Machine
end

