-- ==== Sys2Proof/Machine/Boot.lean ====
section
/-! DEFINITION. A crown's bring-up (spec/16_bring_up.md R404 to R414, R424 to R426; spec/17_modes_degraded.md R430; spec/20_firmware_host.md
R488, R491 to R493). -/

namespace Sys2Proof.Machine

/-! ### Regions of HBM (Table 16.2; log entry 66) -/

/-- A region of the configuration in force: first page and pages, held inside the 156,250,000 pages of HBM. -/
def Crown.region (c : Crown) (kind : Nat) : Nat × Nat :=
  let r := Config.hbmMap (c.sec 14) c.node kind
  let lo := r.1 % 156250000
  (lo, min r.2 (156250000 - lo))

/-- Whether bytes lie in a region. -/
def Crown.inRegion (c : Crown) (kind a n : Nat) : Bool := let r := c.region kind; insidePages (r.1, r.1 + r.2) a n

/-! ### Feature words (R491, R492) -/

/-- The hardware word of a block version, major and minor (Table 20.2); the word of a version that the table does not give, or that the
firmware does not serve, is FEAT (R492; log entry 71). -/
def hwWord (major minor feat : Nat) : Nat := if major = 4 ∧ minor = 0 then 0x3FF else if major = 4 ∧ minor = 1 then 0xFFF else if major = 4 ∧ minor = 2 then 0x3FFF else feat

/-- Four words as one number. -/
def Crown.words4 (c : Crown) (off : Nat) : Nat := (List.range 4).foldl (fun a w => a + (c.toNode.word (off + 4 * w)).toNat * 2 ^ (32 * w)) 0

/-- A number into four words. -/
def Crown.setWords4 (c : Crown) (off v : Nat) : Crown := (List.range 4).foldl (fun (c : Crown) w => c.on (·.setWord (off + 4 * w) (BitVec.ofNat 32 (v / 2 ^ (32 * w))))) c

/-- FEAT of the running firmware. -/
def Crown.featFw (c : Crown) : Nat := c.words4 (BZ_FEAT_FWw 0)

/-- The hardware word of the child on a port, from its capability word (R195, R492). -/
def Crown.childWordOf (c : Crown) (p : Nat) : Nat := let cap := c.g (BK_CAP_FAR_CAP (c.toNode.lb p)); hwWord (bitsOf cap 15 12) (bitsOf cap 11 8) c.featFw

/-- The effective word (R492). -/
def Crown.effWord (c : Crown) : Nat :=
  let kids := (numsWhere 64 c.toNode.up).foldl (fun a p => a &&& c.childWordOf p) (2 ^ 128 - 1)
  let host := if c.hostMode then c.words4 (BZ_FEAT_HOSTw 0) else 2 ^ 128 - 1
  c.words4 (BZ_FEATw 0) &&& c.featFw &&& kids &&& host

/-- Firmware publishes the effective word (R492). -/
def Crown.features (c : Crown) : Crown := if c.fw then c.setWords4 (BZ_FEAT_EFFw 0) c.effWord else c

/-! ### ROM (R404 to R406, R488) -/

/-- The bytes an image names as its own length. -/
def imageOf (raw : List Byte) : List Byte := raw.take (field raw 8 4)

/-- The first check of R405 that an image fails; 0 where it passes. -/
def romCode (img : List Byte) (f : Fuses) (role : Nat) : Nat :=
  let key := slice img 32 97
  let known := (List.range 4).any (fun i => f.digests[i]? == some (Config.sha384 key) && !bitOf f.revoked i)
  let fw := sectionOf img 1
  if field img 0 4 ≠ 0x5EED0C4E ∨ field img 4 1 ≠ 3 then 1
  else if !known then 2
  else if !Config.ecdsaVerify key (Config.sha384 (img.take (field img 8 4 - 96))) (slice img (field img 8 4 - 96) 96) then 3
  else if field img 28 4 < f.rollback then 4
  else if (sections img).any (fun s => decide (crc32c (s.bytes img) ≠ s.crc) || decide ((s.bytes img).length ≠ s.len)) then 5
  else if !bitOf (field img 5 1) role then 6
  else if field img 24 4 > 0x40200 || fw.isEmpty || decide (field fw 4 4 > 1835008) || decide (field fw 8 4 ≥ field fw 4 4)
      || decide (field fw 12 4 > 0x40200) || decide (field fw 16 4 < 0x40200) then 7
  else 0

/-- PHASE (Table 16.11). -/
def Crown.phase (c : Crown) (p : Nat) : Crown := c.s BZ_BOOT_STAT_PHASE p

/-- A mailbox command completes (R494): its response, RESULT, CODE and RLEN stand, and MSI-X vector 0 signals. -/
def Crown.mbxDone (c : Crown) (result code : Nat) (rsp : List Byte) : Crown :=
  let c := (List.range (ceilDiv rsp.length 4)).foldl (fun (c : Crown) i => c.on (·.setWord (BZ_HIF_RSP i) (BitVec.ofNat 32 (field rsp (4 * i) 4)))) c
  let c := (((c.s BZ_HIF_MBX_BUSY 0).s BZ_HIF_MBX_RESULT result).s BZ_HIF_MBX_CODE code).s BZ_HIF_MBX_RLEN rsp.length
  (c.onHost (fun h => { h with cmd := none })).emit (.msix 0)

/-- A mailbox command that a management-core reset broke off ends with STATE (R494). -/
def Crown.mbxBroken (c : Crown) : Crown := if c.bring.host.cmd.isNone then c else c.mbxDone 2 0 []

/-- Firmware starts on an image: FW, its feature word, the watchdog's count, and what has waited for it. -/
def Crown.firmwareStart (c : Crown) (img : List Byte) : Crown :=
  let c := ((c.s BZ_MODE_STAT_FW 1).setWords4 (BZ_FEAT_FWw 0) (field (sectionOf img 1) 20 16)).onHost (fun h => { h with wdogAt := c.ns })
  (((c.onBoot (fun b => { b with rom := img, admitted := false })).phase 2).keepFlush).mbxBroken

/-! ### A configuration applies (R401, R418) -/

/-- The register write lists of the image for this crown, of a section type. -/
def Crown.ownLists (c : Crown) (img : List Byte) (t : Nat) : List (Nat × Nat) := ((listsOf img t).filter (fun e => sameNode e.1 c.node)).flatMap (·.2)

/-- Ensembles of a configuration: images copied to firmware's own region and loaded; what does not fit the region is left out. -/
def Crown.loadEnsembles (c : Crown) (img : List Byte) : Crown :=
  let r := c.region 4
  ((ensemblesAt img c.node).foldl (fun (a : Crown × Nat) x =>
    let (c, at_) := a
    let (_, e, pbase, pcnt, stream, im) := x
    let pages := ceilDiv im.length 4096
    if e ≥ 16 ∨ at_ + pages > r.1 + r.2 then a
    else
      let c := if c.ensState e = 0 then c else c.ensUnload e
      let c := (c.hbmWrite (pageAddr at_) im).s (BZ_ENSe_IMG_PAGE e) at_
      (c.ensCommand e (2 ^ 31 + (stream % 2) * 2 ^ 28 + pcnt % 128 * 256 + pbase % 64), at_ + pages)) (c, r.1)).1

/-- The regions that HBM_MAP gives the window engine and the audit go to their registers. -/
def Crown.placeRegions (c : Crown) : Crown :=
  let h := c.region 0
  let a := c.region 1
  let c := (c.s BZ_HS_BASE_PAGE h.1).s BZ_HS_PAGES_COUNT h.2
  (c.s BZ_AUD_HBM_BASE_PAGE a.1).s BZ_AUD_HBM_PAGES_COUNT a.2

/-- The entry of a port under a new map: once the crown has declared ready no number moves to another die except through Graft (R20), so a port
keeps its part and its number, and one that the old map left out takes a number that no port holds. -/
def Crown.newEntry (c : Crown) (p : Nat) : PortEntry :=
  let e := topoPort c.image c.node p
  let old := c.port p
  if !c.bring.boot.declared then e
  else if old.kind ≠ 0 then { e with kind := old.kind, num := old.num }
  else if e.kind = 1 ∧ (List.range 64).any (fun q => (c.port q).kind == 1 && (c.port q).num == e.num) then { old with list := e.list }
  else e

/-- The topology entries of the configuration in force, and the map of their dies (R402, R351). -/
def Crown.placePorts (c : Crown) : Crown :=
  let c : Crown := { c with ports := (List.range 64).foldl (fun t p => t.set (fun _ => PortEntry.unused) p (c.newEntry p)) [] }
  (List.range 64).foldl (fun (c : Crown) p => if c.toNode.up p then c.dieAppears p else c) c

/-- Plans, feature sets, window plans and a new SEED of the configuration in force, from a moment in µs. -/
def Crown.loadAll (c : Crown) (actUs : Nat) : Crown :=
  let c := c.loadPlans (pieces 32 (c.sec 6)) actUs
  let c := c.loadFsets (fsetsOf c.image)
  let c := (c.loadEnsembles c.image).loadWins (pieces 64 (c.sec 8))
  if c.isTray ∧ !c.basic then c.newSeed else c

/-- A leaf's LEAF_CFG list as REG_WRITE bodies of at most 255 entries (R411, Table 16.9). -/
def Crown.sendList (fuel : Nat) (c : Crown) (p : Nat) (l : List (Nat × Nat)) : Crown :=
  match fuel, l with
  | 0, _ => c
  | _, [] => c
  | n + 1, l =>
    let seq := c.bring.boot.listSeq
    let now := l.take 255
    let c := c.onBoot (fun b => { b with listSeq := (seq + 1) % 2 ^ 32, kids := b.kids.set (fun _ => ChildBoot.reset) p (let k := b.kids.get (fun _ => ChildBoot.reset) p; { k with sent := k.sent + 1 }) })
    Crown.sendList n (c.bulkDown p (byte 0x12 ++ byte now.length ++ zeros 2 ++ le 4 seq ++ now.flatMap (fun e => le 2 e.1 ++ zeros 2 ++ le 4 e.2))) p (l.drop 255)

/-- The list of the leaf on a port. -/
def Crown.sendLeafList (c : Crown) (p : Nat) : Crown := let l := leafList c.image (c.port p).list; c.sendList (l.length + 1) p l

/-- An image replaces the configuration in force, whole (R401, R404, R412, R418); the change reaches the leaves whose list changed. -/
def Crown.applySeed (c : Crown) (img : List Byte) (actUs : Nat) : Crown :=
  let old := c.image
  let dig := Config.sha384 img
  let c := { c with image := img }
  let c := (c.s BZ_SEED_GEN_GEN (seedGen img)).placeRegions
  let c := (List.range 12).foldl (fun (c : Crown) w => c.s (BZ_SEED_DIGESTw_DIGEST w) (field dig (4 * w) 4)) c
  let c := (c.writeList (c.ownLists img 3)).writeList (c.ownLists img 4)
  let c := (c.placePorts.loadAll actUs)
  if !c.isTray ∨ old = [] then c
  else (List.range 64).foldl (fun (c : Crown) p =>
    let k := c.bring.boot.kids.get (fun _ => ChildBoot.reset) p
    if k.acked ∧ leafList old (c.port p).list ≠ leafList img (c.port p).list then c.sendLeafList p else c) c

/-! ### Warm starts (R412, R430) -/

/-- What every warm start does: MGMT, CFG and HIF reset (HIF kept by a load), the rest runs on; a cause of basic mode that it may end ends. -/
def Crown.warmStart (c : Crown) (keepHif : Bool) : Crown :=
  let ready := c.hbmReady
  let c := c.domainReset 2
  let c := if keepHif then c else c.domainReset 16
  let c := c.s BZ_RST_CAUSE_CLKRET (putBits (putBits (c.g BZ_RST_CAUSE_CLKRET) 17 16 0) 2 2 0)
  let c := ((c.domainReset 17).s BZ_BOOT_STAT_WARM 1).s BZ_SEED_GEN_GEN (seedGen c.image)
  let c := c.onBoot (fun b => { b with startNs := c.ns, rom := [], admitted := false })
  if ready ∧ bitOf c.bring.modes.causes 3 then c.dropCause 3 else c

/-- WARM: a write of 1 to BZ_BOOT_CMD.WARM (R412), which also ends cause 4 (Table 17.3). -/
def Crown.warm (c : Crown) : Crown := (if bitOf c.bring.modes.causes 4 then c.dropCause 4 else c).warmStart false

/-- The slot of flash that did not boot (R404). -/
def Crown.otherSlot (c : Crown) (img : List Byte) : Crown :=
  c.onBoot (fun b => if c.flag BZ_BOOT_STAT_SLOT_B then { b with slotA := img } else { b with slotB := img })

/-- A BCAST record (R414). -/
def Crown.bcastRec (c : Crown) (id st excl : Nat) : Crown := c.bootRec 0x72 (le 4 id ++ byte st ++ zeros 3 ++ le 4 excl)

/-- The committed FIRMWARE broadcast whose image the ROM refuses is reported as DIGEST_BAD (R418). -/
def Crown.reportBadFirmware (c : Crown) : Crown :=
  match c.bring.boot.bcast.get (fun _ => none) 0 with
  | none => c
  | some b =>
    if field b.offer 4 1 = 1 ∧ b.tAct.isSome then
      (c.bcastRec (field b.offer 0 4) 1 0).onBoot (fun x => { x with bcast := x.bcast.set (fun _ => none) 0 none })
    else c

/-- Firmware on an image that ROM verified: a warm start onto the image in force skips admission (R412). -/
def Crown.romBoots (c : Crown) (img : List Byte) (slotB : Bool) : Crown :=
  let c := (c.s BZ_BOOT_STAT_SLOT_B (b2n slotB)).firmwareStart img
  let c := c.onBoot (fun x => { x with bcast := x.bcast.filter (fun e => !(e.1 == 0 && (match e.2 with
    | none => false
    | some b => decide (field b.offer 4 1 = 1) && (match b.tAct with
      | none => false
      | some t => decide (t ≤ c.toNode.now))))) })
  let same := c.flag BZ_BOOT_STAT_WARM && (List.range 12).all (fun w => c.g (BZ_SEED_DIGESTw_DIGEST w) == field (Config.sha384 img) (4 * w) 4)
  if same then
    let c := (c.s BZ_SEED_GEN_GEN (seedGen img)).onBoot (fun b => { b with admitted := true })
    let a := c.region 1
    let c := (c.s BZ_AUD_HBM_BASE_PAGE a.1).s BZ_AUD_HBM_PAGES_COUNT a.2
    let c := ((c.writeList (c.ownLists img 4)).phase 5).features
    if bitOf c.bring.modes.causes 2 then c.dropCause 2 else c
  else c

/-- ROM_BOOT (R404 to R406): the slots' bytes as flash holds them, or as given; the image of the greater SEED_GEN first, slot A when equal. In
SOLO role the image at BZ_FW_RUN_PAGE. -/
def Crown.romBoot (c : Crown) (a b : Option (List Byte)) : Crown :=
  let c := c.onBoot (fun x => { x with slotA := a.getD x.slotA, slotB := b.getD x.slotB })
  if c.fw || !c.live 2 then c
  else if c.role = 0 then
    let at_ := pageAddr (c.g BZ_FW_RUN_PAGE_PAGE)
    let head := c.hbmBytes at_ 160
    let img := if !c.bring.boot.soloHeld then [] else c.hbmBytes at_ (field head 8 4 % (2 ^ 24 + 1))
    if img = [] then c
    else
      let code := romCode img c.bring.boot.fuses 0
      if code ≠ 0 then c.s BZ_BOOT_STAT_FAILCODE code else c.romBoots img false
  else
    let f := c.bring.boot.fuses
    let ia := imageOf c.bring.boot.slotA
    let ib := imageOf c.bring.boot.slotB
    let bFirst := decide (seedGen ib > seedGen ia)
    let first := if bFirst then ib else ia
    let other := if bFirst then ia else ib
    let code := romCode first f c.role
    if code = 0 then c.romBoots first bFirst
    else
      let c := (c.s BZ_BOOT_STAT_FAILCODE code).reportBadFirmware
      if romCode other f c.role = 0 then c.romBoots other (!bFirst) else (c.phase 8).addCause 1

/-! ### Cells and HBM (R407, R408) -/

/-- BIST (R407): global physical numbers of the cells it fails; fuses and BIST together form the bad set and the map. -/
def Crown.bist (c : Crown) (bad : List Nat) : Crown :=
  let fused := c.bring.boot.fuses.badCells
  if c.bring.boot.mapped then c
  else
    let cells := (List.range 576).filter (fun g => bad.contains g || fused.contains g)
    let c := cells.foldl (fun (c : Crown) g => c.setBad (g / 144) (g % 144)) c
    let c := cells.foldl (fun (c : Crown) g => if bad.contains g && fused.contains g then c else (c.count BZ_CMAP_DISAGREE_COUNT).logFree) c
    c.formMap.onBoot (fun b => { b with mapped := true })

/-! ### Admission (R424) -/

/-- The outcome of an admission check in its registers. -/
def Crown.admResult (c : Crown) (r : Option Refused) : Crown :=
  let c := c.s BZ_ADM_RESULT_DONE 1
  match r with
  | none => (((c.s BZ_ADM_RESULT_ACCEPT 1).s BZ_ADM_RESULT_CODE 0).s BZ_ADM_RESULT_SECT 0).s BZ_ADM_ITEM_ITEM 0
  | some (code, sect, item) =>
    let c := ((((c.s BZ_ADM_RESULT_ACCEPT 0).s BZ_ADM_RESULT_CODE code).s BZ_ADM_RESULT_SECT sect).s BZ_ADM_ITEM_ITEM item).count BZ_ADM_REFUSED_COUNT
    c.bootRec 0x73 (byte code ++ zeros 1 ++ le 2 sect ++ le 4 item ++ zeros 4)

/-- The checker on this crown's own scope. -/
def Crown.admits (c : Crown) (img : List Byte) : Option Refused := admitImage img c.node c.effWord (c.role == 0) c.top (c.g BZ_TIME_PPS_TOL_TOL)

/-- ADMISSION_CHECK at a start (R424): the image ROM verified is admitted and applied, or refused; a cold start then runs in basic mode. -/
def Crown.admission (c : Crown) : Crown :=
  if c.bring.boot.rom = [] ∨ c.bring.boot.admitted ∨ !c.fw ∨ c.node = 0 then c
  else
    let img := c.bring.boot.rom
    let c := c.phase 3
    match c.admits img with
    | some r =>
      let c := (c.onBoot (fun b => { b with rom := [] })).admResult (some r)
      let c := c.phase 9
      if c.image = [] then c.addCause 2 else c
    | none =>
      let c := ((c.admResult none).onBoot (fun b => { b with admitted := true })).phase 4
      let c := (c.applySeed img c.toNode.nowUs).features
      let c := if bitOf c.bring.modes.causes 2 then c.dropCause 2 else c
      c.phase 5

/-! ### Topology, numbers and lists (R411, R413) -/

/-- What bring-up knows of the child on a port. -/
def Crown.kidBoot (c : Crown) (p : Nat) : ChildBoot := c.bring.boot.kids.get (fun _ => ChildBoot.reset) p

/-- The child of a port changed. -/
def Crown.setKidBoot (c : Crown) (p : Nat) (k : ChildBoot) : Crown := c.onBoot (fun b => { b with kids := b.kids.set (fun _ => ChildBoot.reset) p k })

/-- The result of a port (Table 16.8). -/
def Crown.topoResult (c : Crown) (p : Nat) : Nat :=
  let e := c.port p
  let up := c.toNode.up p
  let cap := c.g (BK_CAP_FAR_CAP (c.toNode.lb p))
  let first := e.num
  let version := bitsOf cap 15 12 * 65536 + bitsOf cap 11 8 * 256
  let used := usedFeatures c.image c.node
  if e.kind = 0 then (if up then 2 else 0)
  else if !up then (if e.kind = 3 then 0 else 1)
  else if bitOf cap 18 == c.isTray then 3
  else if e.kind = 3 ∧ (!bitOf cap 17 ∨ !bitOf cap 16 ∨ (c.toNode.up first ∧ c.farWord first ≠ c.farWord p)) then 4
  else if version < field c.image 24 4 ∨ (c.g BZ_BOOT_STAT_PHASE = 7 ∧ (used &&& c.childWordOf p) ≠ used) then 5
  else if (c.kidBoot p).role then 6
  else 0

/-- ASSIGN to a logical child (R411). -/
def Crown.assignChild (c : Crown) (p : Nat) : Crown := c.sendAssign p (childWord c.node (c.port p).num)

/-- The check of one port: its register, its record where the result changed, and what follows. -/
def Crown.topoPortCheck (c : Crown) (p : Nat) : Crown :=
  let e := c.port p
  let r := c.topoResult p
  let was := c.g (BZ_TOPOp_RESULT p)
  let k := c.kidBoot p
  let c := ((c.s (BZ_TOPOp_RESULT p) r).s (BZ_TOPOp_KIND p) e.kind).s (BZ_TOPOp_NUM p) e.num
  let first := !c.bring.boot.checked
  let c := if r ≠ 0 ∧ (r ≠ was ∨ first) then
    c.bootRec 0x71 (byte p ++ byte r ++ zeros 2 ++ le 4 (c.farWord p) ++ le 4 (c.g (BK_CAP_FAR_CAP (c.toNode.lb p)))) else c
  let c := if !c.toNode.up p then c.setKidBoot p { ChildBoot.reset with excluded := k.excluded } else c
  if r = 0 ∧ c.toNode.up p then
    let c := c.dieAppears p
    if e.kind = 1 ∧ k.assigned.isNone then c.assignChild p else c
  else c

/-- TOPOLOGY_CHECK (R413): every port once the crown's own admission is done, and again at each change. -/
def Crown.topologyCheck (c : Crown) : Crown :=
  if !c.bring.boot.admitted ∨ !c.fw then c
  else
    let c := (List.range 64).foldl Crown.topoPortCheck c
    let c := c.onBoot (fun b => { b with checked := true })
    (if c.g BZ_BOOT_STAT_PHASE < 6 then c.phase 6 else c).features

/-- A lane's state changed: the comparison of R413 is repeated, falls and re-homing are watched. -/
def Crown.portChanged (c : Crown) : Crown := (if c.bring.boot.checked then c.topologyCheck else c).laneWatch.watchUp.flexWatch.followUp

/-- REQ with BC_ID 0 to the parent for the current generation (R420, Table 16.9). -/
def Crown.askCurrent (c : Crown) : Crown := c.bulkUp (byte 3 ++ zeros 3 ++ le 4 0 ++ byte 0 ++ le 2 0 ++ le 2 0xFFFF)

/-- ASSIGN at a crown (R411, R413, R420): the node word when its level fits the role, and ASSIGN_ACK with the generation held. -/
def Crown.assignTaken (c : Crown) (node gen : Nat) : Crown :=
  if c.top then c
  else
    let fits := node = nodeNone ∨ nodeLevel node = c.role
    let word := if node = nodeNone then 0 else nodeKey node
    let c := if fits then { c.s BZ_NODE_WORD word with self := { c.self with selfWord := some (selfLeafWord word) } } else c
    let own := c.g BZ_SEED_GEN_GEN
    let c := c.bulkUp (byte 0x11 ++ byte (b2n !fits) ++ zeros 2 ++ le 4 own)
    if fits ∧ node ≠ nodeNone ∧ own < gen ∧ (c.fw ∨ !c.basic) then c.askCurrent else c

/-- ASSIGN, once its node word, or NONE, is judged (R18, R19). -/
def Crown.assign (c : Crown) (node gen : Nat) : Crown := c.judged [] [node] (·.assignTaken node gen)

/-- A logical child that is present has reported ready (Table 16.6). -/
def Crown.kidReady (c : Crown) (p : Nat) : Bool :=
  let k := c.kidBoot p
  if c.isTray then k.acked && !k.role && k.done == k.sent && k.clean else k.ready && k.gen == c.g BZ_SEED_GEN_GEN

/-- A leaf that readiness had left out and that has taken its lists since is held no longer (R409, R420). -/
def Crown.leafBack (c : Crown) (p : Nat) : Crown :=
  let k := c.kidBoot p
  if k.excluded ∧ c.kidReady p then (c.setKidBoot p { k with excluded := false }).setCond p 13 false else c

/-- ASSIGN_ACK from the child on a port (R411, R413, R420). -/
def Crown.assignAck (c : Crown) (p status gen : Nat) : Crown :=
  let k := c.kidBoot p
  if p ≥ 64 ∨ k.assigned.isNone then c
  else if status ≠ 0 then (c.setKidBoot p { k with acked := true, role := true, assigned := none }).topoPortCheck p
  else
    let c := c.setKidBoot p { k with acked := true, gen := gen }
    if c.isTray then (c.sendLeafList p).leafBack p else c.setCond p 13 (gen != c.g BZ_SEED_GEN_GEN)

/-- REG_DONE from the leaf on a port (R409, R411). -/
def Crown.regDone (c : Crown) (p status : Nat) : Crown :=
  if p ≥ 64 then c
  else
    let k := c.kidBoot p
    if k.done ≥ k.sent then c
    else
      (c.setKidBoot p { k with done := k.done + 1, clean := k.clean && status == 0 }).leafBack p

/-- A child crown's READY record has come (Table 16.6, R420). -/
def Crown.childReady (c : Crown) (node gen : Nat) : Crown :=
  match c.portOfChild node with
  | none => c
  | some p => (c.setKidBoot p { c.kidBoot p with ready := true, gen := gen, excluded := false }).setCond p 13 (gen != c.g BZ_SEED_GEN_GEN)

/-! ### Ready (R409) -/

/-- The crown's own conditions (Table 16.6); HBM is no condition once NOHBM has been declared (R408). -/
def Crown.ownReady (c : Crown) : Bool :=
  c.bring.boot.admitted && c.bring.boot.mapped && c.bring.boot.checked && (c.hbmReady || bitOf c.bring.modes.causes 3)

/-- READY (R409): the conditions hold, or READY_MS has passed and those on children, and on a peer root (log entry 93), are waived; every
logical child that has not reported ready by then is left out and held. -/
def Crown.ready (c : Crown) : Crown :=
  let log := c.logical
  let present := log.filter c.toNode.up
  let kids := (if c.isTray then present else log).all c.kidReady && (c.role ≠ 3 || c.bring.boot.peerReady || !(c.toNode.up 66 || c.toNode.up 67 || c.toNode.up 68 || c.toNode.up 69))
  let late := decide (c.bring.boot.aonNs + c.g BZ_BOOT_CTRL_READY_MS * 1000000 ≤ c.ns)
  if c.g BZ_BOOT_STAT_PHASE = 7 ∨ !c.fw ∨ !c.ownReady ∨ !(kids || late) then c
  else
    let out := if kids then [] else log.filter (fun p => !c.kidReady p)
    let c := out.foldl (fun (c : Crown) p => (c.setKidBoot p { c.kidBoot p with excluded := true }).setCond p 13 true) c
    let ok := (present.filter c.kidReady).length
    let short := decide (ok * 100 < min 100 (c.g BZ_BOOT_CTRL_MIN_PCT) * log.length)
    let c := ((c.s BZ_BOOT_STAT_SHORT (b2n short)).s BZ_BOOT_STAT_BASIC (b2n c.basic)).s BZ_BOOT_TIME_US (min (2 ^ 32 - 1) ((c.ns - c.bring.boot.startNs) / 1000))
    let roll := field c.bring.boot.rom 28 4
    let c := c.onBoot (fun b => { b with fuses := { b.fuses with rollback := max b.fuses.rollback roll } })
    let c := c.onBoot (fun b => { b with declared := true })
    ((c.phase 7).features).readyRec

/-- NOHBM_DEADLINE (R408): 200 ms after the AON reset a controller is not READY. The crown takes basic mode, its READY record with BASIC set, and
is ready where its other conditions hold (Table 16.6). -/
def Crown.nohbm (c : Crown) : Crown :=
  if c.ns < c.bring.boot.aonNs + 200000000 ∨ c.hbmReady ∨ bitOf c.bring.modes.causes 3 then c
  else ((c.s BZ_BOOT_STAT_BASIC 1).addCause 3).ready

end Sys2Proof.Machine
end

