-- ==== Sys2Proof/Machine/Bcast.lean ====
section
/-! DEFINITION. Broadcasts of seeds, firmware and configurations (spec/16_bring_up.md R415 to R421; spec/17_modes_degraded.md R433). -/

namespace Sys2Proof.Machine

/-! ### Fields of an OFFER as it is held: BC_ID on (Table 16.9) -/

/-- BC_ID. -/
def Bcast.id (b : Bcast) : Nat := field b.offer 0 4

/-- BTYPE: 0 SEED, 1 FIRMWARE, 2 CONFIG. -/
def Bcast.btype (b : Bcast) : Nat := field b.offer 4 1

/-- NCHUNK. -/
def Bcast.nchunk (b : Bcast) : Nat := field b.offer 6 2

/-- LEN. -/
def Bcast.len (b : Bcast) : Nat := field b.offer 8 4

/-- DIGEST. -/
def Bcast.digest (b : Bcast) : List Byte := slice b.offer 16 48

/-- ACK_BY as a time word in 2^-32 ns. -/
def Bcast.ackBy (b : Bcast) : Nat := twOf (slice b.offer 64 16)

/-- SCOPE. -/
def Bcast.scope (b : Bcast) : Nat := field b.offer 80 4

/-- The whole, from its chunks in order. -/
def Bcast.whole (b : Bcast) : List Byte := ((List.range b.nchunk).flatMap (fun i => b.chunks.get (fun _ => []) i)).take b.len

/-- Chunks held. -/
def Bcast.have_ (b : Bcast) : Nat := b.chunks.length

/-- The slot of a BTYPE (R426). -/
def slotOfType (t : Nat) : Nat := if t = 2 then 1 else 0

/-- A broadcast held. -/
def Crown.bc (c : Crown) (s : Nat) : Option Bcast := c.bring.boot.bcast.get (fun _ => none) s

/-- A broadcast replaced, with HAVE. -/
def Crown.setBc (c : Crown) (s : Nat) (b : Option Bcast) : Crown :=
  let c := c.onBoot (fun x => { x with bcast := x.bcast.set (fun _ => none) s b })
  match b with
  | none => c
  | some b => (c.s (BZ_BCs_ID_BC_ID s) b.id).s (BZ_BCs_STAT_HAVE s) (min 65535 b.have_)

/-- STATE of a slot. -/
def Crown.bcState (c : Crown) (s v : Nat) : Crown := c.s (BZ_BCs_STAT_STATE s) v

/-- The slot that holds a BC_ID. -/
def Crown.bcSlot (c : Crown) (id : Nat) : Option (Nat × Bcast) :=
  ([0, 1].filterMap (fun s => (c.bc s).map (fun b => (s, b)))).find? (fun x => x.2.id == id)

/-! ### Down the canopy (R416, R419) -/

/-- Lanes to child crowns. -/
def Crown.childLanes (c : Crown) : List Nat := if c.isTray then [] else c.logical.filter c.toNode.up

/-- A body to every child crown; of an OFFER, a CHUNK and a COMMIT the active root sends it to the other root first (R419). A root that is not
active keeps what it hears. -/
def Crown.spread (c : Crown) (body : List Byte) : Crown :=
  if c.role = 3 ∧ !c.activeRoot then c
  else
    let peer := if c.role = 3 ∧ field body 0 1 ≠ 6 then ([66, 67, 68, 69].filter c.toNode.up).take 1 else []
    (peer ++ c.childLanes).foldl (fun (c : Crown) k => c.bulkDown k body) c

/-- REQ upward for missing chunks, counted (R416, Table 16.9). -/
def Crown.bcReq (c : Crown) (s : Nat) (b : Bcast) (first count : Nat) : Crown :=
  let c := c.inc (BZ_BCs_REQS_COUNT s) count
  c.bulkUp (byte 3 ++ zeros 3 ++ le 4 b.id ++ (if b.id = 0 then byte b.btype else []) ++ le 2 first ++ le 2 count)

/-- The runs of chunks that a broadcast lacks: first index and length. -/
def Bcast.lacks (b : Bcast) : List (Nat × Nat) :=
  ((List.range b.nchunk).filter (fun i => (b.chunks.get (fun _ => []) i).isEmpty)).foldr (fun i l => match l with
    | (f, n) :: r => if f = i + 1 then (i, n + 1) :: r else (i, 1) :: l
    | [] => [(i, 1)]) []

/-- What is missing of the broadcasts in progress is asked for: by a crown that has re-homed, of the neighbour that carries its traffic (R419),
and by firmware that returns (R421). -/
def Crown.reqMissing (c : Crown) : Crown :=
  if !c.fw then c
  else [0, 1].foldl (fun (c : Crown) s => match c.bc s with
    | none => c
    | some b => if b.own.isSome ∨ b.origin then c else b.lacks.foldl (fun (c : Crown) r => c.bcReq s b r.1 r.2) c) c

/-- ROM_BOOT with what firmware does on its return (R405, R421). -/
def Crown.boot (c : Crown) (a b : Option (List Byte)) : Crown := let n := c.romBoot a b; if !c.fw ∧ n.fw then n.reqMissing else n

/-- A crown in basic mode takes part in SEED broadcasts alone, and without firmware in none (R433). -/
def Crown.bcTakes (c : Crown) (btype : Nat) : Bool := c.fw && (!c.basic || btype == 0)

/-- OFFER (R416, R421): starts a broadcast, or replaces one of its type with a lower BC_ID. `origin`: it comes from platform software here, to the active root, or as a CONFIG to a crown in host mode. -/
def Crown.offerTaken (c : Crown) (origin : Bool) (body : List Byte) : Crown :=
  let b : Bcast := ⟨(body ++ zeros 84).take 84, origin, [], 0, none, [], 0, false, none, field body 0 4 == 0⟩
  let s := slotOfType b.btype
  let busy : Bool := match c.bc s with
    | none => false
    | some o => !(decide (b.id > o.id) || (o.tAct.isNone && o.id == 0 && b.id == 0))
  let mayStart := if b.btype = 2 then c.hostMode else c.activeRoot
  if b.btype > 2 ∨ !c.bcTakes b.btype ∨ busy ∨ !(if origin then mayStart else inSubtree b.scope c.node) then c
  else
    let c := (c.setBc s (some b)).bcState s 1
    if b.catchUp then c else c.spread (byte 1 ++ zeros 3 ++ b.offer)

/-- OFFER, once its SCOPE is judged (R18). -/
def Crown.offer (c : Crown) (origin : Bool) (body : List Byte) : Crown := c.judged [field body 80 4] [] (·.offerTaken origin body)

/-! ### The whole is there: digest and admission (R416, R417, R424) -/

/-- The configuration that a broadcast would put in force here. -/
def Crown.bcImage (c : Crown) (b : Bcast) : List Byte := if b.btype = 2 then mergeImage c.image b.whole else b.whole

/-- This crown's own STATUS, CODE and ITEM (Table 16.9). -/
def Crown.bcCheck (c : Crown) (b : Bcast) : Nat × Nat × Nat :=
  if c.hbmReady && decide (b.len > 4096 * (c.region 3).2) then (3, 0, 0)
  else if Config.sha384 b.whole ≠ b.digest ∨ b.whole.length ≠ b.len then (1, 0, 0)
  else if b.btype = 1 then (0, 0, 0)
  else if b.btype = 2 && configSections b.whole then (2, 1, 0)
  else match c.admits (c.bcImage b) with
    | none => (0, 0, 0)
    | some (code, _, item) => (2, code, item)

/-- A seed that this crown admits comes into force after its start: cause 2 of basic mode ends (Table 17.3), and a crown whose own seed was
refused goes on to its topology check. -/
def Crown.takeSeed (c : Crown) (img : List Byte) (actUs : Nat) : Crown :=
  let c := c.applySeed img actUs
  let c := if bitOf c.bring.modes.causes 2 then c.dropCause 2 else c
  if c.bring.boot.admitted then c else (c.onBoot (fun b => { b with rom := img, admitted := true })).phase 5

/-- A generation asked for with BC_ID 0 applies on receipt and verification, without the origin's admission (R420). -/
def Crown.catchUp (c : Crown) (b : Bcast) : Crown :=
  let img := b.whole
  let good := decide (Config.sha384 img = b.digest) && romCode img c.bring.boot.fuses c.role == 0
  let r := c.admits img
  let c := (c.setBc 0 none).bcState 0 0
  if !good then c
  else if r.isSome then c.admResult r
  else
    let c := ((c.admResult none).otherSlot img).takeSeed img c.toNode.nowUs
    if c.g BZ_BOOT_STAT_PHASE = 7 then (c.onBoot (fun x => { x with fuses := { x.fuses with rollback := max x.fuses.rollback (field img 28 4) } })).readyRec
    else c

/-- Every chunk is held: the check is done, its registers and a BCAST record where it fails. -/
def Crown.bcWhole (c : Crown) (s : Nat) (b : Bcast) : Crown :=
  if b.have_ < b.nchunk ∨ b.own.isSome then c
  else if b.catchUp then c.catchUp b
  else
    let r := c.bcCheck b
    let c := (c.setBc s (some { b with own := some r })).bcState s 2
    let c := if b.btype = 1 then c else c.admResult (if r.1 = 2 then some (r.2.1, 0, r.2.2) else none)
    if r.1 = 0 then c else c.bcastRec b.id r.1 0

/-- CHUNK (R416): a chunk that fails its CRC is discarded and asked for again; a good one is stored and passed down; a gap before it is asked
for. -/
def Crown.chunk (c : Crown) (body : List Byte) : Crown :=
  let index := field body 4 2
  let clen := field body 6 2
  let data := slice body 12 clen
  match c.bcSlot (field body 0 4) with
  | none => c
  | some (s, b) =>
    if !c.bcTakes b.btype ∨ b.own.isSome ∨ index ≥ b.nchunk ∨ clen = 0 ∨ clen > 4096 then c
    else if data.length ≠ clen ∨ crc32c data ≠ field body 8 4 then c.bcReq s b index 1
    else
      let c := if index > b.top then c.bcReq s b b.top (index - b.top) else c
      let b := { b with chunks := b.chunks.set (fun _ => []) index data, top := max b.top (index + 1) }
      let c := c.setBc s (some b)
      let c := if b.catchUp then c else c.spread (byte 2 ++ zeros 3 ++ body)
      c.bcWhole s b

/-- The seed image in force as flash holds it, for a child that asks for the current generation (R420). -/
def Crown.currentSeed (c : Crown) : List Byte :=
  let a := imageOf c.bring.boot.slotA
  let b := imageOf c.bring.boot.slotB
  let gen := c.g BZ_SEED_GEN_GEN
  if a ≠ [] ∧ seedGen a = gen then a else if b ≠ [] ∧ seedGen b = gen then b else c.image

/-- A chunk of a whole as its body (Table 16.9). -/
def chunkBody (id index : Nat) (data : List Byte) : List Byte := byte 2 ++ zeros 3 ++ le 4 id ++ le 2 index ++ le 2 data.length ++ le 4 (crc32c data) ++ data

/-- BCAST_REQ (R416, R419, R420): chunks of the store to the lane that asks; for BC_ID 0 an OFFER of the current generation (log entry 72) and
its chunks. -/
def Crown.bcastReq (c : Crown) (lane : Nat) (body : List Byte) : Crown :=
  let id := field body 0 4
  if !c.fw then c
  else if id ≠ 0 then
    match c.bcSlot id with
    | none => c
    | some (_, b) =>
      let first := field body 4 2
      (numsWhere (min b.nchunk (first + field body 6 2)) (fun i => decide (first ≤ i))).foldl (fun (c : Crown) i =>
        let d := b.chunks.get (fun _ => []) i
        if d = [] then c else c.bulkDown lane (chunkBody id i d)) c
  else
    let img := c.currentSeed
    let n := ceilDiv img.length 4096
    if img = [] ∨ field body 4 1 ≠ 0 then c
    else
      let first := field body 5 2
      let offer := byte 1 ++ zeros 3 ++ le 4 0 ++ byte 0 ++ byte 0 ++ le 2 n ++ le 4 img.length ++ le 4 (seedGen img) ++ (Config.sha384 img).take 48 ++ zeros 16 ++ le 4 c.node
      let c := if first = 0 then c.bulkDown lane offer else c
      (numsWhere (min n (first + field body 7 2)) (fun i => decide (first ≤ i))).foldl (fun (c : Crown) i => c.bulkDown lane (chunkBody 0 i (slice img (4096 * i) 4096))) c

/-! ### Acknowledgement and commit (R417, R418) -/

/-- ACK (R417): of a child, recorded; of a crown that is not a child, counted here and passed up unchanged. -/
def Crown.ackTaken (c : Crown) (body : List Byte) : Crown :=
  let node := field body 7 4
  let a : BcAck := ⟨(c.portOfChild node).getD 64, node, field body 0 1, field body 11 4, field body 23 1, field body 27 4⟩
  match c.bcSlot (field body 3 4) with
  | none => if c.top then c else c.bulkUp (byte 4 ++ body)
  | some (s, b) =>
    let c := c.setBc s (some { b with acks := b.acks.filter (fun x => !sameNode x.node node) ++ [a] })
    if a.port = 64 ∧ !c.top ∧ !b.origin then c.bulkUp (byte 4 ++ body) else c

/-- ACK, once its sender's node word is judged (R18). -/
def Crown.bcAck (c : Crown) (body : List Byte) : Crown := c.judged [field body 7 4] [] (·.ackTaken body)

/-- The rank of a STATUS: COMPLETE, NO_SPACE, DIGEST_BAD, REFUSED (R417). -/
def statusRank (s : Nat) : Nat := match s with
  | 0 => 0
  | 3 => 1
  | 1 => 2
  | _ => 3

/-- The worst of own and children's STATUS, with its CODE and ITEM. -/
def worstStatus (l : List (Nat × Nat × Nat)) : Nat × Nat × Nat :=
  l.foldl (fun a x => if statusRank x.1 > statusRank a.1 then x else a) (0, 0, 0)

/-- Levels of crowns below this one. -/
def Crown.below (c : Crown) : Nat := if c.role < 2 then 0 else c.role - 1

/-- Child crowns that have not acknowledged, by port. -/
def Crown.silent (c : Crown) (b : Bcast) : List Nat := (if c.isTray then [] else c.logical).filter (fun p => !b.acks.any (fun a => a.port == p))

/-- Crowns that an excluded child stands for: itself and the tray crowns below it that have not acknowledged by a detour (R417; log
entry 73). -/
def Crown.exclusions (c : Crown) (b : Bcast) (p : Nat) : Nat :=
  let w := childWord c.node (c.port p).num
  1 + ((traysBelow c.image w).filter (fun t => nodeLevel w == 2 && !b.acks.any (fun a => sameNode a.node t))).length

/-- ACK_SEND (R417): the own check is done and every child has acknowledged, or is excluded by now. -/
def Crown.ackSend (c : Crown) (s : Nat) : Crown :=
  match c.bc s with
  | none => c
  | some b =>
    let out := c.silent b
    let late := decide (c.toNode.now + 10000000 * c.below * fracPerNs ≥ b.ackBy)
    if b.own.isNone ∨ b.sentAck ∨ b.origin ∨ b.catchUp ∨ c.top ∨ !c.bcTakes b.btype ∨ !(out.isEmpty || late) then c
    else
      let kids := b.acks.filter (fun a => a.port < 64)
      let (st, code, item) := worstStatus ((b.own.getD (0, 0, 0)) :: kids.map (fun a => (a.status, a.code, a.item)))
      let n := kids.foldl (fun a x => a + x.exclN) (out.foldl (fun a p => a + c.exclusions b p) 0)
      let map := out.foldl (fun a p => a ||| 2 ^ (c.port p).num) 0
      let c := (c.setBc s (some { b with sentAck := true, excl := n })).bcState s 3
      let c := c.s (BZ_BCs_EXCL_COUNT s) n
      c.bulkUp (byte 4 ++ byte st ++ zeros 2 ++ le 4 b.id ++ le 4 c.node ++ le 4 n ++ le 8 map ++ byte code ++ zeros 3 ++ le 4 item)

/-- A CONFIG command of the mailbox that waits for a broadcast completes (R495, R497). -/
def Crown.mbxConfigEnds (c : Crown) (id : Nat) (committed : Bool) (code : Nat) : Crown :=
  match c.bring.host.cmd with
  | some m => if field m.bytes 0 1 = 5 ∧ m.waits = id then c.mbxDone (if committed then 0 else 4) code [] else c
  | none => c

/-- ABORT: the broadcast goes, here and below (R418). -/
def Crown.bcAbort (c : Crown) (id : Nat) : Crown :=
  match c.bcSlot id with
  | none => c
  | some (s, _) => ((c.setBc s none).bcState s 5).spread (byte 6 ++ zeros 3 ++ le 4 id)

/-- COMMIT: what holds the whole will apply it at T_ACT, whether or not its parent acknowledged (R418). -/
def Crown.bcCommit (c : Crown) (id tact : Nat) : Crown :=
  match c.bcSlot id with
  | none => c
  | some (s, b) =>
    let c := c.spread (byte 5 ++ zeros 3 ++ le 4 id ++ twBytes tact)
    match b.own with
    | some (0, _) => (c.setBc s (some { b with tAct := some tact })).bcState s 4
    | _ => c

/-- ACK_BY_EXPIRE (R418): at the origin, or the root that has become active: ABORT on any STATUS other than COMPLETE, else COMMIT at least 20 ms
ahead. -/
def Crown.ackByExpire (c : Crown) (s : Nat) : Crown :=
  match c.bc s with
  | none => c
  | some b =>
    let mine := b.origin || (c.activeRoot && b.btype != 2)
    if !mine ∨ b.tAct.isSome ∨ c.toNode.now < b.ackBy ∨ !c.fw then c
    else
      let (st, code, _) := worstStatus ((b.own.getD (0, 0, 0)) :: b.acks.map (fun a => (a.status, a.code, a.item)))
      if st ≠ 0 then (c.bcAbort b.id).mbxConfigEnds b.id false code
      else
        let (more, c) := c.draw 32
        (c.bcCommit b.id (c.toNode.now + 20000000 * fracPerNs + more)).mbxConfigEnds b.id true 0

/-- A CONFIG applies to running registers and plans (R418). -/
def Crown.applyConfig (c : Crown) (conf : List Byte) (actUs : Nat) : Crown :=
  let old := c.image
  let has := fun t => (sections conf).any (fun s => s.typ == t)
  let c := { c with image := mergeImage old conf }
  let c := c.writeList (c.ownLists conf 4)
  let c := if has 6 then c.loadPlans (pieces 32 (c.sec 6)) actUs else c
  let c := if has 6 || has 7 then c.loadFsets (fsetsOf c.image) else c
  let c := if has 9 then c.loadEnsembles c.image else c
  let c := if has 6 || has 7 || has 8 then c.loadWins (pieces 64 (c.sec 8)) else c
  if !c.isTray then c
  else (List.range 64).foldl (fun (c : Crown) p =>
    if (c.kidBoot p).acked ∧ leafList old (c.port p).list ≠ leafList c.image (c.port p).list then c.sendLeafList p else c) c

/-- The committed broadcast of a slot is due, and of one of the types named. -/
def Crown.bcDue (c : Crown) (s : Nat) (p : Nat → Bool) : Option Bcast :=
  (c.bc s).filter (fun b => p b.btype && (match b.tAct with
    | some t => decide (t ≤ c.toNode.now)
    | none => false))

/-- BROADCAST_APPLY (R418, R421): the first due of SEED, CONFIG and FIRMWARE. -/
def Crown.bcApply (c : Crown) : Crown :=
  if !c.fw then c
  else match c.bcDue 0 (· == 0) with
  | some b =>
    let us := (b.tAct.getD 0) / fracPerNs / 1000
    let c := ((c.setBc 0 none).bcState 0 0).otherSlot b.whole
    c.takeSeed b.whole us
  | none => match c.bcDue 1 (fun _ => true) with
    | some b => ((c.setBc 1 none).bcState 1 0).applyConfig b.whole ((b.tAct.getD 0) / fracPerNs / 1000)
    | none => match c.bcDue 0 (· == 1) with
      | some b => (c.otherSlot b.whole).warmStart false
      | none => c

/-- BROADCAST_DISCARD (R419): uncommitted 1 s after ACK_BY. -/
def Crown.bcDiscard (c : Crown) (s : Nat) : Crown :=
  match c.bc s with
  | none => c
  | some b => if b.tAct.isSome ∨ b.catchUp ∨ c.toNode.now < b.ackBy + nsPerSec * fracPerNs then c else ((c.setBc s none).bcState s 0).mbxConfigEnds b.id false 0

end Sys2Proof.Machine
end

