-- ==== Sys2Proof/Machine/CrownJobs.lean ====
section
/-! DEFINITION. Job starts at tray crowns and at the crown that originates them (spec/16_bring_up.md R422, R423; Table 20.4, JOB_START). -/

namespace Sys2Proof.Machine

/-! ### Ways down to a tray crown -/

/-- The lane toward a tray crown: the child's own lane, or the neighbour that carries its traffic since it re-homed (R28, R29, R419, R423). -/
def Crown.jobLane (c : Crown) (t : Nat) : Option Nat :=
  match (c.portToward t).filter c.toNode.up with
  | some p => some p
  | none =>
    let toward := fun (w : Nat) => lowest 64 (fun p => (c.port p).kind == 1 && childWord c.node (c.port p).num == w && c.toNode.up p)
    if c.role = 1 then [66, 67, 68, 69].find? (fun k => c.toNode.up k && sameNode (c.farWord k) t)
    else if c.role = 2 then toward (childWord c.node (bitsOf t 11 6))
    else
      let n := max 1 c.logical.length
      let p := bitsOf t 17 12
      match toward (childWord c.node ((p + 1) % n)) with
      | some k => some k
      | none => toward (childWord c.node ((p + n - 1) % n))

/-- The lane of the leaf that a bit of a MASK names, where it is up. -/
def Crown.leafLane (c : Crown) (i : Nat) : Option Nat := lowest 64 (fun p => (c.port p).kind == 1 && (c.port p).num == i && c.toNode.up p)

/-- A body to each leaf of a mask. -/
def Crown.toLeaves (c : Crown) (mask : Nat) (body : List Byte) : Crown :=
  ((List.range 64).filter (bitOf mask)).foldl (fun (c : Crown) i => match c.leafLane i with
    | some p => c.bulkDown p body
    | none => c) c

/-! ### A tray crown's part (R422, R423) -/

/-- The job starts a tray crown has in hand. -/
def Crown.setMerges (c : Crown) (l : List JobMerge) : Crown := c.onBoot (fun b => { b with merges := l })

/-- A merge replaced. -/
def Crown.putMerge (c : Crown) (m : JobMerge) : Crown := c.setMerges (c.bring.boot.merges.map (fun (x : JobMerge) => if x.job = m.job then m else x))

/-- JOB_ARM at the tray crown that TRAY names (R422): to each leaf in MASK. Bodies stand without OP. -/
def Crown.trayArm (c : Crown) (body : List Byte) : Crown :=
  let m : JobMerge := ⟨field body 3 4, field body 23 4, twOf (slice body 7 16), field body 27 8, c.ns, 0, 0, 0, false, 0, 0⟩
  (c.setMerges (c.bring.boot.merges.filter (fun (x : JobMerge) => x.job != m.job) ++ [m])).toLeaves m.mask (byte 0x20 ++ body)

/-- JOB_ARM at any crown. -/
def Crown.jobArmTaken (c : Crown) (body : List Byte) : Crown :=
  let t := field body 23 4
  if sameNode t c.node ∧ c.isTray then c.trayArm body
  else match c.jobLane t with
    | some k => c.bulkDown k (byte 0x20 ++ body)
    | none => c

/-- JOB_ARM, once its TRAY is judged (R18). -/
def Crown.jobArm (c : Crown) (body : List Byte) : Crown := c.judged [field body 23 4] [] (·.jobArmTaken body)

/-- JOB_GO at any crown: down to its tray, and there to each leaf in MASK (R423). -/
def Crown.jobGoTaken (c : Crown) (body : List Byte) : Crown :=
  let t := field body 7 4
  if sameNode t c.node ∧ c.isTray then c.toLeaves (field body 11 8) (byte 0x22 ++ body)
  else match c.jobLane t with
    | some k => c.bulkDown k (byte 0x22 ++ body)
    | none => c

/-- JOB_GO, once its TRAY is judged (R18). -/
def Crown.jobGo (c : Crown) (body : List Byte) : Crown := c.judged [field body 7 4] [] (·.jobGoTaken body)

/-- JOB_CANCEL at any crown: down to its tray, and there to each leaf that the ARM named (R423). -/
def Crown.jobCancelTaken (c : Crown) (body : List Byte) : Crown :=
  let t := field body 7 4
  let job := field body 3 4
  if sameNode t c.node ∧ c.isTray then
    match c.bring.boot.merges.find? (fun (x : JobMerge) => x.job == job) with
    | some m => (c.toLeaves m.mask (byte 0x23 ++ body)).setMerges (c.bring.boot.merges.filter (fun (x : JobMerge) => x.job != job))
    | none => c
  else match c.jobLane t with
    | some k => c.bulkDown k (byte 0x23 ++ body)
    | none => c

/-- JOB_CANCEL, once its TRAY is judged (R18). -/
def Crown.jobCancel (c : Crown) (body : List Byte) : Crown := c.judged [field body 7 4] [] (·.jobCancelTaken body)

/-! ### The origin's part (R422, R423, Table 20.4) -/

/-- An origin replaced. -/
def Crown.putOrigin (c : Crown) (o : JobOrigin) : Crown :=
  c.onBoot (fun b => { b with origins := b.origins.map (fun (x : JobOrigin) => if x.job = o.job then o else x) })

/-- The origin decides (R423): CANCEL to every tray when ALL = 1 and one is not armed whole, else GO with what is armed. -/
def Crown.jobDecide (c : Crown) (o : JobOrigin) : Crown :=
  if o.decided then c
  else
    let no := o.all && o.trays.any (fun (t : JobTray) => t.armed != t.mask)
    let c := c.putOrigin { o with decided := true, cancelled := no }
    o.trays.foldl (fun (c : Crown) (t : JobTray) =>
      let head := zeros 3 ++ le 4 o.job ++ le 4 t.tray
      if no then c.jobCancel head else c.jobGo (head ++ le 8 t.armed)) c

/-- A tray's JOB_ACK at the origin. -/
def Crown.originAck (c : Crown) (o : JobOrigin) (tray armed : Nat) : Crown :=
  let o := { o with trays := o.trays.map (fun (t : JobTray) => if sameNode t.tray tray then { t with armed := armed &&& t.mask, answered := true } else t) }
  let c := c.putOrigin o
  if o.trays.all (fun (t : JobTray) => t.answered) then c.jobDecide o else c

/-- A tray's answer or report: taken by the origin when this crown is it, else passed up. -/
def Crown.jobUp (c : Crown) (op : Nat) (body : List Byte) : Crown :=
  let tray := field body 7 4
  match c.bring.boot.origins.find? (fun (o : JobOrigin) => o.job == field body 3 4 && o.trays.any (fun (t : JobTray) => sameNode t.tray tray)) with
  | some o =>
    if op = 0x21 then c.originAck o tray (field body 11 8)
    else c.putOrigin { o with trays := o.trays.map (fun (t : JobTray) => if sameNode t.tray tray then { t with started := field body 11 8, missed := field body 19 8 } else t) }
  | none => if c.top then c else c.bulkUp (byte op ++ body)

/-- The merged JOB_ACK of a tray (R422). STATUS is ARMED when every leaf is; otherwise which STATUS stands for the tray is left open: a free
value (log entry 74). -/
def Crown.trayAck (c : Crown) (m : JobMerge) : Crown :=
  let (f, c) := c.draw 2
  let st := if m.armed = m.mask then 0 else f
  (c.putMerge { m with acked := true }).jobUp 0x21 (byte st ++ zeros 2 ++ le 4 m.job ++ le 4 m.tray ++ le 8 m.armed)

/-- JOB_ACK from a downlink (R422): a leaf's is merged and answered upward once every named leaf has answered; a tray's goes to the
origin. -/
def Crown.jobAckTaken (c : Crown) (lane : Nat) (body : List Byte) : Crown :=
  let tray := field body 7 4
  if sameNode tray c.node ∧ c.isTray then
    match c.bring.boot.merges.find? (fun (x : JobMerge) => x.job == field body 3 4) with
    | none => c
    | some m =>
      let bit := 2 ^ (c.port lane).num
      if m.acked ∨ m.mask &&& bit = 0 then c
      else
        let m := { m with answered := m.answered ||| bit, armed := if field body 0 1 = 0 then m.armed ||| bit else m.armed }
        let c := c.putMerge m
        if m.answered = m.mask then c.trayAck m else c
  else c.jobUp 0x21 body

/-- JOB_ACK, once its TRAY is judged (R18). -/
def Crown.jobAck (c : Crown) (lane : Nat) (body : List Byte) : Crown := c.judged [field body 7 4] [] (·.jobAckTaken lane body)

/-- The wait for answers ends (R422): merges whose ARM came 1 ms ago answer upward; an origin that has waited as long decides without the
trays that are silent (log entry 75). -/
def Crown.jobAckWait (c : Crown) : Crown :=
  let c := (c.bring.boot.merges.filter (fun (m : JobMerge) => !m.acked && decide (m.at_ + 1000000 ≤ c.ns))).foldl Crown.trayAck c
  (c.bring.boot.origins.filter (fun (o : JobOrigin) => !o.decided && decide (o.at_ + 1000000 < c.ns))).foldl Crown.jobDecide c

/-- JOB_REPORT from a downlink (R423, Table 16.12): a leaf's is merged and counted; a tray's goes to the origin. -/
def Crown.jobReportTaken (c : Crown) (body : List Byte) : Crown :=
  let tray := field body 7 4
  if sameNode tray c.node ∧ c.isTray then
    match c.bring.boot.merges.find? (fun (x : JobMerge) => x.job == field body 3 4) with
    | none => c
    | some m =>
      let st := field body 11 8
      let mi := field body 19 8
      let c := (c.count BZ_JOB_REPORTS_COUNT).inc BZ_JOB_MISSED_COUNT (popCount mi)
      c.putMerge { m with started := m.started ||| st, missed := m.missed ||| mi }
  else c.jobUp 0x24 body

/-- JOB_REPORT, once its TRAY is judged (R18). -/
def Crown.jobReport (c : Crown) (body : List Byte) : Crown := c.judged [field body 7 4] [] (·.jobReportTaken body)

/-- 1 ms after T_GO each merge's one JOB_REPORT goes up (R423). -/
def Crown.jobReportWait (c : Crown) : Crown :=
  let due := fun (m : JobMerge) => decide (m.tgo + 1000000 * fracPerNs ≤ c.toNode.now)
  let l := c.bring.boot.merges.filter due
  let c := c.setMerges (c.bring.boot.merges.filter (fun m => !due m))
  l.foldl (fun (c : Crown) (m : JobMerge) => c.jobUp 0x24 (zeros 3 ++ le 4 m.job ++ le 4 m.tray ++ le 8 m.started ++ le 8 m.missed)) c

/-- Firmware originates a start (R422): one JOB_ARM per tray. -/
def Crown.jobOriginate (c : Crown) (all : Bool) (job tgo : Nat) (payload : List Byte) (trays : List (Nat × Nat)) : Crown :=
  let o : JobOrigin := ⟨job, all, tgo, payload, c.ns, trays.map (fun t => (⟨t.1, t.2, 0, false, 0, 0⟩ : JobTray)), false, false⟩
  let c := c.onBoot (fun b => { b with origins := b.origins.filter (fun (x : JobOrigin) => x.job != job) ++ [o] })
  trays.foldl (fun (c : Crown) (t : Nat × Nat) =>
    c.jobArm (byte (b2n all) ++ zeros 2 ++ le 4 job ++ twBytes tgo ++ le 4 t.1 ++ le 8 t.2 ++ (payload ++ zeros 16).take 16)) c

/-- JOB_START_DONE (Table 20.4): 2 ms after T_GO the mailbox command completes with what the trays reported. -/
def Crown.jobStartDone (c : Crown) : Crown :=
  match c.bring.host.cmd with
  | none => c
  | some m =>
    match c.bring.boot.origins.find? (fun (o : JobOrigin) => o.job == m.waits) with
    | none => c
    | some o =>
      if field m.bytes 0 1 ≠ 6 ∨ c.toNode.now < o.tgo + 2000000 * fracPerNs then c
      else
        let sum := fun (f : JobTray → Nat) => o.trays.foldl (fun a t => a + popCount (f t)) 0
        (c.onBoot (fun b => { b with origins := b.origins.filter (fun (x : JobOrigin) => x.job != o.job) })).mbxDone 0 0
          (le 4 (sum (·.started)) ++ le 4 (sum (·.missed)) ++ byte (b2n o.cancelled))

end Sys2Proof.Machine
end

