-- ==== Sys2Proof/Machine/Views.lean ====
section
/-! DEFINITION. Tenant views: creation, dispatch, freezing, saving and restoring, and their copies (spec/20_firmware_host.md R498 to R505). -/

namespace Sys2Proof.Machine

/-! ### A view's fields (Table 20.6) -/

/-- What a view has beyond its registers. -/
def Crown.tenant (c : Crown) (v : Nat) : View := c.bring.host.views.get (fun _ => View.none) v

/-- A view's own part replaced. -/
def Crown.setTenant (c : Crown) (v : Nat) (x : View) : Crown := c.onHost (fun h => { h with views := h.views.set (fun _ => View.none) v x })

/-- STATE of a view: 0 UNUSED, 1 ACTIVE, 2 FROZEN. -/
def Crown.viewState (c : Crown) (v : Nat) : Nat := c.g (BZ_Vv_STAT_STATE v)

/-- Descriptors of a view in flight, over its rings. -/
def Crown.viewFlights (c : Crown) (v : Nat) : Nat := (List.range 3).foldl (fun a r => a + c.g (BZ_Vv_RINGr_STAT_INFLIGHT v r)) 0

/-- The fields of Table 20.6 at which a view is refused with RANGE (R498): the window outside the view region or over another view's, a write
window outside the read window, cells outside 0 to 511, or a field outside the range its table gives. -/
def Crown.viewRange (c : Crown) (x : List Byte) : Bool :=
  let v := field x 0 1
  let lo := field x 4 4
  let n := field x 8 4
  let r := c.region 6
  let others := (List.range 64).filter (fun o => o != v && c.viewState o != 0)
  decide (v > 63) || decide (field x 2 2 > 4095) || decide (lo < r.1) || decide (lo + n > r.1 + r.2)
    || decide (field x 12 4 + field x 16 4 > n) || field x 22 2 == 0 || decide (field x 20 2 + field x 22 2 > 512) || field x 26 1 == 0
    || others.any (fun o => let w := c.viewReads o; decide (lo < w.2) && decide (w.1 < lo + n))

/-- The feature that views need (R493, R498). -/
def Crown.viewFeature (c : Crown) : Bool := bitOf (c.words4 (BZ_FEAT_EFFw 0)) 12

/-- Whether firmware takes a view command now (R498, R505). -/
def Crown.viewHost (c : Crown) : Bool := c.hostMode && c.fw

/-- The RESULT with which a view's fields are refused (R498; the order among several reasons is log entry 76). -/
def Crown.viewRefused (c : Crown) (x : List Byte) : Nat :=
  if !c.viewHost then 2 else if !c.viewFeature then 7
  else if field x 0 1 < 64 ∧ c.viewState (field x 0 1) ≠ 0 then 2 else if c.viewRange x then 3 else 0

/-- A view takes its fields (Table 20.6). -/
def Crown.viewSet (c : Crown) (x : List Byte) (state : Nat) : Crown :=
  let v := field x 0 1
  let c := c.setTenant v ⟨field x 26 1, false, field x 12 4, field x 16 4⟩
  let c := (((c.s (BZ_Vv_RLO_PAGE v) (field x 4 4)).s (BZ_Vv_RPAGES_COUNT v) (field x 8 4)).s (BZ_Vv_WIN_W_WOFF v) (field x 12 4)).s (BZ_Vv_WIN_W_WPAGES v) (field x 16 4)
  let c := (((c.s (BZ_Vv_CELLS_CB v) (field x 20 2)).s (BZ_Vv_CELLS_CN v) (field x 22 2)).s (BZ_Vv_ENS_MASK v) (field x 24 2)).s (BZ_Vv_SCOPE_NODE v) (field x 28 4)
  ((c.s (BZ_Vv_STAT_RADIO_OK v) (field x 1 1 % 2)).s (BZ_Vv_STAT_TENANT v) (field x 2 2)).s (BZ_Vv_STAT_STATE v) state

/-- VIEW_CREATE (R498). -/
def Crown.viewCreate (c : Crown) (x : List Byte) : Crown :=
  let r := c.viewRefused x
  if r ≠ 0 then c.mbxDone r 0 [] else (c.viewSet x 1).mbxDone 0 0 []

/-! ### Freezing (R501) -/

/-- A view that freezes is FROZEN once nothing of it is in flight and its copy has ended; a command that waits for it completes. -/
def Crown.freezeCheck (c : Crown) (v : Nat) : Crown :=
  let x := c.tenant v
  if !x.freezing ∨ c.viewFlights v ≠ 0 ∨ c.flag (BZ_Vv_DMA_CTRL_BUSY v) then c
  else
    let c := (c.setTenant v { x with freezing := false }).s (BZ_Vv_STAT_STATE v) 2
    match c.bring.host.cmd with
    | some m => if field m.bytes 0 1 = 0x12 ∧ field m.bytes 4 1 = v then c.mbxDone 0 0 [] else c
    | none => c

/-- An ACTIVE view begins to freeze. -/
def Crown.freeze (c : Crown) (v : Nat) : Crown := (c.setTenant v { c.tenant v with freezing := true }).freezeCheck v

/-- VIEW_FREEZE: completes when the view is FROZEN; a view that is not ACTIVE ends it with STATE. -/
def Crown.viewFreeze (c : Crown) (v : Nat) : Crown :=
  if !c.viewHost ∨ v > 63 ∨ c.viewState v ≠ 1 then c.mbxDone 2 0 []
  else if !c.viewFeature then c.mbxDone 7 0 []
  else c.freeze v

/-- VIEW_THAW and VIEW_DESTROY: a FROZEN view becomes ACTIVE or UNUSED; STATE otherwise. -/
def Crown.viewLeave (c : Crown) (v state : Nat) : Crown :=
  if !c.viewHost ∨ v > 63 ∨ c.viewState v ≠ 2 then c.mbxDone 2 0 []
  else if !c.viewFeature then c.mbxDone 7 0 []
  else (c.s (BZ_Vv_STAT_STATE v) state).mbxDone 0 0 []

/-! ### Saving and restoring (R502, R503, Table 20.7) -/

/-- A ring as a blob holds it. -/
def Crown.ringSaved (c : Crown) (v r : Nat) : List Byte :=
  let x := viewRing v r
  let lo := c.g (BZ_Vv_RLO_PAGE v)
  let off := fun (p : Nat) => le 4 ((p + 2 ^ 32 - lo) % 2 ^ 32)
  off (c.g x.base) ++ byte (c.g x.size) ++ byte (c.g x.en) ++ le 2 (c.g x.tail) ++ le 2 (c.g x.head) ++ zeros 2 ++ off (c.g x.cplBase)
    ++ le 2 (c.g x.cplHead) ++ le 2 (c.g x.cplTail) ++ zeros 4

/-- The first 28 bytes of a view's fields, with RLO and CB as 0. -/
def Crown.fieldsSaved (c : Crown) (v : Nat) : List Byte :=
  let x := c.tenant v
  byte v ++ byte (c.g (BZ_Vv_STAT_RADIO_OK v)) ++ le 2 (c.g (BZ_Vv_STAT_TENANT v)) ++ zeros 4 ++ le 4 (c.g (BZ_Vv_RPAGES_COUNT v)) ++ le 4 x.wOff
    ++ le 4 x.wPages ++ zeros 2 ++ le 2 (c.g (BZ_Vv_CELLS_CN v)) ++ le 2 (c.g (BZ_Vv_ENS_MASK v)) ++ byte x.maxOut ++ zeros 1

/-- The blob of a view (Table 20.7). -/
def Crown.viewBlob (c : Crown) (v : Nat) (hostData : List Byte) : List Byte :=
  let b := le 4 0x56494557 ++ le 2 1 ++ zeros 2 ++ le 4 (304 + hostData.length) ++ le 4 c.node ++ le 16 (c.words4 (BZ_FEAT_EFFw 0)) ++ twBytes c.toNode.now
    ++ c.fieldsSaved v ++ le 4 (c.g BZ_SEED_GEN_GEN) ++ (List.range 3).flatMap (c.ringSaved v) ++ zeros 100 ++ le 4 hostData.length ++ hostData
  b ++ Config.sha384 b

/-- VIEW_SAVE (R502): once HOSTDATA has come from the host's memory, the blob goes to host memory; none until then. -/
def Crown.viewSave (c : Crown) (p : List Byte) (hostData : Option (List Byte)) : Crown :=
  let v := field p 0 1
  let len := field p 20 4
  if !c.viewHost ∨ v > 63 ∨ c.viewState v ≠ 2 then c.mbxDone 2 0 []
  else if !c.viewFeature then c.mbxDone 7 0 []
  else if len > 65232 then c.mbxDone 5 0 []
  else match hostData with
    | none => c
    | some h => if h.length ≠ len then c else (c.emit (.host (field p 4 8) (c.viewBlob v h))).mbxDone 0 0 []

/-- A ring of a restored view: EN only where the ring lies in the windows, else ERR (R499, R503). -/
def Crown.ringRestored (c : Crown) (v r : Nat) (b : List Byte) : Crown :=
  let x := viewRing v r
  let lo := c.g (BZ_Vv_RLO_PAGE v)
  let c := ((c.s x.size (field b 4 1)).s x.base ((field b 0 4 + lo) % 2 ^ 28)).s x.cplBase ((field b 12 4 + lo) % 2 ^ 28)
  let c := (((c.s x.tail (field b 6 2)).s x.head (field b 8 2)).s x.cplHead (field b 16 2)).s x.cplTail (field b 18 2)
  if field b 5 1 % 2 = 0 then c.s x.en 0 else if c.viewRingFits v r then c.s x.en 1 else (c.s x.en 0).s x.ovr 1

/-- Whether a blob is bad (R503). -/
def blobBad (b : List Byte) : Bool :=
  let n := field b 252 4
  field b 0 4 != 0x56494557 || field b 4 2 != 1 || decide (n > 65232) || field b 8 4 != 304 + n || decide (b.length < 304 + n)
    || decide (Config.sha384 (b.take (256 + n)) ≠ slice b (256 + n) 48)

/-- VIEW_RESTORE with the blob that the host's memory holds, none until it has come (R503). -/
def Crown.viewRestore (c : Crown) (p : List Byte) (bytes : Option (List Byte)) : Crown :=
  let blob := bytes.getD []
  let fields := byte (field p 0 1) ++ slice blob 49 3 ++ slice p 12 4 ++ slice blob 56 12 ++ slice p 16 2 ++ slice blob 70 2 ++ slice p 18 2 ++ slice blob 74 2 ++ slice p 20 4
  if !c.viewHost then c.mbxDone 2 0 []
  else if bytes.isNone then c
  else if blobBad blob then c.mbxDone 6 0 []
  else if field blob 16 16 &&& c.words4 (BZ_FEAT_EFFw 0) ≠ field blob 16 16 then c.mbxDone 7 0 []
  else
    let r := c.viewRefused fields
    if r ≠ 0 then c.mbxDone r 0 []
    else
      let v := field p 0 1
      let c := c.viewSet fields 2
      ((List.range 3).foldl (fun (c : Crown) r => c.ringRestored v r (slice blob (80 + 24 * r) 24)) c).mbxDone 0 0 []

/-! ### The dispatcher (R499, R500) -/

/-- The queue a view ring feeds. -/
def dispatchQueue (r : Nat) : Ring := if r = 0 then jobRing (eqBase 6) else if r = 1 then jobRing (tqBase 2) else groveRing 1

/-- The descriptors of a ring's next turn: one, or one whole chain; none when nothing is pending. -/
def Crown.turnOf (c : Crown) (v r : Nat) : Option (List (List Byte)) :=
  let x := viewRing v r
  if !c.flag x.en then none
  else if r = 0 then (chainAt 65536 c x 0).map (fun l => (List.range l.length).map (fun i => c.hbmBytes (c.slotAddr x i) 128))
  else if c.ringHeld x = 0 then none
  else some [c.hbmBytes (c.slotAddr x 0) x.slot]

/-- The view and ring of the next turn: the first ACTIVE view after the one last served that holds a pending descriptor and fewer than MAXOUT
in flight; of its rings the one asked for where it has one pending, else the lowest (log entry 77). -/
def Crown.nextTurn (c : Crown) (want : Nat) : Option (Nat × Nat) :=
  let order := (List.range 64).map (fun i => (c.bring.host.served + 1 + i) % 64)
  let may := fun v => c.viewState v == 1 && !(c.tenant v).freezing && decide (c.viewFlights v < (c.tenant v).maxOut)
  let pending := fun v => (List.range 3).filter (fun r => (c.turnOf v r).isSome)
  match order.find? (fun v => may v && !(pending v).isEmpty) with
  | none => none
  | some v => some (v, if (pending v).contains want then want else (pending v).headD 0)

/-- Pages of a view's window as R258 bounds a queue's: both inclusive; an empty window holds no byte. -/
def windowHas (w : Nat × Nat) (s : Nat × Nat) : Bool := insidePages w s.1 s.2

/-- The checks of an engine descriptor (R499): windows and cells. -/
def Crown.viewEngOk (c : Crown) (v : Nat) (d : List Byte) : Bool :=
  let cb := c.g (BZ_Vv_CELLS_CB v)
  (jReads d).all (windowHas (c.viewReads v)) && windowHas (c.viewWrites v) (jWrites d)
    && (jOp d == 2 || (decide (cb ≤ jCb d) && decide (jCb d + jCn d ≤ cb + c.g (BZ_Vv_CELLS_CN v))))

/-- The checks of a tree descriptor (R499): slot and windows, with the rows of the ensemble its slot holds. -/
def Crown.viewTreeOk (c : Crown) (v : Nat) (d : List Byte) : Bool :=
  let n := tNvec d
  bitOf (c.g (BZ_Vv_ENS_MASK v)) (tEns d) && (match c.ensemble (tEns d) with
    | none => true
    | some x =>
      windowHas (c.viewReads v) (rowSpan (tVec d) n (tVstride d) (4 * iNfeat x.img)) && (tKey d == 0 || windowHas (c.viewReads v) (tKey d, 4 * n))
        && windowHas (c.viewWrites v) (rowSpan (tOut d) n (sstride (iNout x.img)) (36 + 4 * iNout x.img)))

/-- The checks of a placement request (R499). -/
def Crown.viewReqOk (c : Crown) (v : Nat) (d : List Byte) : Bool :=
  inSubtree (c.g (BZ_Vv_SCOPE_NODE v)) (qScope d) && (!qRadio d || c.flag (BZ_Vv_STAT_RADIO_OK v)) && qJob d != 0 && decide (qJob d < 2 ^ 24)

/-- Whether a turn passes the dispatcher. -/
def Crown.turnOk (c : Crown) (v r : Nat) (l : List (List Byte)) : Bool :=
  l.all (fun d => if r = 0 then c.viewEngOk v d else if r = 1 then c.viewTreeOk v d else c.viewReqOk v d)

/-- The completion the dispatcher writes for a descriptor that fails: BADDESC or BADREQ (R499). -/
def Crown.badCompletion (c : Crown) (r : Nat) (d : List Byte) : List Byte :=
  let now := c.toNode.stamp
  if r = 0 then cplRecord d 2 0 0 0 6 now now 0
  else if r = 1 then cplRecord (zeros 88 ++ slice d 40 8) 2 0 0 0 2 now now 0
  else c.response d 3 0 false c.node 0

/-- Where a ring's descriptors carry their tag, and its bytes. -/
def tagAt (r : Nat) : Nat × Nat := if r = 0 then (88, 8) else if r = 1 then (40, 8) else (12, 4)

/-- Bytes written over others. -/
def patch (l : List Byte) (i : Nat) (b : List Byte) : List Byte := l.take i ++ b ++ l.drop (i + b.length)

/-- A descriptor as it is passed on (R499, R500): its own tag; FSET of a tree job; JOB of a placement request. -/
def passedOn (v r own : Nat) (d : List Byte) : List Byte :=
  let (i, n) := tagAt r
  let d := patch d i (le n own)
  if r = 1 then patch d 48 (le 2 0xFFFF) else if r = 2 then patch d 8 (le 4 (0x80000000 + v * 2 ^ 24 + qJob d)) else d

/-- One descriptor is passed to its queue. -/
def Crown.passOne (c : Crown) (v r : Nat) (d : List Byte) : Crown :=
  let own := c.bring.host.nextTag
  let (i, n) := tagAt r
  match c.postDesc (dispatchQueue r) (passedOn v r own d) with
  | none => c
  | some c =>
    let c := c.onHost (fun h => { h with nextTag := (own + 1) % 2 ^ 32, flights := h.flights ++ [⟨v, r, slice d i n, le n own⟩] })
    c.s (BZ_Vv_RINGr_STAT_INFLIGHT v r) (c.g (BZ_Vv_RINGr_STAT_INFLIGHT v r) + 1)

/-- VIEW_DISPATCH (R499, R500): one turn. It waits while the target queue, or for a descriptor that fails the view's completion ring, is
full. -/
def Crown.viewDispatch (c : Crown) (want : Nat) : Crown :=
  match c.nextTurn want with
  | none => c
  | some (v, r) =>
    match c.turnOf v r with
    | none => c
    | some l =>
      let x := viewRing v r
      let q := dispatchQueue r
      let served := fun (c : Crown) => (c.advanceHead x l.length).onHost (fun h => { h with served := v })
      if c.turnOk v r l then
        if c.ringHeld q + l.length > c.ringN q then c
        else ((l.foldl (fun (c : Crown) d => c.passOne v r d) (served c)).engRescan).treeRescan
      else if c.cplFree x < l.length then c
      else (l.foldl (fun (c : Crown) d => c.writeCpl x (c.badCompletion r d)) (served c)).emit (.msix v)

/-- VIEW_COMPLETION (R500): the next completion of the dispatcher's queue goes to its view's ring with the view's own tag; one that finds its
view UNUSED is discarded and counted. -/
def Crown.viewCompletion (c : Crown) (r : Nat) : Crown :=
  let q := dispatchQueue r
  if r > 2 ∨ c.g q.cplHead = c.g q.cplTail then c
  else
    let rec_ := c.hbmBytes (pageAddr (c.g q.cplBase) + c.g q.cplHead % c.ringN q * q.cslot) q.cslot
    let at_ := if r = 2 then 4 else 0
    let n := (tagAt r).2
    let c' := (c.touch (pageAddr (c.g q.cplBase) + c.g q.cplHead % c.ringN q * q.cslot) q.cslot).s q.cplHead (c.g q.cplHead + 1)
    match c.bring.host.flights.find? (fun (f : ViewFlight) => f.ring == r && f.own == slice rec_ at_ n) with
    | none => c'
    | some f =>
      let c' := c'.onHost (fun h => { h with flights := h.flights.filter (fun (g : ViewFlight) => g != f) })
      let v := f.view
      if c.viewState v = 0 then c'.count BZ_HIF_DISP_DROP_COUNT
      else if c.cplFree (viewRing v r) = 0 then c
      else
        let c' := c'.s (BZ_Vv_RINGr_STAT_INFLIGHT v r) (c.g (BZ_Vv_RINGr_STAT_INFLIGHT v r) - 1)
        ((c'.writeCpl (viewRing v r) (patch rec_ at_ f.tag)).emit (.msix v)).freezeCheck v

/-! ### Copies (R504) -/

/-- VIEW_DMA_DONE: the copy ends. Into HBM, `bytes` are what host memory holds, LEN of them. -/
def Crown.dmaDone (c : Crown) (v : Nat) (bytes : List Byte) : Crown :=
  let len := c.g (BZ_Vv_DMA_LEN_LEN v)
  let a := pageAddr (c.viewReads v).1 + c.g (BZ_Vv_DMA_OFF_OFF v)
  let haddr := c.g (BZ_Vv_DMA_HADDR_L_HADDR_LO v) + 2 ^ 32 * c.g (BZ_Vv_DMA_HADDR_H_HADDR_HI v)
  if v > 63 ∨ !c.flag (BZ_Vv_DMA_CTRL_BUSY v) then c
  else if c.flag (BZ_Vv_DMA_CTRL_TO_HBM v) then
    if bytes.length ≠ len then c else ((c.hbmWrite a bytes).s (BZ_Vv_DMA_CTRL_BUSY v) 0).freezeCheck v
  else (((c.touch a len).emit (.host haddr (c.hbmBytes a len))).s (BZ_Vv_DMA_CTRL_BUSY v) 0).freezeCheck v

end Sys2Proof.Machine
end

