-- ==== Sys2Proof/Machine/HostPort.lean ====
section
/-! DEFINITION. Firmware loading, the watchdog, the host mailbox and host mode (spec/20_firmware_host.md R489, R490, R494 to R497; R466, R464),
and the writes that start them. -/

namespace Sys2Proof.Machine

/-! ### Loading (R489) -/

/-- The outcome of a load. -/
def Crown.loadResult (c : Crown) (r : Nat) : Crown := c.s BZ_FW_LOAD_CTRL_RESULT r

/-- Pages an image takes. -/
def imagePages (n : Nat) : Nat := ceilDiv n 4096

/-- Bytes at BZ_FW_RUN_PAGE that the running image has; 0 when none is held. -/
def Crown.runLen (c : Crown) : Nat := if c.bring.boot.soloHeld then field (c.hbmBytes (pageAddr (c.g BZ_FW_RUN_PAGE_PAGE)) 160) 8 4 else 0

/-- FW_LOAD_GO (R489): refused with NOHBM, LENGTH or OVERLAP; else a warm start that spares HIF, and ROM verifies the staged image. The loader
serves the SOLO role alone. -/
def Crown.fwLoadGo (c : Crown) : Crown :=
  let page := c.g BZ_FW_LOAD_PAGE_PAGE
  let run := c.g BZ_FW_RUN_PAGE_PAGE
  let len := c.g BZ_FW_LOAD_LEN_BYTES
  let head := c.hbmBytes (pageAddr page) 160
  if c.role ≠ 0 ∨ c.flag BZ_FW_LOAD_CTRL_BUSY then c
  else if !c.hbmReady then c.loadResult 1
  else if len < 160 ∨ len ≠ field head 8 4 then c.loadResult 2
  else if c.runLen ≠ 0 ∧ page < run + imagePages c.runLen ∧ run < page + imagePages len then c.loadResult 4
  else
    let c := c.warmStart true
    let c := c.touch (pageAddr page) len
    let img := c.hbmBytes (pageAddr page) len
    let code := romCode img c.bring.boot.fuses 0
    if code = 0 then
      let c := ((c.loadResult 0).s BZ_FW_RUN_PAGE_PAGE page).onBoot (fun b => { b with soloHeld := true })
      (c.romBoots img false).dropCause 6
    else
      let c := ((c.loadResult 3).s BZ_BOOT_STAT_FAILCODE code).romBoot none none
      if c.fw then c else c.addCause 6

/-! ### The watchdog (R490) -/

/-- The image that ROM last booted. -/
def Crown.lastImage (c : Crown) : List Byte :=
  if c.role = 0 then c.hbmBytes (pageAddr (c.g BZ_FW_RUN_PAGE_PAGE)) c.runLen
  else imageOf (if c.flag BZ_BOOT_STAT_SLOT_B then c.bring.boot.slotB else c.bring.boot.slotA)

/-- A reset of the management core alone: ROM verifies the image it last booted and starts it, without a CFG or HIF reset. -/
def Crown.mgmtReset (c : Crown) : Crown :=
  let admitted := c.bring.boot.admitted
  let phase := c.g BZ_BOOT_STAT_PHASE
  let img := c.lastImage
  let c := c.domainReset 2
  if romCode img c.bring.boot.fuses c.role = 0 then ((c.firmwareStart img).onBoot (fun b => { b with admitted := admitted })).phase phase
  else c.romBoot none none

/-- WDOG_EXPIRE: the count has reached PERIOD_MS with EN = 1 while firmware executes (R490, R430). -/
def Crown.wdogExpire (c : Crown) : Crown :=
  let period := max 1 (c.g BZ_WDOG_CTRL_PERIOD_MS) * 1000000
  if !c.fw ∨ !c.flag BZ_WDOG_CTRL_EN ∨ c.ns < c.bring.host.wdogAt + period ∨ !c.live 1 then c
  else
    let c := (c.count BZ_WDOG_FIRED_COUNT).onHost (fun h => { h with wdogAt := c.ns })
    if !c.flag BZ_BOOT_CMD_WARM_ON_WD then c.mgmtReset
    else
      let limit := c.g BZ_MODE_CMD_BASIC_WD
      let now := c.toNode.now
      let at_ := (c.bring.modes.warmAt.filter (fun t => decide (now < t + 60 * nsPerSec * fracPerNs))) ++ [now]
      let c := (c.onModes (fun m => { m with warmAt := at_ })).warmStart false
      if limit ≠ 0 ∧ at_.length ≥ limit ∧ !bitOf c.bring.modes.causes 4 then c.addCause 4 else c

/-! ### Host mode (R496) -/

/-- HOST to NORMAL: the host's queues and rings stop, every ACTIVE view freezes. -/
def Crown.hostLeave (c : Crown) : Crown :=
  if c.role = 0 ∨ !c.hostMode then c
  else (List.range 64).foldl (fun (c : Crown) v => if c.viewState v = 1 then c.freeze v else c) (c.setMode 0)

/-- HOST_ENTER: bit 11 stands in the effective word with the host's own word in it (R492). -/
def Crown.hostEnter (c : Crown) : Crown :=
  if c.role = 0 ∨ !c.flag BZ_HIF_CTRL_HOST_OK ∨ c.g BZ_MODE_STAT_MODE ≠ 0 then c.mbxDone 2 0 []
  else if !bitOf (c.effWord &&& c.words4 (BZ_FEAT_HOSTw 0)) 11 then c.mbxDone 7 0 []
  else ((c.setMode 1).features).mbxDone 0 0 []

/-- HOST_EXIT. -/
def Crown.hostExit (c : Crown) : Crown := if c.role = 0 ∨ !c.hostMode then c.mbxDone 2 0 [] else c.hostLeave.mbxDone 0 0 []

/-- PCIE_LINK_DOWN_TIMEOUT: the link has been down for 1 s. -/
def Crown.linkDown (c : Crown) : Crown := (c.s BZ_HIF_CTRL_LINK 0).hostLeave

/-! ### The commands (Table 20.4) -/

/-- FEATURES. -/
def Crown.mbxFeatures (c : Crown) : Crown := c.mbxDone 0 0 (le 16 (c.words4 (BZ_FEAT_EFFw 0)) ++ le 16 c.featFw ++ le 16 (c.words4 (BZ_FEAT_HOSTw 0)))

/-- MOVE begins, or ends with RANGE. -/
def Crown.moveStart (c : Crown) (p : List Byte) : Crown :=
  let len := field p 20 4
  if field p 0 1 > 1 ∨ len % 64 ≠ 0 ∨ !c.inRegion 5 (field p 12 8) len then c.mbxDone 3 0 [] else c

/-- MOVE_DONE: the copy ends; toward HBM, `bytes` are what host memory holds. -/
def Crown.moveDone (c : Crown) (bytes : List Byte) : Crown :=
  match c.bring.host.cmd with
  | none => c
  | some m =>
    let p := m.bytes.drop 4
    let a := field p 12 8
    let len := field p 20 4
    if field m.bytes 0 1 ≠ 4 then c
    else if field p 0 1 = 0 then (if bytes.length ≠ len then c else (c.hbmWrite a bytes).mbxDone 0 0 [])
    else ((c.touch a len).emit (.host (field p 4 8) (c.hbmBytes a len))).mbxDone 0 0 []

/-- The BC_ID firmware gives its next broadcast: above what it has given and what is in progress (R421). -/
def Crown.nextBcId (c : Crown) : Nat := max c.bring.host.nextBc (match c.bc 1 with
  | none => 1
  | some b => b.id + 1)

/-- CONFIG (R497): admitted on the crown's own scope, then broadcast to its subtree; the command waits for COMMIT or ABORT. ACK_BY is at least
100 ms ahead (R416); how far beyond is open: a free value. -/
def Crown.configCommand (c : Crown) (p : List Byte) : Crown :=
  let a := field p 0 8
  let len := field p 8 4
  if !c.hostMode then c.mbxDone 2 0 []
  else
    let c := c.touch a len
    let conf := c.hbmBytes a len
    if configSections conf then (c.admResult (some (1, 0, 0))).mbxDone 4 1 []
    else match c.admits (mergeImage c.image conf) with
      | some r =>
        let (code, _, _) := r
        (c.admResult (some r)).mbxDone 4 code []
      | none =>
        let c := c.admResult none
        let id := c.nextBcId
        let n := ceilDiv len 4096
        let (more, c) := c.draw 32
        let c := c.onHost (fun h => { h with nextBc := id + 1, cmd := h.cmd.map (fun m => { m with waits := id }) })
        let by_ := c.toNode.now + 100000000 * fracPerNs + more
        let c := c.offer true (le 4 id ++ byte 2 ++ zeros 1 ++ le 2 n ++ le 4 len ++ le 4 (c.g BZ_SEED_GEN_GEN) ++ Config.sha384 conf ++ twBytes by_ ++ le 4 c.node)
        (List.range n).foldl (fun (c : Crown) i => c.chunk ((chunkBody id i (slice conf (4096 * i) 4096)).drop 4)) c

/-- JOB_START (R422): originates the start, and waits for its end. A start that firmware may not originate (no tray, a tray outside its subtree,
T_GO less than 2 ms ahead) ends with a RESULT that nothing states: a free value other than OK (log entry 78). -/
def Crown.jobStartCommand (c : Crown) (p : List Byte) : Crown :=
  let job := field p 4 4
  let tgo := twOf (slice p 8 16)
  let n := field p 40 2
  let trays := (List.range n).map (fun i => (field p (44 + 12 * i) 4, field p (48 + 12 * i) 8))
  if n = 0 ∨ n > 64 ∨ tgo < c.toNode.now + 2000000 * fracPerNs ∨ trays.any (fun t => !inSubtree c.node t.1) then
    (let (f, c) := c.draw 16
     c.mbxDone (1 + f % 7) 0 [])
  else
    let c := c.onHost (fun h => { h with cmd := h.cmd.map (fun m => { m with waits := job }) })
    c.jobOriginate (field p 0 1 % 2 == 1) job tgo (slice p 24 16) trays

/-- Bytes of payload a command has (Table 20.4); none for a number that is no command. -/
def payloadOf (p : List Byte) (cmd : Nat) : Option Nat :=
  match cmd with
  | 0x01 => some 0
  | 0x02 => some 0
  | 0x03 => some 0
  | 0x04 => some 24
  | 0x05 => some 12
  | 0x06 => some (44 + 12 * field p 40 2)
  | 0x10 => some 32
  | 0x11 => some 1
  | 0x12 => some 1
  | 0x13 => some 1
  | 0x14 => some 24
  | 0x15 => some 24
  | _ => none

/-- A command that BUSY covers runs (Table 20.4). -/
def Crown.mbxRun (c : Crown) (cmd : Nat) (p : List Byte) : Crown :=
  match cmd with
  | 0x01 => c.mbxFeatures
  | 0x02 => c.hostEnter
  | 0x03 => c.hostExit
  | 0x04 => c.moveStart p
  | 0x05 => c.configCommand p
  | 0x06 => c.jobStartCommand p
  | 0x10 => c.viewCreate p
  | 0x11 => c.viewLeave (field p 0 1) 0
  | 0x12 => c.viewFreeze (field p 0 1)
  | 0x13 => c.viewLeave (field p 0 1) 1
  | 0x14 => c.viewSave p none
  | 0x15 => c.viewRestore p none
  | _ => c.mbxDone 1 0 []

/-- A write of 1 to BZ_HIF_MBX.GO (R494): nothing while BUSY; STATE at once while firmware does not run. A PLEN that is not the command's own
ends with BADCMD (log entry 79). -/
def Crown.mbxGo (c : Crown) : Crown :=
  if c.flag BZ_HIF_MBX_BUSY then c
  else if !c.fw then c.mbxDone 2 0 []
  else
    let bytes := (List.range 256).flatMap (fun i => le 4 (c.toNode.word (BZ_HIF_CMD i)).toNat)
    let cmd := field bytes 0 1
    let len := field bytes 2 2
    let p := slice bytes 4 len
    let c := (c.s BZ_HIF_MBX_BUSY 1).onHost (fun h => { h with cmd := some ⟨bytes.take (4 + len), 0⟩ })
    if payloadOf p cmd = some len ∧ len ≤ 1020 then c.mbxRun cmd p else c.mbxDone 1 0 []

/-- A host that writes a command into the buffer and starts it (R494). -/
def Crown.mailbox (c : Crown) (cmd : Nat) (p : List Byte) : Crown :=
  if c.flag BZ_HIF_MBX_BUSY ∨ !c.live 17 then c
  else
    let bytes := byte cmd ++ zeros 1 ++ le 2 p.length ++ p
    let c := (List.range (min 256 (ceilDiv bytes.length 4))).foldl (fun (c : Crown) i => c.on (·.setWord (BZ_HIF_CMD i) (BitVec.ofNat 32 (field bytes (4 * i) 4)))) c
    (c.s BZ_HIF_CTRL_LINK 1).mbxGo

/-- The waiting command of a number: its payload. -/
def Crown.mbxWaits (c : Crown) (cmd : Nat) : Option (List Byte) := (c.bring.host.cmd.filter (fun m => field m.bytes 0 1 == cmd)).map (fun m => m.bytes.drop 4)

/-- VIEW_SAVE: issued where it does not wait already, and completed with HOSTDATA from host memory. -/
def Crown.viewSaveCommand (c : Crown) (p hostData : List Byte) : Crown :=
  let c := if (c.mbxWaits 0x14).isSome then c else c.mailbox 0x14 p
  match c.mbxWaits 0x14 with
  | some p => c.viewSave p (some hostData)
  | none => c

/-- VIEW_RESTORE: issued where it does not wait already, and completed with the blob from host memory. -/
def Crown.viewRestoreCommand (c : Crown) (p blob : List Byte) : Crown :=
  let c := if (c.mbxWaits 0x15).isSome then c else c.mailbox 0x15 p
  match c.mbxWaits 0x15 with
  | some p => c.viewRestore p (some blob)
  | none => c

/-! ### Alerts and PHY requests (R464, R466) -/

/-- PMBUS_ALERT: firmware reads STATUS_WORD of each regulator, in the order of the seed's list. -/
def Crown.pmbusAlert (c : Crown) (words : List Nat) : Crown :=
  if !c.fw then c
  else c.onHost (fun h => { h with pmbus := (List.range words.length).foldl (fun t i => t.set (fun _ => 0) i (words.getD i 0 % 65536)) h.pmbus })

/-- DFI_PHY_REQUEST: a request of the PHY at controller `k` is granted, or ends. -/
def Crown.dfiRequest (c : Crown) (k : Nat) (on : Bool) : Crown :=
  if k > 7 then c else c.onHost (fun h => { h with dfi := h.dfi.set (fun _ => none) k (if on then some ((h.dfi.get (fun _ => none) k).getD c.ns) else none) })

/-- A request is in force at some controller: it issues no command, and engine and tree reads wait (R464). -/
def Crown.dfiHolds (c : Crown) : Bool := (List.range 8).any (fun k => (c.bring.host.dfi.get (fun _ => none) k).isSome)

/-! ### The window as masters write it -/

/-- A write of the crown window by the host, the management core or a view: every register's own effect, and the bits that start a warm start,
a load or a mailbox command (R412, R489, R494). An access over PCIe shows that its link is up (log entry 80). -/
def Crown.busWrite (c : Crown) (off v priv mid : Nat) : Crown :=
  let c := if off % 4 = 0 ∧ (mid = 1 ∨ (0x40 ≤ mid ∧ mid < 0x80)) then c.s BZ_HIF_CTRL_LINK 1 else c
  let ok := c.live 17
  let loads := c.flag BZ_FW_LOAD_CTRL_BUSY
  let c := c.regWrite off v priv mid
  if mid ≥ 0x40 ∨ !ok then c
  else match off with
    | 0x150008 => if bitOf v 31 then c.warm else c
    | 0x110010 => if bitOf v 31 ∧ !loads then c.fwLoadGo else c
    | 0x140004 => if bitOf v 31 then c.mbxGo else c
    | _ => c

/-- A read of the crown window by a master. -/
def Crown.busRead (c : Crown) (off priv mid : Nat) : Nat × Crown :=
  (if off % 4 = 0 ∧ (mid = 1 ∨ (0x40 ≤ mid ∧ mid < 0x80)) then c.s BZ_HIF_CTRL_LINK 1 else c).regRead off priv mid

end Sys2Proof.Machine
end

