-- ==== Sys2Proof/Machine/CrownLink.lean ====
section
/-! DEFINITION. What a crown does with the frames it receives (spec/06_sap_streams.md R142, R148 to R151; spec/09_reduction_traffic.md R229,
R235; Table 6.3). Lane 72 is the internal path of the self leaf. -/

namespace Sys2Proof.Machine

/-! ### Streams that fall silent (R149) -/

/-- DEAD of a lane's class changes: recorded in the Ring log, and Grove reads C0 of a port as the loss of its inputs. TYPE and body of that
record are not given (log entry 63). -/
def Crown.setDead (c : Crown) (k cls : Nat) (on : Bool) : Crown :=
  let d := c.g (BZ_SAPRXk_STAT_DEAD k)
  if bitOf d cls = on ∨ k ≥ 72 then c
  else
    let c := (c.s (BZ_SAPRXk_STAT_DEAD k) (putBits d cls cls (b2n on))).logFree
    if cls = 0 ∧ k < 64 then c.healthInput k 0 [] else c

/-- The node words the far-end block of a lane may send as SRC: a leaf's logical word once it has a number and its port's PHYS word before
(R142), on its second lane as on its first; a crown's own word. -/
def Crown.farSrcs (c : Crown) (k : Nat) : List Nat :=
  if k < 64 ∧ c.isTray then physNode c.node k :: (if (c.port k).numbered then [childWord c.node (c.port k).num] else []) else [c.farWord k]

/-- DEAD (R149): nothing of the class from the far end's own SRC for DEAD_US. -/
def Crown.deadCheck (c : Crown) (k cls : Nat) : Crown :=
  let heard := ((c.rx.filter (fun s => s.cls == cls && (c.farSrcs k).any (sameNode s.src))).map (·.heard)).foldl max 0
  if k ≥ 72 ∨ cls > 7 ∨ c.ns < heard + c.g BZ_SAP_DEAD_US_US * 1000 then c else c.setDead k cls true

/-! ### Bulk bodies by OP (Tables 7.3 and 16.9) -/

/-- A bulk body from a lane. -/
def Crown.takeBulk (c : Crown) (lane : Nat) (b : List Byte) : Crown :=
  let down := decide (lane < 64)
  let top := decide (64 ≤ lane ∧ lane < 66)
  let peer := decide (66 ≤ lane ∧ lane < 70)
  let mir := if lane < 64 then lane else if lane = 72 then 64 else 65
  match field b 0 1 with
  | 0x01 => if top || peer then c.offer false (b.drop 4) else c
  | 0x02 => if top || peer then c.chunk (b.drop 4) else c
  | 0x03 => if down || peer then c.bcastReq lane (b.drop 4) else c
  | 0x04 => if down || peer then c.bcAck (b.drop 1) else c
  | 0x05 => if top || peer then c.bcCommit (field b 4 4) (twOf (slice b 8 16)) else c
  | 0x06 => if top || peer then c.bcAbort (field b 4 4) else c
  | 0x10 => if top then c.assign (field b 4 4) (field b 8 4) else c
  | 0x11 => if down then c.assignAck lane (field b 1 1) (field b 4 4) else c
  | 0x13 => if down then c.regDone lane (field b 1 1) else c
  | 0x20 => if top || peer then c.jobArm (b.drop 1) else c
  | 0x21 => if down || peer then c.jobAck lane (b.drop 1) else c
  | 0x22 => if top || peer then c.jobGo (b.drop 1) else c
  | 0x23 => if top || peer then c.jobCancel (b.drop 1) else c
  | 0x24 => if down || peer then c.jobReport (b.drop 1) else c
  | 0x40 => if top || peer then c.ownRing b else c
  | 0x41 => if down || peer || lane == 72 then c.ringReply mir b else c
  | 0x43 => if top || peer then c.ownRing b else c
  | 0x44 => if top || peer then c.ownRing b else c
  | 0x45 => if down then c.sendUp (plainRec 0x0C 7 b) else if top || peer then c.mirrorRead (field b 4 4) (field b 8 4) (field b 12 4) else c
  | _ => c

/-! ### Records by class (R150, Table 6.3) -/

/-- A C0 record as its crown uses it: one stamped before its leaf's step is corrected with the Δ that the leaf has reported (R47). -/
def Crown.c0Body (c : Crown) (lane : Nat) (b : List Byte) : List Byte :=
  if field b 17 1 % 4 ≠ 3 then b
  else match c.red.deltas.get (fun _ => none) (nodeKey (c.portWord lane)) with
    | none => b
    | some d => overwrite (overwrite b 0 (twBytes ((twOf (b.take 16) : Int) + d).toNat)) 17 (byte (putBits (field b 17 1) 1 0 1))

/-- A GUARD record of a die (R47, R338, R352, R438). -/
def Crown.takeGuard (c : Crown) (lane : Nat) (b : List Byte) : Crown :=
  let b := c.c0Body lane b
  let c := if field b 17 1 % 4 = 3 ∧ field b 16 1 = 0x12 then c.onRed (fun r => { r with early := r.early ++ [(lane, twOf (b.take 16))] }) else c
  ((c.healthInput lane 1 b).audGrant lane b).rhGuardRec lane b

/-- The Δ of a leaf corrects the grants its records gave before the step (R47). -/
def Crown.lateDelta (c : Crown) (p : Nat) (d : Int) : Crown :=
  let mine := c.red.early.filter (fun e => e.1 == p)
  let c := c.onRed (fun r => { r with early := r.early.filter (fun e => e.1 != p) })
  (c.portEngines p).foldl (fun (c : Crown) x => match x.2.grantedAt with
    | some t => if mine.contains (p, t) then c.setEng p x.1 { x.2 with grantedAt := some ((t : Int) + d).toNat } else c
    | none => c) c

/-- A TSTATUS: re-originated with its NODE unchanged; the FAULT of a die reaches Grove; Δ of the first after a step is kept (R47, R150,
R151). -/
def Crown.statusTaken (c : Crown) (lane : Nat) (cls : Nat) (b : List Byte) : Crown :=
  let node := field b 16 4
  let st := field b 20 1
  let c := if cls = 1 then c.sendUp (plainRec 6 1 b) else c
  let c := if lane < 64 ∧ sameNode node (c.portWord lane) then c.healthInput lane 2 (byte (b2n (bitOf st 4))) else c
  let d := sgn 64 (field b 40 8) * nsPerSec * fracPerNs + (field b 36 4 : Int) * fracPerNs + (field b 32 4 : Int)
  if bitOf st 6 then c
  else
    let old := c.red.deltas.get (fun _ => none) (nodeKey node)
    let v := if bitOf st 3 then some (old.getD d) else none
    let c := c.onRed (fun r => { r with deltas := r.deltas.set (fun _ => none) (nodeKey node) v })
    if old.isNone ∧ v.isSome ∧ lane < 64 ∧ c.isTray then c.lateDelta lane d else c

/-- A TSTATUS, once its NODE is judged (R18). -/
def Crown.takeStatus (c : Crown) (lane : Nat) (cls : Nat) (b : List Byte) : Crown := c.judged [field b 16 4] [] (·.statusTaken lane cls b)

/-- A leaf's sweep, SENSOR or BIN_CLOSE record as its crown reads it: one stamped before its leaf's step is corrected with the Δ that the leaf
has reported (R47, R210). -/
def Crown.inBody (c : Crown) (r : InRec) : List Byte :=
  let q := if r.kind = 1 then 21 else 17
  let x := field r.body q 1
  if x % 4 ≠ 3 then r.body
  else match c.red.deltas.get (fun _ => none) (nodeKey r.src) with
    | none => r.body
    | some d => overwrite (overwrite r.body 0 (twBytes ((twOf (r.body.take 16) : Int) + d).toNat)) q (byte (putBits x 1 0 1))

/-- A record of C4, or a BIN_CLOSE, of a leaf or a child crown, once the crown ingests it (R210 to R212). -/
def Crown.takeCounters (c : Crown) (r : InRec) : Crown :=
  if r.kind = 0x0F then c.takeRed r.lane r.body
  else if r.kind = 1 ∨ r.kind = 3 ∨ (r.kind = 2 ∧ field r.body 16 1 = 1) then
    let r := { r with body := c.inBody r }
    let c := c.ingest r.src r.boot r.kind r.body
    if r.kind = 3 ∧ r.lane < 64 ∧ c.isTray then (c.ageSample r.lane r.body).audTemp r.lane r.body
    else if r.kind = 3 ∧ r.lane = 72 then c.ageSample 64 r.body
    else c
  else c

/-- Inputs are read: EN = 1 and the crown's time has stepped; else they wait in the ingress buffer (R210). -/
def Crown.ingesting (c : Crown) : Bool := c.flag BZ_RED_CTRL_EN && c.toNode.stepped && c.live 3

/-- What waits in the ingress buffer is read, oldest first. -/
def Crown.ingestWaiting (c : Crown) : Crown :=
  if !c.ingesting ∨ c.red.waiting.isEmpty then c
  else c.red.waiting.foldl Crown.takeCounters (c.onRed (fun r => { r with waiting := [] }))

/-- The node words of a record of KIND 0x0F (Table 9.4): NODE, a SHIFT's TARGET, and the FAR of a FLEX, which may be NONE. -/
def redNodes (b : List Byte) : List Nat × List Nat :=
  (field b 20 4 :: (if field b 16 1 = 0x33 then [field b 28 4] else []), if field b 16 1 = 0x34 then [field b 28 4] else [])

/-- A C4 record arrives: one that carries a malformed node word is discarded (R18). -/
def Crown.arriveCounters (c : Crown) (r : InRec) : Crown :=
  let (ws, os) := if r.kind = 0x0F then redNodes r.body else ([], [])
  c.judged ws os fun c => if c.ingesting then (c.ingestWaiting).takeCounters r else c.onRed (fun x => { x with waiting := x.waiting ++ [r] })

/-- A POWER_UP of the leaf on a port, with the resets it names (R168, R333, R347): operating seconds are restored, samples in hand end, and the
audit's CONFIG, which the leaf's reset has cleared, is sent again. -/
def Crown.takePowerUp (c : Crown) (p bits : Nat) : Crown :=
  if !c.isTray ∨ p ≥ 64 then c
  else ((c.powerUpOf p bits).audPowerUp p).sendConfig p (if c.basic then 0 else c.g BZ_AUD_THRESH_THRESH)

/-- A Ring log record of a child, the self leaf or the other root: mirrored; a POWER_UP of a leaf restarts what the crown keeps of it (R168,
R171, R333, R347). -/
def Crown.takeRing (c : Crown) (lane : Nat) (b : List Byte) : Crown :=
  let k := if lane < 64 then lane else if lane = 72 then 64 else 65
  let c := c.mirrorBytes k false b
  match RingRec.parse b with
  | none => c
  | some r => if r.typ = 1 then c.takePowerUp lane (field r.body 0 1) else c

/-- The node words of a C5 record by its KIND: NODE, a Burl's and a Grove record's ORIGIN, a TOPO record's NODE_FAR, which may be NONE (Tables
11.5, 12.5 and 14.2, R119, R414). -/
def eventNodes (kind : Nat) (b : List Byte) : List Nat × List Nat :=
  match kind with
  | 0x0D => ([field b 20 4], [])
  | 0x0E => ([field b 20 4, field b 24 4], [])
  | 0x10 => ([field b 20 4], [])
  | 0x11 => (field b 20 4 :: (match field b 16 1 with
      | 0x60 => [field b 36 4]
      | 0x61 => [field b 32 4]
      | 0x62 => [field b 44 4]
      | 0x63 => [field b 44 4]
      | 0x65 => [field b 56 4]
      | 0x66 => [field b 56 4]
      | _ => []), [])
  | 0x12 => ([field b 20 4], if field b 16 1 = 0x71 then [field b 28 4] else [])
  | _ => ([], [])

/-- A C5 record whose node words hold: findings are re-originated, and reach the units that act on them (R150). -/
def Crown.eventTaken (c : Crown) (lane : Nat) (f : Frame) (kind : Nat) (b : List Byte) : Crown :=
  match kind with
  | 0x02 => c.arriveCounters ⟨lane, 2, f.src, f.boot, b⟩
  | 0x0A => c.takeRing lane b
  | 0x0D => c.sendUp (plainRec 0x0D 5 b)
  | 0x0E => (c.sendUp (plainRec 0x0E 5 b)).groveBurl b
  | 0x10 => c.sendUp (plainRec 0x10 5 b)
  | 0x11 => c.takeGrove lane b
  | 0x12 =>
    let c := c.sendUp (plainRec 0x12 5 b)
    if field b 16 1 = 0x70 then c.childReady (field b 20 4) (field b 24 4) else c
  | _ => c

/-- A C5 record, once its node words are judged (R18). -/
def Crown.takeEvent (c : Crown) (lane : Nat) (f : Frame) (kind : Nat) (b : List Byte) : Crown :=
  let (ws, os) := eventNodes kind b
  c.judged ws os (·.eventTaken lane f kind b)

/-- The node words of an audit record (Tables 13.3 and 13.9): NODE, and a VERDICT's ORIGIN. -/
def auditNodes (b : List Byte) : List Nat := field b 20 4 :: (if field b 16 1 = 0x5C then [field b 68 4] else [])

/-- A record that is not a time message, by the class of its frame. -/
def Crown.takeRecord (c : Crown) (lane : Nat) (f : Frame) (kind : Nat) (b : List Byte) : Crown :=
  let die := decide (lane < 64) && c.isTray
  match f.cls with
  | 0 =>
    if kind = 4 ∧ die then c.takeGuard lane b
    else if kind = 6 then c.takeStatus lane 0 b else c
  | 1 => if kind = 6 then c.takeStatus lane 1 b else c
  | 2 => if kind = 7 ∧ die then c.relayRecord lane b else c
  | 3 => if kind = 8 then c.judged (auditNodes b) [] (·.takeAudit lane b) else c
  | 4 => c.arriveCounters ⟨lane, kind, f.src, f.boot, b⟩
  | 5 => c.takeEvent lane f kind b
  | 7 => if kind = 0x0C then c.takeBulk lane b else c
  | _ => c

/-- What a crown acts on of a frame it carries for a crown that is not its child (R229): bulk bodies of a broadcast, a job or the other root,
Ring log records of the other root, and the partials of the pod it stands in for (R371). -/
def Crown.guestRecord (c : Crown) (lane : Nat) (f : Frame) (kind : Nat) (b : List Byte) : Crown :=
  match f.cls with
  | 4 => if c.flag BZ_GRV_GUEST_ACTIVE ∧ kind = 0x0F then c.arriveCounters ⟨lane, kind, f.src, f.boot, b⟩ else c
  | 5 => if c.role = 3 ∧ kind = 0x0A then c.takeRing lane b else c
  | 7 => if kind = 0x0C then c.takeBulk lane b else c
  | _ => c

/-! ### A frame (R142, R148, R229, R235) -/

/-- Bytes of a lane's ingress share that weighted frames may take (R235). -/
def ingShare (k : Nat) : Nat := (if k < 64 then 768 else 512) * 1024 - 65536

/-- The tray crown a word names, or the one above the leaf it names. -/
def trayWord (n : Nat) : Nat := if nodeLevel n = 0 then trayOf n else n

/-- Whether R28 makes a tray crown a ring neighbour of another: the same number in the next or the previous pod, of the pods present. -/
def Crown.ringNeighbour (c : Crown) (a b : Nat) : Bool :=
  let pods := ((topoRecord c.image 0xC0000000).getD []).filter (fun e => e.kind == 1)
  let n := if pods.length = 0 then 64 else pods.length
  let pa := bitsOf a 17 12
  let pb := bitsOf b 17 12
  nodeLevel a == 1 && nodeLevel b == 1 && bitsOf a 11 6 == bitsOf b 11 6 && ((pa + 1) % n == pb || (pb + 1) % n == pa)

/-- R142 at a tray crown's downlink: the frame with its SRC as the port's, or none where SRC names another leaf. On a pod crown's downlink the
frames of that tray crown and of its ring neighbours are taken, and those that come from below them (R229). -/
def Crown.srcOf (c : Crown) (lane : Nat) (f : Frame) : Option Frame :=
  if lane < 64 ∧ nodeLevel c.node = 2 then
    (let t := trayWord f.src
     let own := c.portWord lane
     if nodeLevel t ≠ 1 ∨ bitOf f.src 27 ∨ sameNode t own ∨ c.ringNeighbour t own then some f else none)
  else if lane ≥ 64 ∨ !c.isTray then some f
  else if bitOf f.src 27 then some { f with src := physNode c.node lane }
  else if nodeLevel f.src = 0 ∧ (!(c.port lane).numbered ∨ f.src ≠ childWord c.node (c.port lane).num) then none
  else some f

/-- Records just delivered from a lane act, as from the lane `as_` of the child they come from; time messages stay in `delivered` for their own
commands (R150). -/
def Crown.drain (c : Crown) (lane as_ : Nat) (f : Frame) (guest : Bool) : Crown :=
  let ds := c.delivered
  let now := fun (d : Nat × Nat × List Byte) => d.1 == lane && d.2.1 != 5
  let c := c.on (fun n => { n with delivered := ds.filter (fun d => !now d) })
  (ds.filter now).foldl (fun (c : Crown) d => if guest then c.guestRecord lane f d.2.1 d.2.2 else c.takeRecord as_ f d.2.1 d.2.2) c

/-- A frame that passed its own tests: judged against its source, forwarded whole where its class or its way asks for it, and its records
act. A repeated frame does nothing. On a peer or flex lane, a frame from below this crown counts as its child's (R228, R229). -/
def Crown.frameJudged (c : Crown) (lane : Nat) (f : Frame) : Crown :=
  let peer := decide (66 ≤ lane ∧ lane < 72)
  let child := if peer then c.portToward f.src else none
  let far := peer && child.isNone
  let as_ := child.getD lane
  let (_, s) := c.toNode.rxKnow lane f
  let again := decide (seqDiff f.seq s.next < 0)
  let c := ((List.range 72).filter (fun k => bitOf (c.g (BZ_SAPRXk_STAT_DEAD k)) f.cls && (c.farSrcs k).any (sameNode f.src))).foldl
    (fun (c : Crown) k => c.setDead k f.cls false) c
  let c := c.on (fun n => (n.rxJudge lane f).1)
  if again then c
  else
    let c := c.count (BZ_SAPRXk_FRAMES_COUNT lane)
    let whole := far || f.cls == 0 || f.cls == 2 || f.cls == 6
    let c := if whole ∧ (far ∨ as_ < 64 ∨ lane = 72) then c.forwardUp f else c
    let c := c.drain lane as_ f far
    if lane < 64 ∧ (f.cls = 0 ∨ f.cls = 5) then c.healthInput lane 4 [] else c

/-- FRAME_RECEIVE at a crown; what arrives while NOC is in reset or has no clock is discarded (R485; log entry 94). -/
def Crown.frameReceive (c : Crown) (lane : Nat) (l : List Byte) : Crown :=
  if lane > 72 ∨ !(c.toNode.up lane || lane == 72) ∨ !c.live 3 then c
  else
    let (n, r) := c.toNode.rxAccept lane l
    let c : Crown := { c with toNode := n }
    match r with
    | none => c
    | some f =>
      match c.srcOf lane f with
      | none => c.count (BZ_SAPRXk_SRCBAD_COUNT lane)
      | some f =>
        if f.cls ≥ 3 ∧ lane < 72 ∧ c.ingFill lane + f.len > ingShare lane then c.count (BZ_ING_DROPk_COUNT lane)
        else
          let c := c.on (fun n => if 66 ≤ lane ∧ lane < 70 ∧ (n.lane lane).farNoUp ∧ !f.hb then n.setLane lane { n.lane lane with carried := true } else n)
          c.frameJudged lane f

end Sys2Proof.Machine
end

