-- ==== Sys2Proof/Machine/State.lean ====
section
/-! DEFINITION. The state of the block: one leaf (Tezen) as a die holds it, one crown (Bazaim) with its self leaf, and the commands that wait. -/

namespace Sys2Proof.Machine

/-- Why the block stops. -/
inductive Fault where
  /-- Raised by a command, or a tick, that makes a unit of the crown read or write an HBM address at or above 640,000,000,000, which R256 says does not
  exist. Safe: the model stops where the spec gives no effect. -/
  | hbmAddress
  deriving DecidableEq, Repr

/-- Why a command is turned away. -/
inductive Refusal where
  /-- Raised by an arm of `exec` whose command has no meaning yet. Safe. -/
  | notModelled (mnemonic : String)
  deriving DecidableEq, Repr

/-- The block's state. -/
structure State where
  /-- A leaf on a die, with its Heartwood. -/
  leaf : Leaf
  /-- A crown, with its self leaf. -/
  crown : Crown
  /-- The commands that wait, first in, first out. -/
  pending : List Instr
  deriving DecidableEq, Repr

/-- The block after its AON resets, with nothing waiting: every register at the value the spec gives for reset; what the spec gives no value
for is at what log entries 23 and 24 say. -/
def State.reset : State := ⟨Leaf.reset, Crown.reset, []⟩

end Sys2Proof.Machine
end

