-- ==== Sys2Proof/Machine/Act.lean ====
section
/-! DEFINITION. How a command acts on the leaf of a die, on a crown's self leaf or on the crown, and when it faults. A command whose own condition
does not hold in a state leaves that state as it is (log entry 2). -/

namespace Sys2Proof.Machine

/-- What a command answers. -/
abbrev Answer := Host.Outcome State Fault Refusal

/-- The leaf a command names. -/
def State.leafOf (s : State) (w : LeafSel) : Leaf := match w with
  | .die => s.leaf
  | .own => s.crown.self

/-- A change of one of the two leaves. -/
def State.onLeaf (s : State) (w : LeafSel) (f : Leaf → Leaf) : State := match w with
  | .die => { s with leaf := f s.leaf }
  | .own => { s with crown := { s.crown with self := f s.crown.self } }

/-- A command that changes a leaf alone. -/
def State.byLeaf (s : State) (w : LeafSel) (f : Leaf → Leaf) : Answer := .next (s.onLeaf w f)

/-- A command that changes the crown alone and accesses no HBM. -/
def State.byCrown (s : State) (f : Crown → Crown) : Answer := .next { s with crown := f s.crown }

/-- A command that changes the crown alone; an access to an HBM address that does not exist faults (R256). -/
def State.byHbm (s : State) (f : Crown → Crown) : Answer :=
  if (f s.crown).stray then .fault .hbmAddress else .next { s with crown := f s.crown }

/-- A command on a leaf or on the crown. -/
def State.byBlock (s : State) (b : Block) (fl : Leaf → Leaf) (fc : Crown → Crown) : Answer := match b with
  | .die => s.byLeaf .die fl
  | .own => s.byLeaf .own fl
  | .crown => s.byCrown fc

/-- The same where the crown may access HBM. -/
def State.byBlockHbm (s : State) (b : Block) (fl : Leaf → Leaf) (fc : Crown → Crown) : Answer := match b with
  | .die => s.byLeaf .die fl
  | .own => s.byLeaf .own fl
  | .crown => s.byHbm fc

/-! ### Stopped clocks and asserted resets (R478, R479, R481, R485): nothing happens in a unit that has no clock or is held in reset -/

/-- A change that takes place unless a condition holds. -/
def Leaf.unless (l : Leaf) (dead : Bool) (f : Leaf → Leaf) : Leaf := if dead then l else f l

/-- The same of a crown. -/
def Crown.unless (c : Crown) (dead : Bool) (f : Crown → Crown) : Crown := if dead then c else f c

/-- L-AON's reset is asserted. -/
def Leaf.aonDead (l : Leaf) : Bool := bitOf l.boot.held 0

/-- The time unit, pulse trains and capture inputs stand still. -/
def Leaf.timeDead (l : Leaf) : Bool := bitOf l.boot.failed 1 || bitOf l.boot.held 1 || l.aonDead

/-- Sensor hub, watch units, guards and V/f port stand still; a TIME reset does not reach them (R112). -/
def Leaf.guardDead (l : Leaf) : Bool := bitOf l.boot.failed 1 || l.aonDead

/-- The audit ports stand still. -/
def Leaf.hostDead (l : Leaf) : Bool := bitOf l.boot.failed 4 || bitOf l.boot.held 3 || l.aonDead

/-- The trace unit of a core stands still. -/
def Leaf.trcDead (l : Leaf) (core : Nat) : Bool := l.sapHeld || bitOf l.boot.failed (5 + core)

/-- A lane stands still, or is not there (R180). -/
def Leaf.laneDead (l : Leaf) (k : Nat) : Bool := !l.toNode.hasLane k || bitOf l.boot.failed 3 || bitOf l.boot.held (4 + k) || l.aonDead

/-- The crown's time unit stands still. -/
def Crown.timeDead (c : Crown) : Bool := !c.live 4

/-- A crown's lane stands still; lane 72, the self leaf's path, has no lane domain. -/
def Crown.laneDead (c : Crown) (k : Nat) : Bool := if k < 32 then !c.live 13 else if k < 64 then !c.live 14 else k < 72 && !c.live 15

/-- A command in L-SAP. -/
def State.byLeafSap (s : State) (w : LeafSel) (f : Leaf → Leaf) : Answer := s.byLeaf w (fun l => l.unless l.sapHeld f)

/-- A command in the time unit of a leaf. -/
def State.byLeafTime (s : State) (w : LeafSel) (f : Leaf → Leaf) : Answer := s.byLeaf w (fun l => l.unless l.timeDead f)

/-- A command in L-TIME outside the TIME reset. -/
def State.byLeafGuard (s : State) (w : LeafSel) (f : Leaf → Leaf) : Answer := s.byLeaf w (fun l => l.unless l.guardDead f)

/-- A command at the audit ports. -/
def State.byLeafHost (s : State) (f : Leaf → Leaf) : Answer := s.byLeaf .die (fun l => l.unless l.hostDead f)

/-- A command of L-AON's units. -/
def State.byLeafAon (s : State) (w : LeafSel) (f : Leaf → Leaf) : Answer := s.byLeaf w (fun l => l.unless l.aonDead f)

/-- A command of a core's trace unit. -/
def State.byTrace (s : State) (w : LeafSel) (core : Nat) (f : Leaf → Leaf) : Answer := s.byLeaf w (fun l => l.unless (l.trcDead core) f)

/-- A command on the packer or the receiver that a leaf and a crown share. -/
def State.bySap (s : State) (b : Block) (f : Node → Node) : Answer := s.byBlock b (fun l => l.unless l.sapHeld (·.on f)) (·.on f)

/-- A command on the capture inputs. -/
def State.byCapture (s : State) (b : Block) (f : Node → Node) : Answer :=
  s.byBlock b (fun l => l.unless l.timeDead (·.on f)) (fun c => c.unless c.timeDead (·.on f))

/-- A command on what a leaf and a crown share. -/
def State.byNode (s : State) (b : Block) (f : Node → Node) : Answer := s.byBlock b (·.on f) (·.on f)

/-- A command on a time unit, whose parent follows R41: a step releases what waited for it (R47, R210). -/
def State.byTime (s : State) (b : Block) (f : Node → Node) : Answer := 
  s.byBlock b (fun l => l.unless l.timeDead (·.onTime (fun n => f n.leafParent))) (fun c => c.unless c.timeDead (fun c => (c.followUp.on f).ingestWaiting))

end Sys2Proof.Machine
end

