-- ==== Sys2Proof/Machine/AuditCommands.lean ====
section
/-! DEFINITION. Commands of the audit tap and of the audit service (spec/13_audit.md R316 to R346). The audit port of a self leaf is tied off
(13_audit.md, R462), so the leaf here is the one on a die. -/

namespace Sys2Proof.Machine

/-! ### The leaf: tap, fetch and replay -/

/-- AUDIT_DESCRIPTOR (R316): the descriptor, and the context of Table 18.9 that comes with it. -/
def execAuditDescriptor (desc ctx : List Byte) (s : State) : Answer := s.byLeafHost (·.descriptor desc ctx)

/-- FETCH_ISSUE (R325). -/
def execFetchIssue (s : State) : Answer := s.byLeafHost Leaf.fetchIssue

/-- FETCH_RESPONSE (R325): the id, the bytes and whether the read failed. -/
def execFetchResponse (id : Nat) (data : List Byte) (err : Bool) (s : State) : Answer := s.byLeafHost (·.fetchResponse id data err)

/-- RETENTION_EXPIRE (R325). -/
def execRetentionExpire (s : State) : Answer := s.byLeafAon .die Leaf.retention

/-- RESULT (R326). -/
def execResult (s : State) : Answer := s.byLeafAon .die Leaf.result

/-- CONFIG (R322). -/
def execConfig (thresh seed : Nat) (s : State) : Answer := s.byLeafAon .die (·.audConfig thresh seed)

/-- BOOST (R322). -/
def execBoost (engine thresh tiles : Nat) (s : State) : Answer := s.byLeafAon .die (·.audBoost engine thresh tiles)

/-- LOCK (R324). -/
def execLock (s : State) : Answer := s.byLeafAon .die Leaf.audLock

/-- REPLAY (R333). -/
def execReplay (seq : Nat) (s : State) : Answer := s.byLeafAon .die (·.replayCmd seq)

/-- REPLAY_DONE (R333). -/
def execReplayDone (refused : Bool) (s : State) : Answer := s.byLeafHost (·.replayDone refused)

/-- REPLAY_EXPIRE (R333). -/
def execReplayExpire (s : State) : Answer := s.byLeafAon .die Leaf.replayExpire

/-- WDIGEST (R340): of weight region slot `r`. -/
def execWdigest (r : Nat) (s : State) : Answer := s.byLeafAon .die (·.wdigest r)

/-! ### The crown's audit service -/

/-- SAMPLE_COMPLETE (R329): the sample SEQ of the leaf on a port. -/
def execSampleComplete (port seq : Nat) (s : State) : Answer := s.byHbm (·.sampleComplete port seq)

/-- RECOMPUTE_COMPLETE (R330). -/
def execRecomputeComplete (s : State) : Answer := s.byHbm Crown.recomputeComplete

/-- REPLAY_RESULT (R334). -/
def execReplayResult (port seq : Nat) (s : State) : Answer := s.byHbm (·.replayResult port seq)

/-- ENG_CLEAR (R335). -/
def execEngClear (port engine : Nat) (s : State) : Answer := s.byCrown (·.engClear port engine)

/-- RESEED (R321). -/
def execReseed (s : State) : Answer := s.byCrown Crown.reseed

/-- WEIGHT_ROUND_END (R341). -/
def execWeightRoundEnd (s : State) : Answer := s.byHbm Crown.weightRoundEnd

/-- REHEARSE (R345): the write of BZ_AUD_REHEARSE with GO, PORT and ENGINE. -/
def execRehearse (port engine : Nat) (s : State) : Answer := s.byCrown (·.rehearseWrite (2 ^ 31 + 256 * (port % 64) + engine % 256))

end Sys2Proof.Machine
end

