-- ==== Sys2Proof/Machine/SapCommands.lean ====
section
/-! DEFINITION. Commands of the packers and receivers and of the CRC units (spec/06_sap_streams.md R137 to R165). -/

namespace Sys2Proof.Machine

/-! ### The packer -/

/-- Where a kind of record carries the QUAL of the stamp at its head (Tables 3.5, 3.6, 4.1, 4.7, 6.5, 9.4, 11.6, 13.4, R387, R414). -/
def qualPlace (kind : Nat) : Option (Nat × Nat) :=
  if kind = 1 ∨ kind = 6 then some (21, 0) else if kind = 0x10 then some (19, 0)
  else if [2, 3, 4, 8, 0x0E, 0x0F, 0x11, 0x12].contains kind then some (17, 0) else none

/-- A record as a source hands it over: a Ring log record carries its stamp at byte 8, a Heartwood record in its
trailer, a trace chunk and a bulk body carry none, any other record begins with it (Tables 6.2, 7.1, R385). -/
def Node.madeRec (n : Node) (kind cls : Nat) (body : List Byte) : Rec :=
  if kind = 9 ∨ kind = 0x0C then plainRec kind (cls % 8) body
  else if kind = 0x0A then { kind := kind, cls := cls % 8, body := body, stamp := ⟨twOf (slice body 8 16), n.qual⟩, stampAt := 8, qualAt := some (3, 0), crcTail := true }
  else if kind = 7 then { kind := kind, cls := cls % 8, body := body, stamp := ⟨twOf (slice body (body.length - 20) 16), n.qual⟩, stampAt := body.length - 20, qualAt := some (body.length - 4, 0), crcTail := false }
  else { kind := kind, cls := cls % 8, body := body, stamp := ⟨twOf (body.take 16), n.qual⟩, stampAt := 0, qualAt := qualPlace kind, crcTail := false }

/-- RECORD_ENQUEUE at a lane's class queue (R143, R158). A record the queue cannot take yet, or one behind records that wait, stays with its source. -/
def Node.enqueueRec (n : Node) (lane kind cls : Nat) (body : List Byte) : Node :=
  let k := n.key lane (cls % 8)
  if (n.q k).waits.isEmpty then (n.offer k (n.madeRec kind cls body) (if kind = 1 then some (field body 16 4) else none)).2 else n

/-- RECORD_ENQUEUE (R143). -/
def execRecordEnqueue (b : Block) (lane kind cls : Nat) (body : List Byte) (s : State) : Answer := s.bySap b (·.enqueueRec lane kind cls body)

/-- A leaf's packer runs: enabled, with L-SAP alive and out of reset. -/
def Leaf.packs (l : Leaf) : Bool := l.toNode.flag TZ_SAP_PK_CTRL_EN && !l.sapHeld

/-- Guard, audit, Heartwood and ring records that wait go to the packer where it has room (R108, R158, R170, R323, R386). -/
def Leaf.refill (l : Leaf) : Leaf := (((l.pumpGuard 80).tapPump 64).heartPump 600).on (fun n => n.ringPump n.ring.recs.length)

/-- FRAME_CLOSE at a leaf (R144). A LOSS record that the frame takes is kept in the Ring log too (Table 7.2). -/
def Leaf.frameClose (l : Leaf) (cls : Nat) : Leaf :=
  if !l.packs then l
  else
    let q := l.toNode.q (cls % 8)
    let l := l.on (·.closeFrame (cls % 8) false)
    (if (l.toNode.q (cls % 8)).lossSeq = q.lossSeq then l else l.log 0x07 (q.lossBody (cls % 8))).refill

/-- FRAME_CLOSE (R144). -/
def execFrameClose (b : Block) (lane cls : Nat) (s : State) : Answer := s.byBlock b (·.frameClose cls) (fun c => (c.closeFrame lane (cls % 8) false).on (fun n => n.ringPump n.ring.recs.length))

/-- FRAME_SELECT at a lane of a leaf in service (R145). -/
def Leaf.frameSelect (l : Leaf) (lane : Nat) : Leaf :=
  if l.packs && l.toNode.up lane then l.on (·.selectFrame lane (fun cls => l.toNode.leafLane cls == lane) (fun _ => true)) else l

/-- FRAME_SELECT at a crown's lane: with NOC stopped only fill goes out (R145, Table 19.5). -/
def Crown.frameSelect (c : Crown) (lane : Nat) : Crown := if c.live 3 && lane < 72 then c.selectFrame lane else c

/-- The frame the self leaf sends, over its internal path to the crown (R24, R462). -/
def Crown.selfSelect (c : Crown) : Crown :=
  let l := if c.self.packs then c.self.on (·.selectFrame 0 (fun _ => true) (fun _ => true)) else c.self
  let sent := l.out.drop c.self.out.length
  let c : Crown := { c with self := l.on (fun n => { n with out := c.self.out }) }
  sent.foldl (fun (c : Crown) o => match o with
    | .frame _ bytes => c.frameReceive 72 bytes
    | _ => c) c

/-- FRAME_SELECT (R145). -/
def execFrameSelect (b : Block) (lane : Nat) (s : State) : Answer := match b with
  | .die => s.byLeaf .die (·.frameSelect lane)
  | .own => s.byHbm Crown.selfSelect
  | .crown => s.byHbm (·.frameSelect lane)

/-- The keys of the class queues a node sends from: a leaf's eight, and a crown's on its lanes in service. -/
def Node.aliveKeys (n : Node) : List Nat := if n.crown then (numsWhere 72 n.up).flatMap (fun k => (List.range 8).map (8 * k + ·)) else List.range 8

/-- The end of an alive period: 100 µs in a crown (R146). -/
def Node.aliveEnd (n : Node) : Node :=
  let period := if n.crown then 100000 else max 1 (n.g TZ_SAP_PK_CTRL_ALIVE_US) * 1000
  if n.ns < n.aliveAt then n
  else
    let n := { n with aliveAt := n.aliveAt + period, aliveN := n.aliveN + 1 }
    let n := if n.crown then n else n.s TZ_SAP_PK_ALIVE_ALIVE (n.g TZ_SAP_PK_ALIVE_ALIVE + 1)
    n.alivePeriod n.aliveKeys

/-- ALIVE_PERIOD_END (R146). -/
def execAlivePeriodEnd (b : Block) (s : State) : Answer := s.bySap b Node.aliveEnd

/-- REPLAY_START (R147). -/
def execReplayStart (b : Block) (lane cls : Nat) (s : State) : Answer := s.bySap b (·.replayOn lane cls)

/-- LEVEL_RISE (R157). -/
def execLevelRise (b : Block) (lane cls : Nat) (s : State) : Answer := s.bySap b (fun n => n.levelRise (n.key lane (cls % 8)))

/-- LEVEL_FALL (R157). -/
def execLevelFall (b : Block) (lane cls : Nat) (s : State) : Answer := s.bySap b (fun n => n.levelFall (n.key lane (cls % 8)))

/-- QSIZE_WRITE (R162): a write of a class queue's control word. -/
def execQsizeWrite (w : LeafSel) (cls v : Nat) (s : State) : Answer := s.byLeafSap w (·.queueCtrl cls v)

/-! ### The receiver -/

/-- FRAME_RECEIVE at a leaf: judged, delivered, and its records act (R148). -/
def Leaf.frameReceive (l : Leaf) (lane : Nat) (bytes : List Byte) : Leaf :=
  let (n, r) := l.toNode.rxAccept lane bytes
  let l : Leaf := { l with toNode := n }
  match r with
  | none => l
  | some f => (l.on (fun n => (n.rxJudge lane f).1)).drain

/-- FRAME_RECEIVE (R148). -/
def execFrameReceive (b : Block) (lane : Nat) (bytes : List Byte) (s : State) : Answer := s.byBlockHbm b (fun l => l.unless l.sapHeld (·.frameReceive lane bytes)) (fun c => (c.frameReceive lane bytes).flexMove)

/-- DEAD (R149). -/
def execDead (lane cls : Nat) (s : State) : Answer := s.byHbm (·.deadCheck lane cls)

/-- A TSTATUS about the child on a lane (R151, Table 6.5): what the exchanges told of it; FAULT, UPHOLD, HOPS, BOUND and Δ of the child, which
they do not, are free values (log entry 81). -/
def Crown.childStatus (c : Crown) (lane : Nat) : Crown :=
  match c.time.served.get (fun _ => none) lane with
  | none => c
  | some v =>
    if !v.known then c
    else
      let (f, c) := c.draw 2
      let (more, c) := c.draw 168
      let n := c.toNode
      let r := plainRec 6 1 (twBytes n.now ++ le 4 v.node ++ byte (v.state % 8 + 8 * b2n v.stepped + 16 * f + 64) ++ byte n.qual.code ++ byte (more % 256) ++ zeros 1
        ++ le 4 (more / 256) ++ le 4 (unsgn 32 (satInt 32 (v.offset / 2 ^ 16))) ++ le 16 (more / 2 ^ 40))
      (c.sendUp r).onRed (fun x => { x with childCode := x.childCode.set (fun _ => 0) lane (1 + v.state % 8 + 8 * b2n v.stepped) })

/-- A child's TSTATUS when its state has changed since the last (R151). -/
def Crown.childChanged (c : Crown) (lane : Nat) : Crown :=
  match c.time.served.get (fun _ => none) lane with
  | none => c
  | some v => if c.red.childCode.get (fun _ => 0) lane = 1 + v.state % 8 + 8 * b2n v.stepped then c else c.childStatus lane

/-- 65,536 alive periods have ended since the last round. -/
def Node.statusDue (n : Node) : Bool := n.aliveN != 0 && n.aliveN % 65536 == 0

/-- A round of TSTATUS at a crown: its own and one for each child. -/
def Crown.statusRound (c : Crown) : Crown :=
  if c.toNode.statusDue then (numsWhere 72 c.toNode.up).foldl Crown.childStatus (c.on (fun n => n.tellStatus (n.tstatusRec 1))) else c

/-- TSTATUS_PERIODIC (R151): the Ring log keeps none of these (Table 7.2). -/
def execTstatusPeriodic (b : Block) (s : State) : Answer := s.byBlock b (fun l => l.unless l.sapHeld (·.on (fun n => if n.statusDue then n.tellStatus (n.tstatusRec 1) else n))) Crown.statusRound

/-! ### CRC units (R161) -/

/-- START (R161). -/
def execStart (w : LeafSel) (u : Nat) (s : State) : Answer := s.byLeafSap w (·.crcStart u)

/-- CRC_DATA (R161). -/
def execCrcData (w : LeafSel) (u v : Nat) (s : State) : Answer := s.byLeafSap w (·.crcData u v)

end Sys2Proof.Machine
end

