-- ==== Sys2Proof/Machine/BarkCommands.lean ====
section
/-! DEFINITION. Commands of Bark lanes (spec/08_bark_links.md R182 to R208). -/

namespace Sys2Proof.Machine

/-- A command on a lane: at a crown what depends on lanes in service follows it (R29, R228, R413, Table 17.2). -/
def State.byLane (s : State) (b : Block) (lane : Nat) (f : Node → Node) : Answer :=
  s.byBlock b (fun l => l.unless (l.laneDead lane) (·.on (fun n => (f n).leafParent))) (fun c => c.unless (c.laneDead lane) (fun c => ((c.on f).flexMove).portChanged))

/-- LANE_EN_WRITE (R203). -/
def execLaneEnWrite (b : Block) (lane : Nat) (on : Bool) (s : State) : Answer := s.byLane b lane (·.laneEn lane on)

/-- RETRAIN_WRITE (R203). -/
def execRetrainWrite (b : Block) (lane : Nat) (s : State) : Answer := s.byLane b lane (·.retrainWrite lane)

/-- RETRAIN (R203): the control block arrives. -/
def execRetrain (b : Block) (lane : Nat) (s : State) : Answer := s.byLane b lane (·.retrain lane)

/-- TRAIN_STEP_END (R193): with the last receive words of the step, on which the echo search runs (R182, R198). -/
def execTrainStepEnd (b : Block) (lane : Nat) (adc : List Nat) (s : State) : Answer := s.byLane b lane (·.stepEnd lane adc)

/-- PROBE_HEARD (R193). -/
def execProbeHeard (b : Block) (lane session countdown : Nat) (s : State) : Answer := s.byLane b lane (·.probeHeard lane session countdown)

/-- TRAINING_FRAME (R192): the frame as sliced, and the receive words it came in (R182). -/
def execTrainingFrame (b : Block) (lane : Nat) (heard : TrainingHeard) (s : State) : Answer := s.byLane b lane (·.trainingFrame lane heard.bytes heard.adc)

/-- TRIAL_VERDICT (R196). -/
def execTrialVerdict (b : Block) (lane : Nat) (s : State) : Answer := s.byLane b lane (·.trialVerdict lane)

/-- RETRY (R197); a crown's downlink waits for the passes of R206. -/
def execRetry (b : Block) (lane : Nat) (s : State) : Answer := 
  s.byBlock b (fun l => l.unless (l.laneDead lane) (·.on (·.retry lane))) (fun c => c.unless (c.laneDead lane) (fun c => (c.laneRetry lane).portChanged))

/-- ECHO_ENGINE_GRANT (R205). -/
def execEchoEngineGrant (s : State) : Answer := s.byCrown Crown.engineGrant

/-- DOWNLINK_PASS_START (R206). -/
def execDownlinkPassStart (s : State) : Answer := s.byCrown Crown.passStart

/-- BATCH_START (R206). -/
def execBatchStart (s : State) : Answer := s.byCrown Crown.batchStart

/-- LANE_DOWN (R200): 0 loss of signal, 1 missed markers, 2 uncorrectable codewords. -/
def execLaneDown (b : Block) (lane cause : Nat) (s : State) : Answer := s.byLane b lane (·.laneDownBy lane cause)

/-- SILENT_END (R200). -/
def execSilentEnd (b : Block) (lane : Nat) (s : State) : Answer := s.byLane b lane (·.silentEnd lane)

/-- What a codeword brought acts: frames are received, a control block acts by its OP. -/
def Leaf.brought (l : Leaf) (lane : Nat) (x : Brought) : Leaf := match x with
  | .frames fs => fs.foldl (fun (l : Leaf) f => l.frameReceive lane f) l
  | .block b => l.on (·.takeBlock lane b)
  | .nothing => l

/-- The same at a crown. -/
def Crown.brought (c : Crown) (lane : Nat) (x : Brought) : Crown := match x with
  | .frames fs => fs.foldl (fun (c : Crown) f => c.frameReceive lane f) c
  | .block b => c.on (·.takeBlock lane b)
  | .nothing => c

/-- CODEWORD_RECEIVE at a leaf. -/
def Leaf.takeCodeword (l : Leaf) (lane : Nat) (w : CodewordHeard) : Leaf :=
  let (n, x) := l.toNode.codeword lane w
  ({ l with toNode := n } : Leaf).brought lane x

/-- CODEWORD_RECEIVE at a crown. -/
def Crown.takeCodeword (c : Crown) (lane : Nat) (w : CodewordHeard) : Crown :=
  let (n, x) := c.toNode.codeword lane w
  ((({ c with toNode := n } : Crown).brought lane x).flexMove).portChanged

/-- CODEWORD_RECEIVE (R189): a codeword as the receiver slices it. -/
def execCodewordReceive (b : Block) (lane : Nat) (heard : CodewordHeard) (s : State) : Answer :=
  s.byBlockHbm b (fun l => l.unless (l.laneDead lane) (·.takeCodeword lane heard)) (fun c => c.unless (c.laneDead lane) (·.takeCodeword lane heard))

/-- A KEEPALIVE with the crown's root and path bits. -/
def Crown.keepaliveOut (c : Crown) (lane num den : Nat) : Crown :=
  let (root, absent, noUp) := c.pathBits lane
  c.on (·.keepaliveSend lane num den root absent noUp)

/-- KEEPALIVE_SEND (R191, R196): in a trial `num`/`den` is the mean square slicer error measured. -/
def execKeepaliveSend (b : Block) (lane num den : Nat) (s : State) : Answer :=
  s.byBlock b (fun l => l.unless (l.laneDead lane) (·.on (·.keepaliveSend lane num den false false false)))
    (fun c => c.unless (c.laneDead lane) (·.keepaliveOut lane num den))

/-- KEEPALIVE (R191): the control block's bytes. -/
def execKeepalive (b : Block) (lane : Nat) (block : List Byte) (s : State) : Answer := s.byLane b lane (·.keepalive lane block)

/-- The window's last receive words are taken, and it ends. -/
def Node.lqWindow (n : Node) (lane num den : Nat) (adc : List Nat) : Node := (n.takeAdc lane adc).lqEnd lane num den

/-- LQ_WINDOW_END (R201): the window's mean square slicer error `num`/`den`, and its last receive words, whose samples ERLE counts too (R182, R199). -/
def execLqWindowEnd (b : Block) (lane num den : Nat) (adc : List Nat) (s : State) : Answer := s.byLane b lane (·.lqWindow lane num den adc)

/-- MODE_REQ sent, or received with the mode it asks for (R202). -/
def Node.modeRequest (n : Node) (lane : Nat) (got : Option Nat) : Node := match got with
  | none => n.modeReqSend lane
  | some m => n.modeReq lane m

/-- MODE_REQ (R202): none where this end asks. -/
def execModeReq (b : Block) (lane : Nat) (got : Option Nat) (s : State) : Answer := s.byLane b lane (·.modeRequest lane got)

/-- MODE_ACK (R202). -/
def execModeAck (b : Block) (lane mode : Nat) (s : State) : Answer := s.byLane b lane (·.modeAck lane mode)

/-- MODE_GO (R202). -/
def execModeGo (b : Block) (lane mode : Nat) (s : State) : Answer := s.byLane b lane (·.modeGo lane mode)

/-- MODE_CHANGE_TIMEOUT (R202). -/
def execModeChangeTimeout (b : Block) (lane : Nat) (s : State) : Answer := s.byLane b lane (·.modeTimeout lane)

/-- MODE_SWITCH (R202): of the transmitter, or of the receiver. -/
def execModeSwitch (b : Block) (lane : Nat) (tx : Bool) (s : State) : Answer := s.byLane b lane (·.modeSwitch lane tx)

/-- MODE_LOCKED (R202). -/
def execModeLocked (b : Block) (lane : Nat) (s : State) : Answer := s.byLane b lane (·.modeLocked lane)

end Sys2Proof.Machine
end

