-- ==== Sys2Proof/Machine/BringCommands.lean ====
section
/-! DEFINITION. Commands of bring-up, broadcasts and job starts (spec/16_bring_up.md R399 to R427). -/

namespace Sys2Proof.Machine

/-! ### Bring-up (R405 to R413) -/

/-- ROM_BOOT (R405): what the two flash slots hold; none for a slot that cannot be read. -/
def execRomBoot (a b : Option (List Byte)) (s : State) : Answer := s.byHbm (·.boot a b)

/-- BIST (R407): the physical cells that fail it. -/
def execBist (bad : List Nat) (s : State) : Answer := s.byCrown (·.bist bad)

/-- ADMISSION_CHECK (R424). -/
def execAdmissionCheck (s : State) : Answer := s.byHbm Crown.admission

/-- READY (R409). -/
def execReady (s : State) : Answer := s.byCrown Crown.ready

/-- NOHBM_DEADLINE (R408). -/
def execNohbmDeadline (s : State) : Answer := s.byHbm Crown.nohbm

/-- NVM_READ (R410): the bytes of the NVM. -/
def execNvmRead (w : LeafSel) (img : List Byte) (s : State) : Answer := s.byLeafAon w (·.nvmRead img)

/-- ASSIGN (R411). -/
def execAssign (b : Block) (node gen : Nat) (s : State) : Answer := s.byBlock b (fun l => l.unless l.sapHeld (·.assign node gen)) (·.assign node gen)

/-- ASSIGN_ACK (R413): from the child on a port. -/
def execAssignAck (port status gen : Nat) (s : State) : Answer := s.byCrown (·.assignAck port status gen)

/-- REG_WRITE (R411): the entries, each an offset and a value. -/
def execRegWrite (w : LeafSel) (seq : Nat) (entries : List (Nat × Nat)) (s : State) : Answer := s.byLeafSap w (·.regList seq entries)

/-- REG_DONE (R409). -/
def execRegDone (port status : Nat) (s : State) : Answer := s.byCrown (·.regDone port status)

/-- WARM (R412). -/
def execWarm (s : State) : Answer := s.byHbm Crown.warm

/-- TOPOLOGY_CHECK (R413). -/
def execTopologyCheck (s : State) : Answer := s.byCrown Crown.topologyCheck

/-! ### Broadcasts (R414 to R419) -/

/-- OFFER (R416): the body of Table 16.11; `origin` at the crown that originates it. -/
def execOffer (origin : Bool) (body : List Byte) (s : State) : Answer := s.byCrown (·.offer origin body)

/-- CHUNK (R416). -/
def execChunk (body : List Byte) (s : State) : Answer := s.byHbm (·.chunk body)

/-- BCAST_REQ (R416): from the child on a lane. -/
def execBcastReq (lane : Nat) (body : List Byte) (s : State) : Answer := s.byCrown (·.bcastReq lane body)

/-- ACK (R417). -/
def execAck (body : List Byte) (s : State) : Answer := s.byCrown (·.bcAck body)

/-- ACK_SEND (R417): broadcast slot 0 or 1. -/
def execAckSend (slot : Nat) (s : State) : Answer := s.byCrown (·.ackSend slot)

/-- ACK_BY_EXPIRE (R418). -/
def execAckByExpire (slot : Nat) (s : State) : Answer := s.byCrown (·.ackByExpire slot)

/-- COMMIT (R418). -/
def execCommit (id tact : Nat) (s : State) : Answer := s.byCrown (·.bcCommit id tact)

/-- BROADCAST_APPLY (R418). -/
def execBroadcastApply (s : State) : Answer := s.byHbm Crown.bcApply

/-- ABORT_BROADCAST (R418). -/
def execAbortBroadcast (id : Nat) (s : State) : Answer := s.byCrown (·.bcAbort id)

/-- BROADCAST_DISCARD (R419). -/
def execBroadcastDiscard (slot : Nat) (s : State) : Answer := s.byCrown (·.bcDiscard slot)

/-! ### Job starts (R420 to R427): bodies of Table 16.10 after OP -/

/-- JOB_ARM at a leaf. -/
def Leaf.takeArm (l : Leaf) (b : List Byte) : Leaf := l.jobArm (field b 3 4) (twOf (slice b 7 16)) (field b 23 4) (slice b 35 16)

/-- JOB_ARM (R422). -/
def execJobArm (b : Block) (body : List Byte) (s : State) : Answer := s.byBlock b (fun l => l.unless l.sapHeld (·.takeArm body)) (·.jobArm body)

/-- JOB_GO (R423). -/
def execJobGo (b : Block) (body : List Byte) (s : State) : Answer := s.byBlock b (fun l => l.unless l.sapHeld (·.jobGo (field body 3 4))) (·.jobGo body)

/-- JOB_CANCEL (R423). -/
def execJobCancel (b : Block) (body : List Byte) (s : State) : Answer := s.byBlock b (fun l => l.unless l.sapHeld (·.jobCancel (field body 3 4))) (·.jobCancel body)

/-- JOB_ACK from a lane, or the end of the wait for those that are silent. -/
def Crown.ackOrWait (c : Crown) (got : Option (Nat × List Byte)) : Crown := match got with
  | none => c.jobAckWait
  | some x => c.jobAck x.1 x.2

/-- JOB_ACK (R422): none where the 1 ms has passed. -/
def execJobAck (got : Option (Nat × List Byte)) (s : State) : Answer := s.byCrown (·.ackOrWait got)

/-- JOB_T_GO (R423). -/
def execJobTGo (w : LeafSel) (s : State) : Answer := s.byLeafTime w Leaf.jobTime

/-- JOB_REPORT from a leaf or crown below, or the end of the wait. -/
def Crown.reportOrWait (c : Crown) (got : Option (List Byte)) : Crown := match got with
  | none => c.jobReportWait
  | some b => c.jobReport b

/-- JOB_REPORT (R423): none where 1 ms has passed since T_GO. -/
def execJobReport (got : Option (List Byte)) (s : State) : Answer := s.byCrown (·.reportOrWait got)

/-- A read of TZ_JOB_T3 of a leaf. -/
def Leaf.jobPop (l : Leaf) (priv : Nat) : Leaf :=
  let (v, l) := l.regRead TZ_JOB_T3 priv
  l.emit (.response (BitVec.ofNat 32 v) 0)

/-- JOB_FIFO_POP (R427). -/
def execJobFifoPop (w : LeafSel) (priv : Nat) (s : State) : Answer := s.byLeafAon w (·.jobPop priv)

end Sys2Proof.Machine
end

