-- ==== Sys2Proof/Machine/DriftCommands.lean ====
section
/-! DEFINITION. Commands of the window engine (spec/12_stragglers_drift.md R293 to R315). -/

namespace Sys2Proof.Machine

/-- The window engine works while its domain runs; its findings about dies reach Grove (R313, R352). -/
def Crown.windowStep (c : Crown) : Crown := if c.live 10 then (c.windowProcess).groveDrain else c

/-- WINDOW_PROCESS (R296). -/
def execWindowProcess (s : State) : Answer := s.byHbm Crown.windowStep

/-- REFIT_COMPLETE (R306): the fit job of engine queue `q`; `ue` an uncorrectable error in its outputs. -/
def execRefitComplete (q : Nat) (ue : Bool) (s : State) : Answer := s.byHbm (·.refitComplete q ue)

/-- The end of a budget hour, and what it tells Grove. -/
def Crown.budgetHour (c : Crown) (slot : Nat) : Crown := (c.hourEnd slot).groveDrain

/-- BUDGET_HOUR_END (R308). -/
def execBudgetHourEnd (slot : Nat) (s : State) : Answer := s.byCrown (·.budgetHour slot)

/-- REBASE (R315). -/
def execRebase (slot : Nat) (s : State) : Answer := s.byHbm (·.rebase slot)

/-- RESET_RUNS (R315). -/
def execResetRuns (slot : Nat) (s : State) : Answer := s.byCrown (·.resetRuns slot)

end Sys2Proof.Machine
end

