-- ==== Sys2Proof/Machine/ResetCommands.lean ====
section
/-! DEFINITION. Commands of resets, of registers and of re-homing (spec/00_scope.md R3, R8 to R12; spec/01_canopy.md R29, R30;
spec/18_ports.md R448; spec/19_clocks_resets.md R481, R485). -/

namespace Sys2Proof.Machine

/-! ### Resets -/

/-- AON_RESET_RELEASE (R3, R463, R484): the straps `role` and `root1` are sampled, with what the crown's fuses and its self leaf's straps hold now. -/
def execAonResetRelease (role : Nat) (root1 : Bool) (pins : CrownPins) (s : State) : Answer := s.byCrown (·.aonRelease role root1 pins.fuses pins.self)

/-- L_AON_RESET_RELEASE (R481): a leaf, and the straps it samples. -/
def execLAonResetRelease (pins : LeafPins) (s : State) : Answer := s.byLeaf pins.leaf (·.aonRelease pins.straps)

/-- Assertion of a domain's reset at the crown; `pcie_perst_n`, which resets HIF, also ends host mode (R467, R485, R496). -/
def Crown.assertDomain (c : Crown) (d : Nat) : Crown := if d = 16 then (c.resetAssert d).hostLeave else c.resetAssert d

/-- RESET_ASSERT (R481, R485): a leaf's reset by its number in Table 19.6 (0 L-AON, 1 TIME, 2 L-SAP, 3 L-HOST, 4 and 5 the lanes), or a
crown's domain by d of Table 19.2. -/
def execResetAssert (b : Block) (r : Nat) (s : State) : Answer := s.byBlockHbm b (·.resetAssert r) (·.assertDomain r)

/-- TIME's reset of a crown is released where its conditions hold (R485). -/
def Crown.timeRelease (c : Crown) : Crown := if c.mayRelease 4 then (c.releaseReset 4).followUp else c

/-- TIME_RESET_RELEASE (R43, R481). -/
def execTimeResetRelease (b : Block) (s : State) : Answer := s.byBlock b Leaf.timeRelease Crown.timeRelease

/-- L_SAP_RESET_RELEASE (R61, R85, R146). -/
def execLSapResetRelease (w : LeafSel) (s : State) : Answer := s.byLeaf w Leaf.sapRelease

/-- L_LINK_RESET_RELEASE (R207). -/
def execLLinkResetRelease (w : LeafSel) (k : Nat) (s : State) : Answer := s.byLeaf w (·.laneRelease k)

/-- L_HOST_RESET_RELEASE (R481). -/
def execLHostResetRelease (w : LeafSel) (s : State) : Answer := s.byLeaf w Leaf.hostRelease

/-- TWIG_RESET_ASSERT (R482). -/
def execTwigResetAssert (w : LeafSel) (t : Nat) (s : State) : Answer := s.byLeaf w (·.twigAssert t)

/-- TWIG_RESET_RELEASE (R482). -/
def execTwigResetRelease (w : LeafSel) (t : Nat) (s : State) : Answer := s.byLeaf w (·.twigRelease t)

/-- TRACE_CORE_RESET (R124). -/
def execTraceCoreReset (core : Nat) (s : State) : Answer := s.byLeaf .die (·.trcCoreReset core)

/-! ### Registers -/

/-- An access that waited for another of its cycle at the crown: counted, with its offset and master (R436). -/
def Crown.noteDefer (c : Crown) (off mid : Nat) (deferred : Bool) : Crown :=
  if deferred && c.live 17 then ((c.count BZ_WR_DEFER_COUNT).s BZ_WR_DEFER_LAST_MASTER mid).s BZ_WR_DEFER_LAST_OFFSET ((masterOffset off mid).getD off) else c

/-- A write that waited for another of its cycle at a leaf (R437). -/
def Leaf.noteDefer (l : Leaf) (deferred : Bool) : Leaf := if deferred then l.count TZ_WR_DEFER_COUNT else l

/-- REGISTER_WRITE (R8, R12, R435 to R437, R467): offset, the bytes it names from there on, value, privilege level and master. `deferred` says
that the write waited behind another access to the register in its cycle. Anything but a whole, aligned word has no effect. -/
def execRegisterWrite (b : Block) (at_ : Place) (v priv mid : Nat) (deferred : Bool) (s : State) : Answer :=
  s.byBlockHbm b (fun l => l.unless (!wholeWord at_.off at_.be) (fun l => (l.noteDefer deferred).regWrite at_.off v priv mid))
    (fun c => c.unless (!wholeWord at_.off at_.be) (fun c => (c.noteDefer at_.off mid deferred).busWrite at_.off v priv mid))

/-- A read at a leaf, with the value as its answer. -/
def Leaf.busRead (l : Leaf) (off priv : Nat) : Leaf :=
  let (v, l) := l.regRead off priv
  l.emit (.response (BitVec.ofNat 32 v) 0)

/-- A read at the crown, with the value as its answer. -/
def Crown.answerRead (c : Crown) (off priv mid : Nat) : Crown :=
  let (v, c) := c.busRead off priv mid
  c.emit (.response (BitVec.ofNat 32 v) 0)

/-- RC_READ (R8, R9, R12, R467): a read of any register, with its own effect: an RC register reads and clears. `deferred` says that the crown's
read waited behind another access to the register in its cycle (R436). Anything but a whole, aligned word reads 0 and has no effect. -/
def execRcRead (b : Block) (at_ : Place) (priv mid : Nat) (deferred : Bool) (s : State) : Answer :=
  s.byBlock b (fun l => if wholeWord at_.off at_.be then l.busRead at_.off priv else l.emit (.response 0 0))
    (fun c => if wholeWord at_.off at_.be then (c.noteDefer at_.off mid deferred).answerRead at_.off priv mid else c.emit (.response 0 0))

/-- REGISTER_PORT_REQUEST (R448): a request of the Register Port of a leaf on a die; a self leaf's is tied off (R462). -/
def execRegisterPortRequest (write : Bool) (addr be data priv mid : Nat) (s : State) : Answer :=
  s.byLeaf .die (·.portRequest write addr be data priv mid)

/-! ### Re-homing and the active root -/

/-- A crown re-homes, requests a flex circuit toward the pod crown of its neighbour (R29, R226), and asks it for the chunks it lacks (R419). -/
def Crown.rehome (c : Crown) : Crown := 
  let was := c.red.rehomed
  let c := c.rehomeStart.followUp
  let c := if c.red.rehomed ∧ !was then c.flexReq 1 else c
  if c.red.rehomed ∧ !was ∧ c.red.neighbour ≠ 0 then c.reqMissing else c

/-- REHOME_START (R29). -/
def execRehomeStart (s : State) : Answer := s.byCrown Crown.rehome

/-- REHOME_RETURN (R29). -/
def execRehomeReturn (s : State) : Answer := s.byCrown (·.rehomeReturn.followUp)

/-- ROOT1_ACTIVATE (R30). -/
def execRoot1Activate (s : State) : Answer := s.byCrown (·.root1Activate.followUp)

end Sys2Proof.Machine
end

