-- ==== Sys2Proof/Machine/EngineCommands.lean ====
section
/-! DEFINITION. Commands of the compute array, of the job rings and of HBM (spec/10_crown_engine.md R238 to R270; spec/16_bring_up.md R408). -/

namespace Sys2Proof.Machine

/-- The registers of a ring. -/
def ringOf (x : RingSel) : Ring := match x with
  | .engine k => jobRing (eqBase k)
  | .tree k => jobRing (tqBase k)
  | .grove r => groveRing r
  | .view v r => viewRing v r

/-- A write of a ring's register by its owner: software of the crown, or a tenant through its view's page (R260, R499). -/
def Crown.ringRegister (c : Crown) (x : RingSel) (off v : Nat) : Crown := match x with
  | .view n _ => if c.live 17 then c.viewWrite off v (0x40 + n) else c
  | _ => c.regWrite off v 0 1

/-- REMAP (R244): logical cell `l` of quadrant `q` to physical cell `p`. -/
def execRemap (q l p : Nat) (s : State) : Answer := s.byHbm (·.remap q l p)

/-- RETIRE (R244): the logical cell of quadrant `q`, and what PHYS of the command holds. -/
def execRetire (q : Nat) (cells : MapCells) (s : State) : Answer := s.byHbm (·.retire q cells.logical cells.phys)

/-- CMAP_DONE (R245). -/
def execCmapDone (s : State) : Answer := s.byCrown Crown.cmapDone

/-- QUEUE_TAIL_WRITE (R260). -/
def execQueueTailWrite (x : RingSel) (v : Nat) (s : State) : Answer := s.byHbm (·.ringRegister x (ringOf x).tail.off v)

/-- CPL_HEAD_WRITE (R260). -/
def execCplHeadWrite (x : RingSel) (v : Nat) (s : State) : Answer := s.byHbm (·.ringRegister x (ringOf x).cplHead.off v)

/-- The domains of a chain run: NOC and the quadrants of its cells (Table 19.5). -/
def Crown.engineAlive (c : Crown) (k : Nat) : Bool :=
  c.live 3 && (match c.nextChain k with
    | none => true
    | some l => (chainCells l).all (fun g => c.live (5 + g / 128)))

/-- JOB_START where the domains it needs run. -/
def Crown.engineStart (c : Crown) (k : Nat) : Crown := if c.engineAlive k then c.jobStart k else c

/-- JOB_START (R263). -/
def execJobStart (k : Nat) (s : State) : Answer := s.byHbm (·.engineStart k)

/-- JOB_COMPLETE where the domains run and no PHY request holds a controller (R464). -/
def Crown.engineFinish (c : Crown) (k : Nat) : Crown := if c.engineAlive k && !c.dfiHolds then c.jobComplete k else c

/-- JOB_COMPLETE (R265). -/
def execJobComplete (k : Nat) (s : State) : Answer := s.byHbm (·.engineFinish k)

/-- ENGINE_FAULT (R267): FAULT code and physical cell. -/
def execEngineFault (k code pcell : Nat) (s : State) : Answer := s.byHbm (·.engineFault k code pcell)

/-- ABORT_QUEUE (R268). -/
def Crown.abortRing (c : Crown) (tree : Bool) (k : Nat) : Crown := if tree then c.treeAbort k else c.abortQueue k

/-- ABORT_QUEUE (R268): of an engine queue or a tree queue. -/
def execAbortQueue (tree : Bool) (k : Nat) (s : State) : Answer := s.byHbm (·.abortRing tree k)

/-- HBM_TRAINED (R408). -/
def execHbmTrained (k : Nat) (ok : Bool) (s : State) : Answer := s.byCrown (·.hbmTrained k ok)

end Sys2Proof.Machine
end

