-- ==== Sys2Proof/Machine/GroveCommands.lean ====
section
/-! DEFINITION. Commands of Grove (spec/14_placement_graft.md R347 to R372). -/

namespace Sys2Proof.Machine

/-- HEALTH_INPUT (R352): 0 a link's state, 1 a GUARD record, 2 FAULT of a TSTATUS, 3 an ageing record, 4 a frame heard. -/
def execHealthInput (port kind : Nat) (body : List Byte) (s : State) : Answer := s.byHbm (·.healthInput port kind body)

/-- GRADE_RISE (R353). -/
def execGradeRise (port : Nat) (s : State) : Answer := s.byCrown (·.gradeRise port)

/-- Grove takes a request of a ring once the crown is READY and NOC runs (R360, R409, Table 19.5). -/
def Crown.groveServe (c : Crown) (ring : Nat) (release : Bool) : Crown :=
  if c.g BZ_BOOT_STAT_PHASE = 7 ∧ c.live 3 then c.groveAccept ring release else c

/-- PLACE (R360): the next request of a ring. -/
def execPlace (ring : Nat) (s : State) : Answer := s.byHbm (·.groveServe ring false)

/-- RELEASE_JOB (R361): the next request of a ring. -/
def execReleaseJob (ring : Nat) (s : State) : Answer := s.byHbm (·.groveServe ring true)

/-- RESP (R363): the record's body. -/
def execResp (body : List Byte) (s : State) : Answer := s.byHbm (·.takeResp body)

/-- SUMMARY (R356). -/
def execSummary (s : State) : Answer := s.byCrown Crown.summary

/-- GROVE_STALE (R362). -/
def execGroveStale (s : State) : Answer := s.byCrown Crown.groveStale

/-- DEAD_FAIL_TIMEOUT (R366). -/
def execDeadFailTimeout (port : Nat) (s : State) : Answer := s.byHbm (·.deadFail port)

/-- VACANCY_FILL (R368). -/
def execVacancyFill (group : Nat) (s : State) : Answer := s.byHbm (·.vacancyFill group)

/-- HOLD (R368). -/
def execHold (port : Nat) (s : State) : Answer := s.byHbm (·.portCommand 0 port)

/-- UNHOLD (R368). -/
def execUnhold (port : Nat) (s : State) : Answer := s.byHbm (·.portCommand 1 port)

/-- FAIL (R366, R368). -/
def execFail (port : Nat) (s : State) : Answer := s.byHbm (·.portCommand 2 port)

/-- REINSTATE (R368). -/
def execReinstate (port : Nat) (s : State) : Answer := s.byHbm (·.portCommand 3 port)

/-- STAND_IN (R371): the active root names this crown for a pod, or ends it. -/
def execStandIn (pod : Nat) (on : Bool) (s : State) : Answer := s.byCrown (·.standIn pod on)

end Sys2Proof.Machine
end

