-- ==== Sys2Proof/Machine/GuardCommands.lean ====
section
/-! DEFINITION. Commands of sensors, guards, the V/f port and ageing (spec/04_sensors_guards_ageing.md R94 to R122). -/

namespace Sys2Proof.Machine

/-- SENSOR_SAMPLE (R94, R95): a code of channel 0 to 55, or a comparator sample of channel 56 to 63. -/
def execSensorSample (w : LeafSel) (chan v : Nat) (s : State) : Answer := s.byLeafGuard w (·.sample chan v)

/-- RATE_WINDOW_END (R97). -/
def execRateWindowEnd (w : LeafSel) (s : State) : Answer := s.byLeafGuard w Leaf.rateWindow

/-- WATCH_UNIT_WRITE (R98): word `r` of unit `u`. -/
def execWatchUnitWrite (w : LeafSel) (u r v : Nat) (s : State) : Answer := s.byLeafAon w (·.writeUnit u r v)

/-- GUARD_INJECT (R99): GO, the unit and the privilege level of the write. -/
def execGuardInject (w : LeafSel) (go : Bool) (u priv : Nat) (s : State) : Answer := s.byLeafGuard w (·.inject go u priv)

/-- FENCE_CLR (R102). -/
def execFenceClr (w : LeafSel) (mask priv : Nat) (s : State) : Answer := s.byLeafGuard w (·.fenceClr mask priv)

/-- A synchronised sample of a work-class input; those of a self leaf's guards 0 to 3 are tied to tenant and give no other (R269). -/
def Leaf.wclassSample (l : Leaf) (g : Nat) (radio : Bool) : Leaf := if l.tied g && radio then l else l.wclassInput g radio

/-- WCLASS_CHANGE (R103): a synchronised sample of a guard's work-class input. -/
def execWclassChange (w : LeafSel) (g : Nat) (radio : Bool) (s : State) : Answer := s.byLeafGuard w (·.wclassSample g radio)

/-- HOLDOFF_EXPIRE (R107). -/
def execHoldoffExpire (w : LeafSel) (u : Nat) (s : State) : Answer := s.byLeafGuard w (·.holdoffEnd u)

/-- VF_REQUEST (R109): the host takes the word presented. -/
def execVfRequest (w : LeafSel) (s : State) : Answer := s.byLeafGuard w Leaf.vfTransfer

/-- A V/f response; one that arrives while L-TIME has failed is lost (R111). -/
def Leaf.vfReply (l : Leaf) (word : Nat) : Leaf := l.vfResponse word (bitOf l.boot.failed 1)

/-- VF_RESPONSE (R111): the response word of Table 4.8. -/
def execVfResponse (w : LeafSel) (word : Nat) (s : State) : Answer := s.byLeafAon w (·.vfReply word)

/-- VF_TIMEOUT (R111). -/
def execVfTimeout (w : LeafSel) (d : Nat) (s : State) : Answer := s.byLeafGuard w (·.vfTimeout d)

/-- VF_REQ (R110): a write of the software target. -/
def execVfReq (w : LeafSel) (word : Nat) (s : State) : Answer := s.byLeafAon w (·.vfSoft word)

/-- MARGIN (R110). -/
def execMargin (w : LeafSel) (d steps : Nat) (s : State) : Answer := s.byLeafAon w (·.vfMargin d steps)

/-- AGEING_POINT (R114 to R118): at a tray crown, of a die unit or array cell: the port, its channel, the operating hours, and for each domain
of the port the steps in force, as the operands of log entry 55. -/
def execAgeingPoint (port chan hours cell : Nat) (doms : List (Nat × Nat)) (s : State) : Answer := s.byHbm (·.ageingPoint port chan hours cell doms)

end Sys2Proof.Machine
end

