-- ==== Sys2Proof/Machine/HeartCommands.lean ====
section
/-! DEFINITION. Commands of the Heartwood (spec/15_heartwood.md R373 to R398), which a leaf on a die alone holds (R24), and of a crown's
meter relay. -/

namespace Sys2Proof.Machine

/-! ### Metering -/

/-- HW_RESET_RELEASE (R373): `romOk` where the ROM's check passed. -/
def execHwResetRelease (romOk : Bool) (s : State) : Answer := s.byLeaf .die (·.heartStart romOk)

/-- HW_TAG_CYCLE (R376): one engine cycle of the tag port. -/
def execHwTagCycle (engine state : Nat) (tvalid : Bool) (tenant req bytes : Nat) (s : State) : Answer :=
  s.byLeaf .die (·.tagCycle engine state tvalid tenant req bytes)

/-- REQUEST_END (R377). -/
def execRequestEnd (tenant req : Nat) (s : State) : Answer := s.byLeaf .die (·.requestEnd tenant req)

/-- POWER_SAMPLE (R379): a pair of codes. -/
def execPowerSample (volts amps : Nat) (s : State) : Answer := s.byLeaf .die (·.powerSample volts amps)

/-- SUBINTERVAL_END (R380). -/
def execSubintervalEnd (s : State) : Answer := s.byLeaf .die Leaf.subEnd

/-- HW_INTERVAL_END (R384). -/
def execHwIntervalEnd (s : State) : Answer := s.byLeaf .die Leaf.intervalEnd

/-- HW_RELEASE (R386). -/
def execHwRelease (hseq : Nat) (s : State) : Answer := s.byLeaf .die (·.heartRelease hseq)

/-- TAMPER (R388). -/
def execTamper (code : Nat) (s : State) : Answer := s.byLeaf .die (·.tamper code)

/-- OSC_FAULT (R391): `bad` where the deviation is beyond 2 %. -/
def execOscFault (bad : Bool) (s : State) : Answer := s.byLeaf .die (·.oscFault bad)

/-! ### Mailbox commands: the header of R389, a payload and, where the command is authenticated, a signature -/

/-- The bytes of a command without a signature. -/
def heartPlain (cmd : Nat) (payload : List Byte) : List Byte := byte cmd ++ zeros 1 ++ le 2 payload.length ++ zeros 4 ++ payload

/-- The bytes of an authenticated command. -/
def heartSigned (cmd ctr : Nat) (payload sig : List Byte) : List Byte := byte cmd ++ zeros 1 ++ le 2 payload.length ++ le 4 ctr ++ payload ++ sig

/-- GET_ID (R390). -/
def execGetId (s : State) : Answer := s.byLeaf .die (·.heartMail (heartPlain 1 []))

/-- ATTEST (R390): with its nonce. -/
def execAttest (nonce : List Byte) (s : State) : Answer := s.byLeaf .die (·.heartMail (heartPlain 2 nonce))

/-- HW_RESTORE (R394): with the checkpoint. -/
def execHwRestore (ckpt : List Byte) (s : State) : Answer := s.byLeaf .die (·.heartMail (heartPlain 3 ckpt))

/-- READ_LOG (R390): from entry `first`. -/
def execReadLog (first : Nat) (s : State) : Answer := s.byLeaf .die (·.heartMail (heartPlain 4 (le 4 first)))

/-- SET_CONFIG (R390). -/
def execSetConfig (ctr : Nat) (payload sig : List Byte) (s : State) : Answer := s.byLeaf .die (·.heartMail (heartSigned 0x10 ctr payload sig))

/-- SEAL (R390). -/
def execSeal (ctr : Nat) (sig : List Byte) (s : State) : Answer := s.byLeaf .die (·.heartMail (heartSigned 0x20 ctr [] sig))

/-- UNSEAL (R390). -/
def execUnseal (ctr : Nat) (sig : List Byte) (s : State) : Answer := s.byLeaf .die (·.heartMail (heartSigned 0x21 ctr [] sig))

/-- CLEAR_TAMPER (R390). -/
def execClearTamper (ctr : Nat) (sig : List Byte) (s : State) : Answer := s.byLeaf .die (·.heartMail (heartSigned 0x22 ctr [] sig))

/-- A command buffer that is turned away (R392); one that is accepted is no CMD_REJECT. -/
def Leaf.heartReject (l : Leaf) (bytes : List Byte) : Leaf :=
  let r := l.heartMail bytes
  if r.toNode.g HW_MBX_CTRL_RESULT = 0 then l else r

/-- CMD_REJECT (R392). -/
def execCmdReject (bytes : List Byte) (s : State) : Answer := s.byLeaf .die (·.heartReject bytes)

/-! ### The relay -/

/-- METER_RELAY_RESTORE (R396): the checkpoint held for the port on its way. -/
def execMeterRelayRestore (port : Nat) (s : State) : Answer := s.byCrown (·.relayDue port)

end Sys2Proof.Machine
end

