-- ==== Sys2Proof/Machine/HostCommands.lean ====
section
/-! DEFINITION. Commands of firmware, of the host interface, of tenant views and of the crown's device ports (spec/20_firmware_host.md R488 to
R509; spec/18_ports.md R464 to R466). A mailbox command comes as its payload after the header of R495. -/

namespace Sys2Proof.Machine

/-! ### Firmware -/

/-- FW_LOAD_DATA (R489): four bytes of an image. -/
def execFwLoadData (v mid : Nat) (s : State) : Answer := s.byHbm (·.busWrite BZ_FW_LOAD_DATA v 3 mid)

/-- FW_LOAD_GO (R489). -/
def execFwLoadGo (s : State) : Answer := s.byHbm Crown.fwLoadGo

/-- WDOG_KICK (R490): value and master of the write. -/
def execWdogKick (v mid : Nat) (s : State) : Answer := s.byHbm (·.busWrite BZ_WDOG_KICK v 3 mid)

/-- WDOG_EXPIRE (R490). -/
def execWdogExpire (s : State) : Answer := s.byHbm Crown.wdogExpire

/-! ### The mailbox (R495 to R497) -/

/-- FEATURES (R495). -/
def execFeatures (p : List Byte) (s : State) : Answer := s.byHbm (·.mailbox 1 p)

/-- HOST_ENTER (R496). -/
def execHostEnter (p : List Byte) (s : State) : Answer := s.byHbm (·.mailbox 2 p)

/-- HOST_EXIT (R496). -/
def execHostExit (p : List Byte) (s : State) : Answer := s.byHbm (·.mailbox 3 p)

/-- PCIE_LINK_DOWN_TIMEOUT (R496). -/
def execPcieLinkDownTimeout (s : State) : Answer := s.byHbm Crown.linkDown

/-- MOVE (R495). -/
def execMove (p : List Byte) (s : State) : Answer := s.byHbm (·.mailbox 4 p)

/-- MOVE_DONE (R495): the bytes read from host memory. -/
def execMoveDone (bytes : List Byte) (s : State) : Answer := s.byHbm (·.moveDone bytes)

/-- CONFIG_COMMAND (R497). -/
def execConfigCommand (p : List Byte) (s : State) : Answer := s.byHbm (·.mailbox 5 p)

/-- JOB_START_COMMAND (R495). -/
def execJobStartCommand (p : List Byte) (s : State) : Answer := s.byHbm (·.mailbox 6 p)

/-- JOB_START_DONE (R495). -/
def execJobStartDone (s : State) : Answer := s.byCrown Crown.jobStartDone

/-! ### Tenant views (R498 to R505) -/

/-- VIEW_CREATE (R498). -/
def execViewCreate (p : List Byte) (s : State) : Answer := s.byHbm (·.mailbox 0x10 p)

/-- VIEW_DESTROY (R495). -/
def execViewDestroy (p : List Byte) (s : State) : Answer := s.byHbm (·.mailbox 0x11 p)

/-- VIEW_FREEZE (R501). -/
def execViewFreeze (p : List Byte) (s : State) : Answer := s.byHbm (·.mailbox 0x12 p)

/-- VIEW_THAW (R495). -/
def execViewThaw (p : List Byte) (s : State) : Answer := s.byHbm (·.mailbox 0x13 p)

/-- VIEW_SAVE (R502): `hostData` is what host memory holds of the view's rings. -/
def execViewSave (p hostData : List Byte) (s : State) : Answer := s.byHbm (·.viewSaveCommand p hostData)

/-- VIEW_RESTORE (R503): the blob read from host memory. -/
def execViewRestore (p blob : List Byte) (s : State) : Answer := s.byHbm (·.viewRestoreCommand p blob)

/-- A tenant's write of its ring's CTRL through the view's page. -/
def Crown.viewRingCtrl (c : Crown) (v r w : Nat) : Crown :=
  if c.live 17 then c.viewWrite (BZ_Vv_RINGr_CTRL v r) w (0x40 + v) else c

/-- VIEW_RING_ENABLE (R499): ring `r` of view `v`, and the word written. -/
def execViewRingEnable (v r w : Nat) (s : State) : Answer := s.byCrown (·.viewRingCtrl v r w)

/-- The dispatcher works while NOC runs (R500, Table 19.5). -/
def Crown.viewTurn (c : Crown) (want : Nat) : Crown := if c.live 3 then c.viewDispatch want else c

/-- VIEW_DISPATCH (R500): `want` is the ring taken where several of a view pend (log entry 77). -/
def execViewDispatch (want : Nat) (s : State) : Answer := s.byHbm (·.viewTurn want)

/-- VIEW_COMPLETION (R500): of the views' queue of kind `r`: 0 engine, 1 tree, 2 Grove. -/
def execViewCompletion (r : Nat) (s : State) : Answer := s.byHbm (·.viewCompletion r)

/-- A tenant's write of GO to its DMA channel. -/
def Crown.viewDmaGo (c : Crown) (v : Nat) (toHbm : Bool) : Crown :=
  if c.live 17 then c.viewWrite (BZ_Vv_DMA_CTRL v) (putBits (putBits 0 31 31 1) 30 30 (b2n toHbm)) (0x40 + v) else c

/-- VIEW_DMA_GO (R504). -/
def execViewDmaGo (v : Nat) (toHbm : Bool) (s : State) : Answer := s.byCrown (·.viewDmaGo v toHbm)

/-- VIEW_DMA_DONE (R504): the bytes read from host memory. -/
def execViewDmaDone (v : Nat) (bytes : List Byte) (s : State) : Answer := s.byHbm (·.dmaDone v bytes)

/-! ### Device ports -/

/-- PMBUS_ALERT (R466): the status words read. -/
def execPmbusAlert (words : List Nat) (s : State) : Answer := s.byCrown (·.pmbusAlert words)

/-- DFI_PHY_REQUEST (R464): of controller `k`, raised or withdrawn. -/
def execDfiPhyRequest (k : Nat) (on : Bool) (s : State) : Answer := s.byCrown (·.dfiRequest k on)

end Sys2Proof.Machine
end

