-- ==== Sys2Proof/Machine/ModeCommands.lean ====
section
/-! DEFINITION. Commands of control modes and rehearsals (spec/17_modes_degraded.md R428 to R442) and of clocks (spec/19_clocks_resets.md R472 to
R487). -/

namespace Sys2Proof.Machine

/-! ### Modes and rehearsals -/

/-- ENTER (R430). -/
def execEnter (s : State) : Answer := s.byHbm Crown.modeEnter

/-- EXIT (R430). -/
def execExit (s : State) : Answer := s.byHbm Crown.modeExit

/-- REHEARSAL_DUE (R438). -/
def execRehearsalDue (s : State) : Answer := s.byCrown Crown.rehearsalDue

/-- REHEARSAL_DETECT_TIMEOUT (R441). -/
def execRehearsalDetectTimeout (s : State) : Answer := s.byCrown Crown.rehearsalTimeout

/-- REHEARSAL_PASS (R441). -/
def execRehearsalPass (s : State) : Answer := s.byCrown Crown.rehearsalPass

/-- REHEARSAL_ABORT (R440). -/
def execRehearsalAbort (s : State) : Answer := s.byCrown Crown.rehearsalAbort

/-- LANE_HOLD_END (R438). -/
def execLaneHoldEnd (s : State) : Answer := s.byCrown Crown.laneHoldEnd

/-! ### Clocks and resets -/

/-- CLOCK_FAIL (R478): a domain of a leaf (Table 19.6), or a source of the crown (Table 19.2; 18 and 19 its references). -/
def execClockFail (b : Block) (d : Nat) (s : State) : Answer := s.byBlock b (·.clockFail d) (·.clockFail d)

/-- CLOCK_RETURN (R480). -/
def execClockReturn (b : Block) (d : Nat) (s : State) : Answer := s.byBlockHbm b (·.clockReturn d) (·.clockReturn d)

/-- PLL_LOCK (R473). -/
def execPllLock (d : Nat) (s : State) : Answer := s.byCrown (·.pllLock d)

/-- CLK_CTRL_WRITE (R473). -/
def execClkCtrlWrite (d v : Nat) (s : State) : Answer := s.byCrown (·.clkCtrlWrite d v)

/-- CLOCK_SWITCH_DONE (R474). -/
def execClockSwitchDone (d : Nat) (s : State) : Answer := s.byCrown (·.switchDone d)

/-- PLL_LOCK_TIMEOUT (R484). -/
def execPllLockTimeout (d : Nat) (s : State) : Answer := s.byCrown (·.lockTimeout d)

/-- RST_CMD (R485): the word written. -/
def execRstCmd (v : Nat) (s : State) : Answer := s.byHbm (·.rstCmd v)

end Sys2Proof.Machine
end

