-- ==== Sys2Proof/Machine/RingCommands.lean ====
section
/-! DEFINITION. Commands of Ring logs, mirrors and operating seconds (spec/07_ring_log.md R166 to R180). -/

namespace Sys2Proof.Machine

/-- RESTORE (R167). -/
def execRestore (w : LeafSel) (base pcc : Nat) (s : State) : Answer := s.byLeafSap w (·.restore base pcc)

/-- POWER_UP (R168): the record of the leaf on a port, with the resets it names. -/
def execPowerUp (port bits : Nat) (s : State) : Answer := s.byCrown (·.takePowerUp port bits)

/-- OPSEC_SAVE (R168). -/
def execOpsecSave (s : State) : Answer := s.byCrown Crown.opsecSave

/-- RLOG_RST_PORT (R168): the word written. -/
def execRlogRstPort (v : Nat) (s : State) : Answer := s.byCrown (·.rstPort v)

/-- MIRROR_RECORD (R171): the bytes of a record, for mirror `k` (a port; 64 the self leaf; 65 the other root). -/
def execMirrorRecord (k : Nat) (bytes : List Byte) (s : State) : Answer := s.byCrown (·.mirrorBytes k false bytes)

/-- MIRROR_ACK (R171): at the crown it is sent for mirror `k`; a leaf stores `seq`. -/
def execMirrorAck (b : Block) (k seq : Nat) (s : State) : Answer := s.byBlock b (fun l => l.unless l.sapHeld (·.mirrorAck seq)) (·.mirrorAckSend k)

/-- RLOG_READ (R173). -/
def execRlogRead (b : Block) (seq priv : Nat) (s : State) : Answer := s.byBlock b (fun l => l.unless l.aonDead (·.rlogRead seq priv)) (·.rlogRead seq)

/-- READ (R174): records of a block's own ring. -/
def execRead (b : Block) (first count : Nat) (s : State) : Answer :=
  s.byBlock b (fun l => l.unless l.sapHeld (·.ringRequest first count)) (·.ownRing (byte 0x40 ++ zeros 3 ++ le 4 first ++ le 4 count))

/-- DATA (R174): a reply for mirror `k`. -/
def execData (k : Nat) (body : List Byte) (s : State) : Answer := s.byCrown (·.ringReply k body)

/-- MIRROR_READ (R174). -/
def execMirrorRead (node first count : Nat) (s : State) : Answer := s.byCrown (·.mirrorRead node first count)

/-- CLEAR_TICKET (R175, R176). -/
def execClearTicket (ticket : List Byte) (s : State) : Answer := s.byCrown (·.clearTicket ticket)

/-- RLOG_CLEAR (R177): HIGH_SEQ, PCC, NONCE and the digest of the ticket. -/
def execRlogClear (b : Block) (high pcc nonce : Nat) (digest : List Byte) (s : State) : Answer :=
  s.byBlock b (fun l => l.unless l.sapHeld (·.clearRing high pcc nonce digest))
    (·.ownRing (byte 0x44 ++ zeros 3 ++ le 4 high ++ le 3 pcc ++ zeros 1 ++ le 8 nonce ++ (digest ++ zeros 16).take 16))

end Sys2Proof.Machine
end

