-- ==== Sys2Proof/Machine/TimeCommands.lean ====
section
/-! DEFINITION. Commands of canopy time: exchanges, PPS, edge capture and pulse trains (spec/02_time.md R32 to R60, R510, R511). -/

namespace Sys2Proof.Machine

/-- TIME_NOW_CAPTURE (R33): a read of NOW0 latches the word for its privilege level. -/
def execTimeNowCapture (b : Block) (priv : Nat) (s : State) : Answer := s.byNode b (·.captureNow priv)

/-- The lanes a crown starts exchanges on (R37): each downlink in service, a peer lane of a tray crown over which a re-homed neighbour sends its traffic,
and an active root's peer lanes. -/
def Crown.exchangeLane (c : Crown) (k : Nat) : Bool :=
  c.toNode.up k && (decide (k < 64) || decide (66 ≤ k ∧ k < 70) && (if c.role = 3 then c.activeRoot else c.role == 1 && (c.toNode.lane k).carried))

/-- An exchange starts where one is due (R37). -/
def Crown.exchangeStart (c : Crown) (lane : Nat) : Crown :=
  if c.exchangeLane lane && c.toNode.exchangeDue lane then c.on (·.startExchange lane) else c

/-- The exchanges due on the lanes from `first` to `last`. -/
def Crown.exchangesStart (c : Crown) (first last : Nat) : Crown := ((List.range 72).filter (fun k => first ≤ k && k ≤ last)).foldl Crown.exchangeStart c

/-- EXCHANGE_START (R37): TSYNC on each lane from `first` to `last` on which an exchange is due. -/
def execExchangeStart (first last : Nat) (s : State) : Answer := s.byCrown (fun c => c.unless c.timeDead (·.exchangesStart first last))

/-- TSYNC (R38): the message, and what R39 asks of the Bark frame that carried it. -/
def execTsync (b : Block) (lane : Nat) (msg : List Byte) (marker : Option PortTime) (uncorrected replay : Bool) (s : State) : Answer :=
  s.byTime b (·.takeTsync lane msg ⟨marker, uncorrected, replay⟩)

/-- TDELAY at the crown, with a TSTATUS where the child's state has changed (R38, R151). -/
def Crown.tdelay (c : Crown) (lane : Nat) (msg : List Byte) (f : TimeFrame) : Crown := (c.on (·.takeTdelay lane msg f)).childChanged lane

/-- TDELAY (R38): as TSYNC. -/
def execTdelay (lane : Nat) (msg : List Byte) (f : TimeFrame) (s : State) : Answer := s.byCrown (fun c => c.unless c.timeDead (·.tdelay lane msg f))

/-- TRESP (R39, R40). -/
def execTresp (b : Block) (lane : Nat) (msg : List Byte) (bad : Bool) (s : State) : Answer := s.byTime b (·.takeTresp lane msg bad)

/-- HOLDOVER is entered where Table 2.2 has it due. -/
def Node.holdoverEnter (n : Node) (pps : Bool) : Node := if n.holdoverDue pps then n.enterHoldover else n

/-- HOLDOVER_ENTER (R42). -/
def execHoldoverEnter (b : Block) (s : State) : Answer :=
  s.byBlock b (fun l => l.unless l.timeDead (·.onTime (·.leafParent.holdoverEnter false))) (fun c => c.unless c.timeDead (fun c => c.followUp.on (·.holdoverEnter c.byPps)))

/-- BOUND_HOLDOVER_UPDATE (R45). -/
def execBoundHoldoverUpdate (b : Block) (s : State) : Answer := s.byTime b Node.holdoverBound

/-- A PPS edge at a crown, by its role (R48, R50, R51, R468): stamped where capture input 0 is enabled for rising edges (R52). An active root 1 disciplines by
rate alone, so it never steps by one. -/
def Crown.ppsEdge (c : Crown) : Crown :=
  let stamp := c.toNode.now - c.toNode.capLat 0
  if c.role = 1 ∨ c.role = 2 ∨ !bitOf (c.g (TIME_CAP_CTRL_EN c.toNode.tb)) 0 ∨ bitOf (c.g (TIME_CAP_CTRL_FALL c.toNode.tb)) 0 then c
  else if c.role = 3 ∧ c.bring.boot.root1 then
    if c.red.active && c.toNode.stepped then c.on (·.ppsDiscipline stamp) else c.on (·.ppsDiff stamp)
  else (c.on (·.ppsDiscipline stamp)).ingestWaiting

/-- PPS_EDGE (R48). -/
def execPpsEdge (s : State) : Answer := s.byCrown (fun c => c.unless c.timeDead Crown.ppsEdge)

/-- A time-of-day message; TRAY and POD crowns ignore the input (R468). -/
def Crown.todMessage (c : Crown) (l : List Byte) : Crown := if c.role = 1 ∨ c.role = 2 then c else c.on (·.takeTod l)

/-- TOD_MESSAGE (R49, R468): the 18 bytes with their preamble. -/
def execTodMessage (bytes : List Byte) (s : State) : Answer := s.byCrown (fun c => c.unless c.timeDead (·.todMessage bytes))

/-- TIME_SET_GO (R51): in SOLO role alone. -/
def Crown.timeSetGo (c : Crown) : Crown := if c.role = 0 then (c.on Node.timeSet).ingestWaiting else c

/-- TIME_SET_GO (R51). -/
def execTimeSetGo (s : State) : Answer := s.byCrown (fun c => c.unless c.timeDead Crown.timeSetGo)

/-- CAPTURE_EDGE (R52): a synchronised sample of a capture input. -/
def execCaptureEdge (b : Block) (input : Nat) (level : Bool) (s : State) : Answer := s.byCapture b (·.capSample input level)

/-- CAPTURE_POP (R53): a read of W3. -/
def execCapturePop (b : Block) (input : Nat) (s : State) : Answer := s.byNode b (·.capPop input)

/-- PULSE_ARM (R55). -/
def execPulseArm (w : LeafSel) (train : Nat) (s : State) : Answer := s.byLeafTime w (·.on (·.ptArm train))

/-- PULSE_TAKEOVER (R55). -/
def execPulseTakeover (w : LeafSel) (train : Nat) (s : State) : Answer := s.byLeafTime w (·.on (·.ptTakeover train))

/-- PULSE_EDGE (R54). -/
def execPulseEdge (w : LeafSel) (train : Nat) (s : State) : Answer := s.byLeafTime w (·.on (·.ptEdge train))

/-- PULSE_ENABLE_WRITE (R510). -/
def execPulseEnableWrite (w : LeafSel) (train : Nat) (on : Bool) (s : State) : Answer := s.byLeafTime w (·.on (·.ptEnable train on))

end Sys2Proof.Machine
end

