-- ==== Sys2Proof/Machine/TraceCommands.lean ====
section
/-! DEFINITION. Commands of the trace unit (spec/05_trace.md R124 to R136). The trace ports of a self leaf are tied off (R462), so
what comes over them comes to a leaf on a die. -/

namespace Sys2Proof.Machine

/-- TRACE_RETIRE (R125): a retirement group of a core. -/
def execTraceRetire (core : Nat) (inp : TrcIn) (s : State) : Answer := s.byTrace .die core (·.trcRetire core inp)

/-- LOSS (R132). -/
def execLoss (core : Nat) (s : State) : Answer := s.byTrace .die core (·.trcLoss core)

/-- LP_ENTER (R130). -/
def execLpEnter (core : Nat) (s : State) : Answer := s.byTrace .die core (·.trcLpEnter core)

/-- TRACE_LP_EXIT (R130). -/
def execTraceLpExit (core : Nat) (s : State) : Answer := s.byTrace .die core (·.trcLpExit core)

/-- TRACE_CTRL_WRITE (R127). -/
def execTraceCtrlWrite (w : LeafSel) (core v : Nat) (s : State) : Answer := s.byLeafSap w (·.trcCtrl core v)

/-- TRACE_DRAIN (R134). -/
def execTraceDrain (w : LeafSel) (s : State) : Answer := s.byLeafSap w Leaf.traceDrain

end Sys2Proof.Machine
end

