-- ==== Sys2Proof/Machine/TrafficCommands.lean ====
section
/-! DEFINITION. Commands of reduction, load shifting, flex lanes and the egress schedulers (spec/09_reduction_traffic.md R210 to R237). -/

namespace Sys2Proof.Machine

/-! ### Reduction (R210 to R225) -/

/-- A plan's next window closes while the crown reads its inputs, which it reads first (R210, R213). -/
def Crown.closeDue (c : Crown) (slot : Nat) : Crown := if c.ingesting then c.ingestWaiting.windowClose slot else c

/-- WINDOW_CLOSE (R213). -/
def execWindowClose (slot : Nat) (s : State) : Answer := s.byCrown (·.closeDue slot)

/-- A record of KIND 0x0F whose TYPE is the one the command names (R222); it waits while the crown reads no inputs (R210). -/
def Crown.redRecord (c : Crown) (lane typ : Nat) (body : List Byte) : Crown :=
  if field body 16 1 = typ then c.arriveCounters ⟨lane, 0x0F, 0, 0, body⟩ else c

/-- AGG (R224): from a child's lane. -/
def execAgg (lane : Nat) (body : List Byte) (s : State) : Answer := s.byCrown (·.redRecord lane 0x30 body)

/-- RAW (R225). -/
def execRaw (lane : Nat) (body : List Byte) (s : State) : Answer := s.byCrown (·.redRecord lane 0x31 body)

/-- The end of a 1 ms interval: loads, the shift rules, the window engine's load and overload (R223, R315, R434). -/
def Crown.intervalEnd (c : Crown) (parentIdle : Bool) : Crown := ((c.loadInterval parentIdle).flexWatch.winLoad).overload

/-- LOAD_INTERVAL (R223): `parentIdle` says that the parent has been idle in the interval (R226). -/
def execLoadInterval (parentIdle : Bool) (s : State) : Answer := s.byCrown (·.intervalEnd parentIdle)

/-- SHIFT (R224). -/
def execShift (lane : Nat) (body : List Byte) (s : State) : Answer := s.byCrown (·.redRecord lane 0x33 body)

/-- LOAD (R223): from a child's lane. -/
def execLoad (lane : Nat) (body : List Byte) (s : State) : Answer := s.byCrown (·.redRecord lane 0x32 body)

/-! ### Flex circuits (R226 to R228) -/

/-- REQ (R226): 1 re-homing, 2 uplink saturated, 3 firmware. -/
def execReq (reason : Nat) (s : State) : Answer := s.byCrown (·.flexReq reason)

/-- A GRANT is taken, and classes move where the flex lane is in service (R227, R228). -/
def Crown.granted (c : Crown) (body : List Byte) : Crown := (c.grant body).flexMove.followUp

/-- GRANT (R227), once its node words are judged (R18). -/
def execGrant (body : List Byte) (s : State) : Answer := s.byCrown (·.judged [field body 20 4] [field body 28 4] (·.granted body))

/-- DENY (R227), once its node words are judged (R18). -/
def execDeny (body : List Byte) (s : State) : Answer := s.byCrown (·.judged [field body 20 4] [field body 28 4] (·.deny body))

/-- RELEASE (R228): what the circuit carried moves back. -/
def execRelease (s : State) : Answer := s.byCrown (·.flexRelease.followUp)

/-- FLEX_TIMEOUT (R227). -/
def execFlexTimeout (s : State) : Answer := s.byCrown Crown.flexTimeout

/-! ### Egress (R231 to R237) -/

/-- SHAPER_REFILL (R231). -/
def execShaperRefill (s : State) : Answer := s.byCrown Crown.shaperRefill

/-- GO (R233): of the gate list of a lane. -/
def execGo (lane : Nat) (s : State) : Answer := s.byCrown (·.gateGo lane)

/-- GATE_TAKEOVER (R233). -/
def execGateTakeover (lane : Nat) (s : State) : Answer := s.byCrown (·.gateTakeover lane)

/-- QUEUE_SAMPLE (R234). -/
def execQueueSample (s : State) : Answer := s.byCrown Crown.queueSample

/-- NSAMP_READ (R234): the read of BZ_SCHl_Qq_NSAMP. -/
def execNsampRead (lane queue priv mid : Nat) (s : State) : Answer :=
  s.byCrown (·.answerRead (BZ_SCHl_Qq_NSAMP lane queue) priv mid)

/-- STRICT_DISCARD (R237). -/
def execStrictDiscard (lane : Nat) (s : State) : Answer := s.byCrown (·.strictDiscard lane)

end Sys2Proof.Machine
end

