-- ==== Sys2Proof/Machine/TreeCommands.lean ====
section
/-! DEFINITION. Commands of the feature stage, the ensemble loader and the tree pipelines (spec/11_tree_ensembles.md R271 to R292). -/

namespace Sys2Proof.Machine

/-- VECTOR_FORM (R277): of feature set slot `slot`. -/
def execVectorForm (slot : Nat) (s : State) : Answer := s.byHbm (·.vectorForm slot)

/-- LOAD_ENSEMBLE (R284): the word written to BZ_ENSe_CMD, with LOAD set. -/
def Crown.loadCommand (c : Crown) (e v : Nat) : Crown := c.ensCommand e (putBits v 31 31 1)

/-- LOAD_ENSEMBLE (R284). -/
def execLoadEnsemble (e v : Nat) (s : State) : Answer := s.byCrown (·.loadCommand e v)

/-- ENSEMBLE_LOADED (R284): `ok` where the node store was written without an error. -/
def execEnsembleLoaded (e : Nat) (ok : Bool) (s : State) : Answer := s.byHbm (·.ensLoaded e ok)

/-- UNLOAD (R286). -/
def execUnload (e : Nat) (s : State) : Answer := s.byCrown (·.ensUnload e)

/-- The domains of a tree job run (Table 19.5). -/
def Crown.treesAlive (c : Crown) : Bool := c.live 9 && c.live 3

/-- TREE_JOB_START where the domains run. -/
def Crown.treeBegin (c : Crown) (k : Nat) : Crown := if c.treesAlive then c.treeStart k else c

/-- TREE_JOB_START (R289). -/
def execTreeJobStart (k : Nat) (s : State) : Answer := s.byHbm (·.treeBegin k)

/-- TREE_JOB_COMPLETE where the domains run and no PHY request holds a controller (R464). -/
def Crown.treeFinish (c : Crown) (k : Nat) : Crown := if c.treesAlive && !c.dfiHolds then c.treeComplete k else c

/-- TREE_JOB_COMPLETE (R289). -/
def execTreeJobComplete (k : Nat) (s : State) : Answer := s.byHbm (·.treeFinish k)

/-- TREE_FAULT (R291): 0 node store, 1 HBM, 2 domain. -/
def execTreeFault (k cause : Nat) (s : State) : Answer := s.byHbm (·.treeFault k cause)

end Sys2Proof.Machine
end

