-- ==== Sys2Proof/Machine/TwigCommands.lean ====
section
/-! DEFINITION. Commands of Twigs and the Sap reader (spec/03_twig_counters.md R61 to R93; spec/18_ports.md R451). -/

namespace Sys2Proof.Machine

/-- ENUM_RETURN (R451): COUNT and STAGE of the returning ENUM word, and what the stage queries give of each Twig in order. -/
def execEnumReturn (w : LeafSel) (ntwig loop : Nat) (chain : List TwigAt) (s : State) : Answer := s.byLeafSap w (·.enumReturn ntwig loop chain)

/-- READ_TIMEOUT (R62). -/
def execReadTimeout (w : LeafSel) (s : State) : Answer := s.byLeafSap w Leaf.readTimeout

/-- An L-HOST cycle at a Twig with its inputs (R63 to R74). While L-SAP is in reset its counters stay at 0, and without L-SAP's clock the issue
hold is forced to 0 (R481, Table 19.4). -/
def Leaf.twigCycle (l : Leaf) (t : Nat) (i : TwigIn) : Leaf :=
  let w := (l.twig t).cycle i
  let w := if bitOf l.boot.held 2 || l.boot.held % 2 == 1 then w.sapReset else w
  l.setTwig t (if l.sapHeld then { w with hold := false } else w)

/-- TWIG_HOST_CYCLE (R63). -/
def execTwigHostCycle (w : LeafSel) (t : Nat) (inp : TwigIn) (s : State) : Answer := s.byLeaf w (·.twigCycle t inp)

/-- TWIG_CFG_APPLY (R66): the configuration write on its way to a Twig reaches it. -/
def execTwigCfgApply (w : LeafSel) (t : Nat) (s : State) : Answer := s.byLeaf w (·.cfgApply t)

/-- FLUSH_BINS (R72): every enabled Twig begins to close its bins. -/
def Leaf.flushBins (l : Leaf) : Leaf := { l with twigs := l.twigs.map (fun e => (e.1, e.2.startFlush)) }

/-- FLUSH_BINS (R72). -/
def execFlushBins (w : LeafSel) (s : State) : Answer := s.byLeafSap w Leaf.flushBins

/-- FLUSH_RESUME (R72): one more close where a record-queue entry is free. -/
def Leaf.flushResume (l : Leaf) (t : Nat) : Leaf := l.setTwig t (l.twig t).flushOne

/-- FLUSH_RESUME (R72). -/
def execFlushResume (w : LeafSel) (t : Nat) (s : State) : Answer := s.byLeafSap w (·.flushResume t)

/-- MARKER (R76): a write of TZ_MARKn_DATA by a privilege level and a master. -/
def execMarker (w : LeafSel) (n data priv mid : Nat) (s : State) : Answer := s.byLeafSap w (·.marker n data priv mid)

/-- SWEEP_DUE (R77). -/
def execSweepDue (w : LeafSel) (g : Nat) (s : State) : Answer := s.byLeafSap w (·.sweepDue g)

/-- SWEEP_START (R78). -/
def execSweepStart (w : LeafSel) (s : State) : Answer := s.byLeafSap w Leaf.sweepStart

/-- READ_RESPONSE (R80). -/
def execReadResponse (w : LeafSel) (s : State) : Answer := s.byLeafSap w Leaf.readResponse

/-- SWEEP_COMPLETE (R83). -/
def execSweepComplete (w : LeafSel) (s : State) : Answer := s.byLeafSap w Leaf.sweepComplete

/-- GROUP_CFG_APPLY (R79). -/
def execGroupCfgApply (w : LeafSel) (s : State) : Answer := s.byLeafSap w Leaf.groupApply

/-- SAP_EN_WRITE (R79). -/
def execSapEnWrite (w : LeafSel) (on : Bool) (s : State) : Answer := s.byLeafSap w (·.sapEn on)

/-- A read of TZ_CNT_LO of a counter: VALUE[31:0], and the rest latched for the level (R89). -/
def Leaf.counterRead (l : Leaf) (i priv : Nat) : Leaf :=
  let (v, l) := l.windowRead i priv
  l.emit (.response (BitVec.ofNat 32 v) 0)

/-- COUNTER_WINDOW_READ (R89). -/
def execCounterWindowRead (w : LeafSel) (index priv : Nat) (s : State) : Answer := s.byLeafSap w (·.counterRead index priv)

/-- TWIG_CFG_GO (R91). -/
def execTwigCfgGo (w : LeafSel) (write : Bool) (t word : Nat) (s : State) : Answer := s.byLeafSap w (·.cfgGo write t word)

/-- CRESP (R91): with the Twig's error bit. -/
def execCresp (w : LeafSel) (err : Bool) (s : State) : Answer := s.byLeafSap w (·.cresp err)

/-- TWIG_CFG_TIMEOUT (R91). -/
def execTwigCfgTimeout (w : LeafSel) (s : State) : Answer := s.byLeafSap w Leaf.cfgTimeout

/-- EVENT_BEAT (R452): the next beat of a Twig's record on the chain. -/
def execEventBeat (w : LeafSel) (t : Nat) (s : State) : Answer := s.byLeafSap w (·.eventBeat t)

end Sys2Proof.Machine
end

