-- ==== Sys2Proof/Machine/Dispatch.lean ====
section
/-! DEFINITION. What a command does to everything but the queue: one arm per command, one call each. -/

namespace Sys2Proof.Machine

def exec (i : Instr) (s : State) : Host.Outcome State Fault Refusal :=
  match i with
  | .aonResetRelease role root1 pins => Sys2Proof.Machine.execAonResetRelease role root1 pins s
  | .lAonResetRelease pins => Sys2Proof.Machine.execLAonResetRelease pins s
  | .resetAssert b r => Sys2Proof.Machine.execResetAssert b r s
  | .timeResetRelease b => Sys2Proof.Machine.execTimeResetRelease b s
  | .lSapResetRelease w => Sys2Proof.Machine.execLSapResetRelease w s
  | .twigResetAssert w t => Sys2Proof.Machine.execTwigResetAssert w t s
  | .twigResetRelease w t => Sys2Proof.Machine.execTwigResetRelease w t s
  | .traceCoreReset core => Sys2Proof.Machine.execTraceCoreReset core s
  | .registerWrite b at_ v priv mid deferred => Sys2Proof.Machine.execRegisterWrite b at_ v priv mid deferred s
  | .rcRead b at_ priv mid deferred => Sys2Proof.Machine.execRcRead b at_ priv mid deferred s
  | .registerPortRequest write addr be data priv mid => Sys2Proof.Machine.execRegisterPortRequest write addr be data priv mid s
  | .rehomeStart => Sys2Proof.Machine.execRehomeStart s
  | .rehomeReturn => Sys2Proof.Machine.execRehomeReturn s
  | .root1Activate => Sys2Proof.Machine.execRoot1Activate s
  | .timeNowCapture b priv => Sys2Proof.Machine.execTimeNowCapture b priv s
  | .exchangeStart first last => Sys2Proof.Machine.execExchangeStart first last s
  | .tsync b lane msg marker uncorrected replay => Sys2Proof.Machine.execTsync b lane msg marker uncorrected replay s
  | .tdelay lane msg f => Sys2Proof.Machine.execTdelay lane msg f s
  | .tresp b lane msg bad => Sys2Proof.Machine.execTresp b lane msg bad s
  | .holdoverEnter b => Sys2Proof.Machine.execHoldoverEnter b s
  | .boundHoldoverUpdate b => Sys2Proof.Machine.execBoundHoldoverUpdate b s
  | .ppsEdge => Sys2Proof.Machine.execPpsEdge s
  | .todMessage bytes => Sys2Proof.Machine.execTodMessage bytes s
  | .timeSetGo => Sys2Proof.Machine.execTimeSetGo s
  | .captureEdge b input level => Sys2Proof.Machine.execCaptureEdge b input level s
  | .capturePop b input => Sys2Proof.Machine.execCapturePop b input s
  | .pulseArm w train => Sys2Proof.Machine.execPulseArm w train s
  | .pulseTakeover w train => Sys2Proof.Machine.execPulseTakeover w train s
  | .pulseEdge w train => Sys2Proof.Machine.execPulseEdge w train s
  | .pulseEnableWrite w train on => Sys2Proof.Machine.execPulseEnableWrite w train on s
  | .enumReturn w ntwig loop chain => Sys2Proof.Machine.execEnumReturn w ntwig loop chain s
  | .readTimeout w => Sys2Proof.Machine.execReadTimeout w s
  | .twigHostCycle w t inp => Sys2Proof.Machine.execTwigHostCycle w t inp s
  | .twigCfgApply w t => Sys2Proof.Machine.execTwigCfgApply w t s
  | .flushBins w => Sys2Proof.Machine.execFlushBins w s
  | .flushResume w t => Sys2Proof.Machine.execFlushResume w t s
  | .marker w n data priv mid => Sys2Proof.Machine.execMarker w n data priv mid s
  | .sweepDue w g => Sys2Proof.Machine.execSweepDue w g s
  | .sweepStart w => Sys2Proof.Machine.execSweepStart w s
  | .readResponse w => Sys2Proof.Machine.execReadResponse w s
  | .sweepComplete w => Sys2Proof.Machine.execSweepComplete w s
  | .groupCfgApply w => Sys2Proof.Machine.execGroupCfgApply w s
  | .sapEnWrite w on => Sys2Proof.Machine.execSapEnWrite w on s
  | .counterWindowRead w index priv => Sys2Proof.Machine.execCounterWindowRead w index priv s
  | .twigCfgGo w write t word => Sys2Proof.Machine.execTwigCfgGo w write t word s
  | .cresp w err => Sys2Proof.Machine.execCresp w err s
  | .twigCfgTimeout w => Sys2Proof.Machine.execTwigCfgTimeout w s
  | .eventBeat w t => Sys2Proof.Machine.execEventBeat w t s
  | .sensorSample w chan v => Sys2Proof.Machine.execSensorSample w chan v s
  | .rateWindowEnd w => Sys2Proof.Machine.execRateWindowEnd w s
  | .watchUnitWrite w u r v => Sys2Proof.Machine.execWatchUnitWrite w u r v s
  | .guardInject w go u priv => Sys2Proof.Machine.execGuardInject w go u priv s
  | .fenceClr w mask priv => Sys2Proof.Machine.execFenceClr w mask priv s
  | .wclassChange w g radio => Sys2Proof.Machine.execWclassChange w g radio s
  | .holdoffExpire w u => Sys2Proof.Machine.execHoldoffExpire w u s
  | .vfRequest w => Sys2Proof.Machine.execVfRequest w s
  | .vfResponse w word => Sys2Proof.Machine.execVfResponse w word s
  | .vfTimeout w d => Sys2Proof.Machine.execVfTimeout w d s
  | .vfReq w word => Sys2Proof.Machine.execVfReq w word s
  | .margin w d steps => Sys2Proof.Machine.execMargin w d steps s
  | .ageingPoint port chan hours cell doms => Sys2Proof.Machine.execAgeingPoint port chan hours cell doms s
  | .traceRetire core inp => Sys2Proof.Machine.execTraceRetire core inp s
  | .loss core => Sys2Proof.Machine.execLoss core s
  | .lpEnter core => Sys2Proof.Machine.execLpEnter core s
  | .traceLpExit core => Sys2Proof.Machine.execTraceLpExit core s
  | .traceCtrlWrite w core v => Sys2Proof.Machine.execTraceCtrlWrite w core v s
  | .traceDrain w => Sys2Proof.Machine.execTraceDrain w s
  | .recordEnqueue b lane kind cls body => Sys2Proof.Machine.execRecordEnqueue b lane kind cls body s
  | .frameClose b lane cls => Sys2Proof.Machine.execFrameClose b lane cls s
  | .frameSelect b lane => Sys2Proof.Machine.execFrameSelect b lane s
  | .alivePeriodEnd b => Sys2Proof.Machine.execAlivePeriodEnd b s
  | .replayStart b lane cls => Sys2Proof.Machine.execReplayStart b lane cls s
  | .frameReceive b lane bytes => Sys2Proof.Machine.execFrameReceive b lane bytes s
  | .dead lane cls => Sys2Proof.Machine.execDead lane cls s
  | .tstatusPeriodic b => Sys2Proof.Machine.execTstatusPeriodic b s
  | .levelRise b lane cls => Sys2Proof.Machine.execLevelRise b lane cls s
  | .levelFall b lane cls => Sys2Proof.Machine.execLevelFall b lane cls s
  | .qsizeWrite w cls v => Sys2Proof.Machine.execQsizeWrite w cls v s
  | .start w u => Sys2Proof.Machine.execStart w u s
  | .crcData w u v => Sys2Proof.Machine.execCrcData w u v s
  | .restore w base pcc => Sys2Proof.Machine.execRestore w base pcc s
  | .powerUp port bits => Sys2Proof.Machine.execPowerUp port bits s
  | .opsecSave => Sys2Proof.Machine.execOpsecSave s
  | .rlogRstPort v => Sys2Proof.Machine.execRlogRstPort v s
  | .mirrorRecord k bytes => Sys2Proof.Machine.execMirrorRecord k bytes s
  | .mirrorAck b k seq => Sys2Proof.Machine.execMirrorAck b k seq s
  | .rlogRead b seq priv => Sys2Proof.Machine.execRlogRead b seq priv s
  | .read b first count => Sys2Proof.Machine.execRead b first count s
  | .data k body => Sys2Proof.Machine.execData k body s
  | .mirrorRead node first count => Sys2Proof.Machine.execMirrorRead node first count s
  | .clearTicket ticket => Sys2Proof.Machine.execClearTicket ticket s
  | .rlogClear b high pcc nonce digest => Sys2Proof.Machine.execRlogClear b high pcc nonce digest s
  | .laneEnWrite b lane on => Sys2Proof.Machine.execLaneEnWrite b lane on s
  | .retrainWrite b lane => Sys2Proof.Machine.execRetrainWrite b lane s
  | .retrain b lane => Sys2Proof.Machine.execRetrain b lane s
  | .trainStepEnd b lane adc => Sys2Proof.Machine.execTrainStepEnd b lane adc s
  | .probeHeard b lane session countdown => Sys2Proof.Machine.execProbeHeard b lane session countdown s
  | .trainingFrame b lane heard => Sys2Proof.Machine.execTrainingFrame b lane heard s
  | .trialVerdict b lane => Sys2Proof.Machine.execTrialVerdict b lane s
  | .retry b lane => Sys2Proof.Machine.execRetry b lane s
  | .echoEngineGrant => Sys2Proof.Machine.execEchoEngineGrant s
  | .downlinkPassStart => Sys2Proof.Machine.execDownlinkPassStart s
  | .batchStart => Sys2Proof.Machine.execBatchStart s
  | .laneDown b lane cause => Sys2Proof.Machine.execLaneDown b lane cause s
  | .silentEnd b lane => Sys2Proof.Machine.execSilentEnd b lane s
  | .codewordReceive b lane heard => Sys2Proof.Machine.execCodewordReceive b lane heard s
  | .keepaliveSend b lane num den => Sys2Proof.Machine.execKeepaliveSend b lane num den s
  | .keepalive b lane block => Sys2Proof.Machine.execKeepalive b lane block s
  | .lqWindowEnd b lane num den adc => Sys2Proof.Machine.execLqWindowEnd b lane num den adc s
  | .modeReq b lane got => Sys2Proof.Machine.execModeReq b lane got s
  | .modeAck b lane mode => Sys2Proof.Machine.execModeAck b lane mode s
  | .modeGo b lane mode => Sys2Proof.Machine.execModeGo b lane mode s
  | .modeChangeTimeout b lane => Sys2Proof.Machine.execModeChangeTimeout b lane s
  | .windowClose slot => Sys2Proof.Machine.execWindowClose slot s
  | .agg lane body => Sys2Proof.Machine.execAgg lane body s
  | .raw lane body => Sys2Proof.Machine.execRaw lane body s
  | .loadInterval parentIdle => Sys2Proof.Machine.execLoadInterval parentIdle s
  | .shift lane body => Sys2Proof.Machine.execShift lane body s
  | .load lane body => Sys2Proof.Machine.execLoad lane body s
  | .req reason => Sys2Proof.Machine.execReq reason s
  | .grant body => Sys2Proof.Machine.execGrant body s
  | .deny body => Sys2Proof.Machine.execDeny body s
  | .flexTimeout => Sys2Proof.Machine.execFlexTimeout s
  | .release => Sys2Proof.Machine.execRelease s
  | .shaperRefill => Sys2Proof.Machine.execShaperRefill s
  | .go lane => Sys2Proof.Machine.execGo lane s
  | .gateTakeover lane => Sys2Proof.Machine.execGateTakeover lane s
  | .queueSample => Sys2Proof.Machine.execQueueSample s
  | .nsampRead lane queue priv mid => Sys2Proof.Machine.execNsampRead lane queue priv mid s
  | .strictDiscard lane => Sys2Proof.Machine.execStrictDiscard lane s
  | .remap q l p => Sys2Proof.Machine.execRemap q l p s
  | .retire q cells => Sys2Proof.Machine.execRetire q cells s
  | .cmapDone => Sys2Proof.Machine.execCmapDone s
  | .queueTailWrite x v => Sys2Proof.Machine.execQueueTailWrite x v s
  | .cplHeadWrite x v => Sys2Proof.Machine.execCplHeadWrite x v s
  | .jobStart k => Sys2Proof.Machine.execJobStart k s
  | .jobComplete k => Sys2Proof.Machine.execJobComplete k s
  | .engineFault k code pcell => Sys2Proof.Machine.execEngineFault k code pcell s
  | .abortQueue tree k => Sys2Proof.Machine.execAbortQueue tree k s
  | .hbmTrained k ok => Sys2Proof.Machine.execHbmTrained k ok s
  | .vectorForm slot => Sys2Proof.Machine.execVectorForm slot s
  | .loadEnsemble e v => Sys2Proof.Machine.execLoadEnsemble e v s
  | .ensembleLoaded e ok => Sys2Proof.Machine.execEnsembleLoaded e ok s
  | .unload e => Sys2Proof.Machine.execUnload e s
  | .treeJobStart k => Sys2Proof.Machine.execTreeJobStart k s
  | .treeJobComplete k => Sys2Proof.Machine.execTreeJobComplete k s
  | .treeFault k cause => Sys2Proof.Machine.execTreeFault k cause s
  | .windowProcess => Sys2Proof.Machine.execWindowProcess s
  | .refitComplete q ue => Sys2Proof.Machine.execRefitComplete q ue s
  | .budgetHourEnd slot => Sys2Proof.Machine.execBudgetHourEnd slot s
  | .rebase slot => Sys2Proof.Machine.execRebase slot s
  | .resetRuns slot => Sys2Proof.Machine.execResetRuns slot s
  | .auditDescriptor desc ctx => Sys2Proof.Machine.execAuditDescriptor desc ctx s
  | .fetchIssue => Sys2Proof.Machine.execFetchIssue s
  | .fetchResponse id data err => Sys2Proof.Machine.execFetchResponse id data err s
  | .retentionExpire => Sys2Proof.Machine.execRetentionExpire s
  | .result => Sys2Proof.Machine.execResult s
  | .config thresh seed => Sys2Proof.Machine.execConfig thresh seed s
  | .boost engine thresh tiles => Sys2Proof.Machine.execBoost engine thresh tiles s
  | .lock => Sys2Proof.Machine.execLock s
  | .sampleComplete port seq => Sys2Proof.Machine.execSampleComplete port seq s
  | .recomputeComplete => Sys2Proof.Machine.execRecomputeComplete s
  | .replay seq => Sys2Proof.Machine.execReplay seq s
  | .replayDone refused => Sys2Proof.Machine.execReplayDone refused s
  | .replayResult port seq => Sys2Proof.Machine.execReplayResult port seq s
  | .engClear port engine => Sys2Proof.Machine.execEngClear port engine s
  | .reseed => Sys2Proof.Machine.execReseed s
  | .wdigest r => Sys2Proof.Machine.execWdigest r s
  | .weightRoundEnd => Sys2Proof.Machine.execWeightRoundEnd s
  | .rehearse port engine => Sys2Proof.Machine.execRehearse port engine s
  | .healthInput port kind body => Sys2Proof.Machine.execHealthInput port kind body s
  | .gradeRise port => Sys2Proof.Machine.execGradeRise port s
  | .place ring => Sys2Proof.Machine.execPlace ring s
  | .releaseJob ring => Sys2Proof.Machine.execReleaseJob ring s
  | .resp body => Sys2Proof.Machine.execResp body s
  | .summary => Sys2Proof.Machine.execSummary s
  | .groveStale => Sys2Proof.Machine.execGroveStale s
  | .deadFailTimeout port => Sys2Proof.Machine.execDeadFailTimeout port s
  | .vacancyFill group => Sys2Proof.Machine.execVacancyFill group s
  | .hold port => Sys2Proof.Machine.execHold port s
  | .unhold port => Sys2Proof.Machine.execUnhold port s
  | .fail port => Sys2Proof.Machine.execFail port s
  | .reinstate port => Sys2Proof.Machine.execReinstate port s
  | .standIn pod on => Sys2Proof.Machine.execStandIn pod on s
  | .hwResetRelease romOk => Sys2Proof.Machine.execHwResetRelease romOk s
  | .hwTagCycle engine state tvalid tenant req bytes => Sys2Proof.Machine.execHwTagCycle engine state tvalid tenant req bytes s
  | .requestEnd tenant req => Sys2Proof.Machine.execRequestEnd tenant req s
  | .powerSample volts amps => Sys2Proof.Machine.execPowerSample volts amps s
  | .subintervalEnd => Sys2Proof.Machine.execSubintervalEnd s
  | .hwIntervalEnd => Sys2Proof.Machine.execHwIntervalEnd s
  | .hwRelease hseq => Sys2Proof.Machine.execHwRelease hseq s
  | .tamper code => Sys2Proof.Machine.execTamper code s
  | .oscFault bad => Sys2Proof.Machine.execOscFault bad s
  | .getId => Sys2Proof.Machine.execGetId s
  | .attest nonce => Sys2Proof.Machine.execAttest nonce s
  | .hwRestore ckpt => Sys2Proof.Machine.execHwRestore ckpt s
  | .readLog first => Sys2Proof.Machine.execReadLog first s
  | .setConfig ctr payload sig => Sys2Proof.Machine.execSetConfig ctr payload sig s
  | .heartSeal ctr sig => Sys2Proof.Machine.execSeal ctr sig s
  | .heartUnseal ctr sig => Sys2Proof.Machine.execUnseal ctr sig s
  | .clearTamper ctr sig => Sys2Proof.Machine.execClearTamper ctr sig s
  | .cmdReject bytes => Sys2Proof.Machine.execCmdReject bytes s
  | .meterRelayRestore port => Sys2Proof.Machine.execMeterRelayRestore port s
  | .romBoot a b => Sys2Proof.Machine.execRomBoot a b s
  | .bist bad => Sys2Proof.Machine.execBist bad s
  | .admissionCheck => Sys2Proof.Machine.execAdmissionCheck s
  | .ready => Sys2Proof.Machine.execReady s
  | .nvmRead w img => Sys2Proof.Machine.execNvmRead w img s
  | .assign b node gen => Sys2Proof.Machine.execAssign b node gen s
  | .assignAck port status gen => Sys2Proof.Machine.execAssignAck port status gen s
  | .regWrite w seq entries => Sys2Proof.Machine.execRegWrite w seq entries s
  | .regDone port status => Sys2Proof.Machine.execRegDone port status s
  | .warm => Sys2Proof.Machine.execWarm s
  | .topologyCheck => Sys2Proof.Machine.execTopologyCheck s
  | .offer origin body => Sys2Proof.Machine.execOffer origin body s
  | .chunk body => Sys2Proof.Machine.execChunk body s
  | .bcastReq lane body => Sys2Proof.Machine.execBcastReq lane body s
  | .ack body => Sys2Proof.Machine.execAck body s
  | .ackSend slot => Sys2Proof.Machine.execAckSend slot s
  | .ackByExpire slot => Sys2Proof.Machine.execAckByExpire slot s
  | .commit id tact => Sys2Proof.Machine.execCommit id tact s
  | .broadcastApply => Sys2Proof.Machine.execBroadcastApply s
  | .abortBroadcast id => Sys2Proof.Machine.execAbortBroadcast id s
  | .broadcastDiscard slot => Sys2Proof.Machine.execBroadcastDiscard slot s
  | .jobArm b body => Sys2Proof.Machine.execJobArm b body s
  | .jobAck got => Sys2Proof.Machine.execJobAck got s
  | .jobGo b body => Sys2Proof.Machine.execJobGo b body s
  | .jobCancel b body => Sys2Proof.Machine.execJobCancel b body s
  | .jobTGo w => Sys2Proof.Machine.execJobTGo w s
  | .jobReport got => Sys2Proof.Machine.execJobReport got s
  | .jobFifoPop w priv => Sys2Proof.Machine.execJobFifoPop w priv s
  | .modeEnter => Sys2Proof.Machine.execEnter s
  | .modeExit => Sys2Proof.Machine.execExit s
  | .rehearsalDue => Sys2Proof.Machine.execRehearsalDue s
  | .rehearsalDetectTimeout => Sys2Proof.Machine.execRehearsalDetectTimeout s
  | .rehearsalPass => Sys2Proof.Machine.execRehearsalPass s
  | .rehearsalAbort => Sys2Proof.Machine.execRehearsalAbort s
  | .laneHoldEnd => Sys2Proof.Machine.execLaneHoldEnd s
  | .clockFail b d => Sys2Proof.Machine.execClockFail b d s
  | .clockReturn b d => Sys2Proof.Machine.execClockReturn b d s
  | .pllLock d => Sys2Proof.Machine.execPllLock d s
  | .clkCtrlWrite d v => Sys2Proof.Machine.execClkCtrlWrite d v s
  | .clockSwitchDone d => Sys2Proof.Machine.execClockSwitchDone d s
  | .pllLockTimeout d => Sys2Proof.Machine.execPllLockTimeout d s
  | .rstCmd v => Sys2Proof.Machine.execRstCmd v s
  | .fwLoadData v mid => Sys2Proof.Machine.execFwLoadData v mid s
  | .fwLoadGo => Sys2Proof.Machine.execFwLoadGo s
  | .wdogKick v mid => Sys2Proof.Machine.execWdogKick v mid s
  | .wdogExpire => Sys2Proof.Machine.execWdogExpire s
  | .features p => Sys2Proof.Machine.execFeatures p s
  | .hostEnter p => Sys2Proof.Machine.execHostEnter p s
  | .hostExit p => Sys2Proof.Machine.execHostExit p s
  | .pcieLinkDownTimeout => Sys2Proof.Machine.execPcieLinkDownTimeout s
  | .move p => Sys2Proof.Machine.execMove p s
  | .configCommand p => Sys2Proof.Machine.execConfigCommand p s
  | .jobStartCommand p => Sys2Proof.Machine.execJobStartCommand p s
  | .viewCreate p => Sys2Proof.Machine.execViewCreate p s
  | .viewDestroy p => Sys2Proof.Machine.execViewDestroy p s
  | .viewFreeze p => Sys2Proof.Machine.execViewFreeze p s
  | .viewThaw p => Sys2Proof.Machine.execViewThaw p s
  | .viewSave p hostData => Sys2Proof.Machine.execViewSave p hostData s
  | .viewRestore p blob => Sys2Proof.Machine.execViewRestore p blob s
  | .viewRingEnable v r w => Sys2Proof.Machine.execViewRingEnable v r w s
  | .viewDispatch want => Sys2Proof.Machine.execViewDispatch want s
  | .viewCompletion r => Sys2Proof.Machine.execViewCompletion r s
  | .viewDmaGo v toHbm => Sys2Proof.Machine.execViewDmaGo v toHbm s
  | .replayExpire => Sys2Proof.Machine.execReplayExpire s
  | .nohbmDeadline => Sys2Proof.Machine.execNohbmDeadline s
  | .lLinkResetRelease w k => Sys2Proof.Machine.execLLinkResetRelease w k s
  | .lHostResetRelease w => Sys2Proof.Machine.execLHostResetRelease w s
  | .pmbusAlert words => Sys2Proof.Machine.execPmbusAlert words s
  | .dfiPhyRequest k on => Sys2Proof.Machine.execDfiPhyRequest k on s
  | .modeSwitch b lane tx => Sys2Proof.Machine.execModeSwitch b lane tx s
  | .modeLocked b lane => Sys2Proof.Machine.execModeLocked b lane s
  | .viewDmaDone v bytes => Sys2Proof.Machine.execViewDmaDone v bytes s
  | .moveDone bytes => Sys2Proof.Machine.execMoveDone bytes s
  | .jobStartDone => Sys2Proof.Machine.execJobStartDone s

end Sys2Proof.Machine
end

