-- ==== Sys2Proof/Machine/BarkTx.lean ====
section
/-! DEFINITION. What a Bark lane sends (spec/08_bark_links.md, R182 to R193): training frames, Bark frames with the Sap stream in their codewords, the shaped
symbols and the transmit words, a nanosecond at a time (log entry 105). -/

namespace Sys2Proof.Machine

/-- What a lane drives at its sample port and front end (R182 to R184, Table 18.12). -/
structure FrontEnd where
  txEn : Bool
  words : List Nat
  pi : Nat
  gain : Nat
  /-- `fe_rst_n`, low while the lane is OFF. -/
  rstN : Bool
  deriving DecidableEq, Repr

/-- The front end of lane `k` now: a silent lane sends code 32 in every slot and takes transmit enable away (R183). -/
def Node.frontEnd (n : Node) (k : Nat) : FrontEnd :=
  let l := n.lane k
  ⟨n.transmits k, if n.transmits k then l.tx.words else [txWord (List.replicate 64 32)], l.rx.pi, l.rx.gain, n.laneState k != 0⟩

/-! ### Training frames (R192, R193) -/

/-- TYPE and number of the training frames of a state (Tables 8.5, 8.6a). -/
def trainingOf (st : Nat) : Option (Nat × Nat) := match st with
  | 4 | 6 => some (1, 16384)
  | 7 => some (2, 4096)
  | 9 => some (3, 2344)
  | _ => none

/-- The next training frame of a step joins the levels to be sent. -/
def Node.nextTraining (n : Node) (k typ total : Nat) : Node :=
  let x := (n.lane k).tx
  let (bits, prbs) := if typ = 1 then prbsBits 768 x.prbs else ([], x.prbs)
  let f := n.trainFrame k typ (n.lane k).candidate (total - 1 - x.sent) (bitBytes bits)
  (n.emit (.control k f)).onTx k (fun x => { x with prbs := prbs, sent := x.sent + 1, syms := x.syms ++ levels false (byteBits f) })

/-! ### Bark frames (R186 to R191) -/

/-- What fills `room` bytes of the Sap stream after the frame in progress: the bytes, what is left of a frame the end cuts, and the frames left. A frame of
time messages waits for its place (R190). -/
def cutItems (room : Nat) (l : List Frame) : List Byte × List Byte × List Frame := match l with
  | [] => ([], [], [])
  | f :: r =>
    if f.timed || room == 0 then ([], [], f :: r)
    else
      let b := f.bytes
      if room < b.length then (b.take room, b.drop room, r)
      else
        let (x, cut, left) := cutItems (room - b.length) r
        (b ++ x, cut, left)

/-- A frame of time messages at the head of the stream takes byte 0 of CWI 0, with the Bark frame's stamp (R190). -/
def Node.placeTimed (n : Node) (k at_ : Nat) : Node × Bool :=
  match (n.lane k).tx.cur, (n.lane k).tx.items with
  | [], f :: r =>
    if !f.timed then (n, false)
    else
      let (n, f) := n.sendTimed k at_ f
      (n.onTx k (fun x => { x with cur := f.bytes, items := r }), true)
  | _, _ => (n, false)

/-- The DATA codeword at an index: the frame in progress, whole frames, then 0x00 (R188 to R190). -/
def Node.dataCodeword (n : Node) (k i at_ : Nat) : Node × Codeword :=
  let (n, tsm) := if i = 0 then n.placeTimed k at_ else (n, false)
  let cur := (n.lane k).tx.cur
  let (more, cut, left) := cutItems (640 - cur.length) (n.lane k).tx.items
  (n.onTx k (fun x => { x with cur := cur.drop 640 ++ cut, items := left }),
    ⟨0, i, if tsm then 0 else if more.isEmpty then 0x3FF else cur.length, tsm, cur.take 640 ++ more⟩)

/-- The codeword at an index of a Bark frame: a control block at CWI 1 to 7 (R190, R191); Sap bytes while UP; fill in a trial and in a mode change (R196, R202). -/
def Node.laneCodeword (n : Node) (k i at_ : Nat) : Node × Codeword :=
  match if i = 0 then [] else (n.lane k).tx.blocks with
  | b :: r => (n.onTx k (fun x => { x with blocks := r }), ⟨1, i, 0x3FF, false, b⟩)
  | [] => if n.up k then n.dataCodeword k i at_ else (n, ⟨0, i, 0x3FF, false, []⟩)

/-- The next Bark frame, whose first marker symbol is stamped `at_` at the sample port, joins the levels to be sent (R185, R186). -/
def Node.nextBark (n : Node) (k at_ : Nat) : Node :=
  let (n, cws) := (List.range 8).foldl (fun (a : Node × List Codeword) i =>
    let (n, c) := a.1.laneCodeword k i at_
    (n, a.2 ++ [c])) (n, [])
  let (lv, st) := barkFrame (n.laneMode k) cws (n.lane k).tx.scr
  n.onTx k (fun x => { x with scr := st, syms := x.syms ++ lv })

/-! ### A nanosecond of a lane -/

/-- How many codes the echo search and the canceller look back over. -/
def histLen : Nat := 262144

/-- `b` symbols leave in the 112 sample slots of a nanosecond; every 64 slots are a transmit word (R182, R183). -/
def LaneTx.nanosecond (x : LaneTx) (b : Nat) : LaneTx :=
  let slots := slotsOf b (shapeRun x.fir x.last (x.syms.take (b + 1)))
  let buf := x.buf ++ slots
  let whole := buf.length / 64
  { x with syms := x.syms.drop b, last := (x.syms.take b).getLastD x.last, buf := buf.drop (64 * whole), words := (chunks whole 64 buf).map txWord,
           hist := (slots.reverse ++ x.hist).take histLen }

/-- A nanosecond of a transmitting lane: where fewer levels are left than it and the symbol after it need, the next frame begins. Its stamp is the
present time and the symbol's start position (R185). -/
def Node.laneTick (n : Node) (k : Nat) : Node :=
  if !n.transmits k then n
  else
    let b := baud (n.laneMode k)
    let left := (n.lane k).tx.syms.length
    let n := if b < left then n else match trainingOf (n.laneState k) with
      | some (typ, total) => n.nextTraining k typ total
      | none => n.nextBark k (n.now + left * fracPerNs / b)
    n.onTx k (·.nanosecond b)

/-- A nanosecond of every lane that is not held still. -/
def Node.lanesTick (n : Node) (dead : Nat → Bool) : Node := n.lanes.foldl (fun (n : Node) e => if dead e.1 then n else n.laneTick e.1) n

end Sys2Proof.Machine
end

