-- ==== Sys2Proof/Machine/Tick.lean ====
section
/-! DEFINITION. A tick of 1 ns: the lanes send, and the clocks of every block count (R32, R33, R43, R182, R385, R485; log entry 1). -/

namespace Sys2Proof.Machine

/-- A tick at the leaf of a die: its lanes, then its clocks. -/
def Leaf.dieTick (l : Leaf) : Leaf := (l.on (·.lanesTick l.laneDead)).tick

/-- The end of a NOC cycle at Grove. -/
def Crown.groveTick (c : Crown) : Crown := if c.live 3 then c.serveClaims else c

/-- A tick at a crown: its lanes, its time unit while TIME runs, its self leaf, the resets whose 64 reference cycles have passed
(R485), the running jobs of the engine and the tree unit, and Grove's claims of the cycle. -/
def Crown.tick (c : Crown) : Crown :=
  let c := c.on (fun n => (n.lanesTick c.laneDead).tick (c.live 4) (!c.clockFailed 0))
  ({ c with self := c.self.tick.unless c.self.guardDead Leaf.tiedInputs } : Crown).resetTick.engTick.treeTick.groveTick

/-- A tick of the whole block. -/
def State.tick (s : State) : State := { s with leaf := s.leaf.dieTick, crown := s.crown.tick }

/-- What a step on an empty queue answers: the tick. Serving Grove's claims writes the window engine's directory of histories, and a running
job that a fence stops writes its completion record; an HBM address that does not exist faults there too (R256). -/
def State.idle (s : State) : Answer := if s.tick.crown.stray then .fault .hbmAddress else .next s.tick

end Sys2Proof.Machine
end

