-- ==== Sys2Proof/Machine/Step.lean ====
section
/-! DEFINITION. The step: the command at the front of the queue, or a tick on an empty queue. -/

namespace Sys2Proof.Machine

/-- The rest of the queue. -/
def State.rest (s : State) : State := { s with pending := s.pending.tail }

/-- One step (log entry 1): with nothing waiting the block's clocks tick. -/
def step (s : State) : Host.Outcome State Fault Refusal := match s.pending with
  | [] => s.idle
  | c :: _ => exec c s.rest

/-- The state with the command that a word of the opcode table spells at the front of its queue; no row gives bits, so it is the state
itself. -/
def State.withFetchWord (s : State) (nbits w : Nat) : State := match Sys2Proof.decodeTableWord nbits w with
  | none => s
  | some c => { s with pending := c :: s.pending }

end Sys2Proof.Machine
end

