-- ==== Sys2Proof/Safety.lean ====
section
/-! DEFINITION. What counts as a safe answer of a step, and the forms in which the statements say that a command runs. -/

namespace Sys2Proof

/-- The block that a leaf's selector names. -/
def LeafSel.block (w : LeafSel) : Block := match w with
  | .die => .die
  | .own => .own

end Sys2Proof

namespace Sys2Proof.Machine

/-- The block goes on. -/
def goesOn (o : Host.Outcome State Fault Refusal) : Prop := ∃ s, o = .next s

/-- Every step that answers a next state takes a state with the property to one with it. -/
def stepKeeps (inv : State → Prop) : Prop := ∀ s t, inv s → step s = .next t → inv t

/-- Nothing stops a command. -/
def free {α : Type} (_ : α) : Bool := false

/-- At every state in which the unit of the named leaf is not stopped, the command answers a next state: that leaf changed by `f`, everything else
as it was. -/
def runsOnLeaf (c : Instr) (w : LeafSel) (stopped : Leaf → Bool) (f : Leaf → Leaf) : Prop :=
  ∀ s : State, stopped (s.leafOf w) = false → exec c s = .next (s.onLeaf w f)

/-- At every state in which the unit of the crown is not stopped, the command answers a next state: the crown changed by `f`, everything else as it
was. -/
def runsOnCrown (c : Instr) (stopped : Crown → Bool) (f : Crown → Crown) : Prop :=
  ∀ s : State, stopped s.crown = false → exec c s = .next { s with crown := f s.crown }

/-- At every state from which the command accesses no HBM address that does not exist (R256), it answers a next state: the crown changed by `f`,
everything else as it was. -/
def runsOnHbm (c : Instr) (f : Crown → Crown) : Prop :=
  ∀ s : State, (f s.crown).stray = false → exec c s = .next { s with crown := f s.crown }

/-- A row of Table 6.10 (R160). -/
structure CrcRow where
  width : Nat
  poly : Nat
  init : Nat
  reflected : Bool
  final : Nat
  check : Nat
  deriving DecidableEq, Repr

/-- Table 6.10 by POLY. -/
def crcRow (poly : Nat) : CrcRow := match poly with
  | 0 => ⟨16, 0x1021, 0xFFFF, false, 0, 0x29B1⟩
  | 1 => ⟨32, 0x04C11DB7, 0xFFFFFFFF, true, 0xFFFFFFFF, 0xCBF43926⟩
  | 2 => ⟨32, 0x1EDC6F41, 0xFFFFFFFF, true, 0xFFFFFFFF, 0xE3069283⟩
  | _ => ⟨64, 0x42F0E1EBA9EA3693, 0, false, 0, 0x6C40DF5F0B497347⟩

/-- The number whose bit `i` is bit `w − 1 − i` of `x`. -/
def reflectBits (w x : Nat) : Nat := (List.range w).foldl (fun a i => 2 * a + b2n (x.testBit i)) 0

/-- The bits of a message in the order they enter the division: each byte's bit 7 first, or its bit 0 first where the row reflects. -/
def CrcRow.bits (r : CrcRow) (l : List Byte) : List Bool :=
  l.flatMap (fun b => (List.range 8).map (fun i => b.toNat.testBit (if r.reflected then i else 7 - i)))

/-- One bit of the division by the row's polynomial. -/
def CrcRow.shift (r : CrcRow) (c : Nat) (b : Bool) : Nat :=
  if c.testBit (r.width - 1) != b then (2 * c % 2 ^ r.width) ^^^ r.poly else 2 * c % 2 ^ r.width

/-- The CRC of a message by a row's parameters alone, one bit at a time. -/
def CrcRow.of (r : CrcRow) (l : List Byte) : Nat :=
  let c := (r.bits l).foldl r.shift r.init
  (if r.reflected then reflectBits r.width c else c) ^^^ r.final

/-- A queue of commands run one after another, each at the state the one before it left. -/
def runAll (q : List Instr) (s : State) : Host.Outcome State Fault Refusal := match q with
  | [] => .next s
  | c :: r => match exec c s with
    | .next t => runAll r t
    | .fault f => .fault f
    | .refused x => .refused x

end Sys2Proof.Machine
end

