-- ==== Sys2Proof/WellFormed.lean ====
section
/-! DEFINITION. Which commands are well formed: every operand within the range or the field that the spec gives it. -/

namespace Sys2Proof

/-- A lane of a block: a leaf has two and a crown 72 (R208); 72 names its self leaf's path (R24). -/
def laneOk (b : Block) (lane : Nat) : Bool := match b with
  | .die => decide (lane < 2)
  | .own => decide (lane < 2)
  | .crown => decide (lane < 73)

/-- An offset in a block's register window: 64 KiB of a leaf, 16 MiB of a crown (spec/00_scope.md, conventions). -/
def offOk (b : Block) (off : Nat) : Bool := match b with
  | .die => decide (off < 65536)
  | .own => decide (off < 65536)
  | .crown => decide (off < 2 ^ 24)

/-- A clock of a block: of a leaf by its bit in TZ_CLK_FAIL (R486), of a crown by its bit in BZ_CLK_FAIL: d of Table 19.2, 18 and 19 its references (R487). -/
def clockOk (b : Block) (d : Nat) : Bool := match b with
  | .die => decide (d < 9)
  | .own => decide (d < 9)
  | .crown => decide (d < 20)

/-- A reset of a block: six of a leaf (Table 19.6), or a crown's domain (Table 19.2). -/
def resetOk (b : Block) (r : Nat) : Bool := match b with
  | .die => decide (r < 6)
  | .own => decide (r < 6)
  | .crown => decide (r < 18)

/-- A job ring by its owner: 8 engine queues (R259), 4 tree queues (R288), 4 rings of Grove (R360), three rings of each of 64 views (R499). -/
def RingSel.ok (x : RingSel) : Bool := match x with
  | .engine k => decide (k < 8)
  | .tree k => decide (k < 4)
  | .grove r => decide (r < 4)
  | .view v r => decide (v < 64) && decide (r < 3)

/-- Fuses of a crown: four key digests of 48 bytes (R405), the revoked keys, the rollback index, and cells that exist (R407). -/
def Machine.Fuses.ok (f : Machine.Fuses) : Bool :=
  decide (f.digests.length ≤ 4) && f.digests.all (fun d => decide (d.length = 48)) && decide (f.revoked < 16) && f.badCells.all (fun g => decide (g < 576))

/-- Inputs of a Twig's cycle (Table 18.2, R63 to R74): each within its signal's width, at most 32 external lines. -/
def Machine.TwigIn.ok (i : Machine.TwigIn) : Bool :=
  decide (i.state < 8) && decide (i.tag < 2 ^ 32) && decide (i.priv < 4) && decide (i.nIssue < 16) && decide (i.nFlush < 256) && decide (i.ext.length ≤ 32)
    && i.ext.all (fun v => decide (v < 64))
    && i.txn.all (fun t => decide (t.1 < 4) && decide (t.2.1 < 65536) && decide (t.2.2.1 < 2 ^ 48) && decide (t.2.2.2.1 < 8) && decide (t.2.2.2.2 < 65))

/-- Inputs of a core's retirement interface (Table 18.7): each within its signal's width. -/
def Machine.TrcIn.ok (i : Machine.TrcIn) : Bool :=
  decide (i.n < 8) && decide (i.pc < 2 ^ 64) && decide (i.kind < 4) && decide (i.cause < 64)
    && i.data.all (fun d => decide (d.size < 4) && decide (d.pos < 4) && decide (d.addr < 2 ^ 64) && decide (d.value < 2 ^ 64))

/-- Straps of a leaf: one safe-state bit for each guard (R112). -/
def Machine.LeafStraps.ok (x : Machine.LeafStraps) : Bool := decide (x.safe < 256)

/-- An access of a block's window: its offset, and byte enables of at most eight bytes (R8, R467). -/
def Machine.Place.ok (b : Block) (x : Machine.Place) : Bool := offOk b x.off && decide (x.be < 2 ^ 64)

/-- The cells of a map command: a logical cell, and a PHYS of eight bits (BZ_CMAP_CMD). -/
def Machine.MapCells.ok (x : Machine.MapCells) : Bool := decide (x.logical < 128) && decide (x.phys < 256)

/-- A Twig on the chain: its stage, SLOT_W and ENGINE (R61, Table 3.7). -/
def Machine.TwigAt.ok (x : Machine.TwigAt) : Bool := decide (x.stage < 511) && decide (x.slotW < 16)

/-- A marker's symbol: a word of 64 slots holds at most 64 (R182, R183). -/
def Machine.PortTime.ok (x : Machine.PortTime) : Bool := decide (x.sym < 64)

/-- Receive words of 64 samples of seven bits (R182). -/
def adcOk (l : List Nat) : Bool := l.all (fun w => decide (w < 2 ^ 448))

/-- A training frame: 128 bytes as sliced (R192). -/
def Machine.TrainingHeard.ok (x : Machine.TrainingHeard) : Bool := decide (x.bytes.length = 128) && adcOk x.adc

/-- A codeword: 544 symbols of ten bits (R187). -/
def Machine.CodewordHeard.ok (x : Machine.CodewordHeard) : Bool :=
  decide (x.symbols.length = 544) && x.symbols.all (fun v => decide (v < 1024)) && x.marker.all Machine.PortTime.ok && adcOk x.adc

/-- The operands of a command are those the spec admits: each number fits the field or the range that the spec gives it. A clause that is not
written here is that the operand's type already says it. -/
def Instr.wellFormed (i : Instr) : Bool := match i with
  | .aonResetRelease role _ pins => decide (role < 4) && pins.fuses.ok && pins.self.ok
  | .lAonResetRelease pins => pins.straps.ok
  | .resetAssert b r => resetOk b r
  | .timeResetRelease _ => true
  | .lSapResetRelease _ => true
  | .twigResetAssert _ t => decide (t < 256)
  | .twigResetRelease _ t => decide (t < 256)
  | .traceCoreReset core => decide (core < 4)
  | .registerWrite b at_ v priv mid _ => at_.ok b && decide (v < 2 ^ 32) && decide (priv < 4) && decide (mid < 65536)
  | .rcRead b at_ priv mid _ => at_.ok b && decide (priv < 4) && decide (mid < 65536)
  | .registerPortRequest _ addr be dataW priv mid => decide (addr < 65536) && decide (be < 16) && decide (dataW < 2 ^ 32) && decide (priv < 4) && decide (mid < 65536)
  | .rehomeStart => true
  | .rehomeReturn => true
  | .root1Activate => true
  | .timeNowCapture _ priv => decide (priv < 4)
  | .exchangeStart first last => decide (first < 73) && decide (last < 73)
  | .tsync b lane _ markerW _ _ => laneOk b lane && markerW.all Machine.PortTime.ok
  | .tdelay lane _ f => decide (lane < 73) && f.marker.all Machine.PortTime.ok
  | .tresp b lane _ _ => laneOk b lane
  | .holdoverEnter _ => true
  | .boundHoldoverUpdate _ => true
  | .ppsEdge => true
  | .todMessage bytes => decide (bytes.length = 18)
  | .timeSetGo => true
  | .captureEdge _ input _ => decide (input < 8)
  | .capturePop _ input => decide (input < 8)
  | .pulseArm _ train => decide (train < 4)
  | .pulseTakeover _ train => decide (train < 4)
  | .pulseEdge _ train => decide (train < 4)
  | .pulseEnableWrite _ train _ => decide (train < 4)
  | .enumReturn _ ntwig loop chain => decide (ntwig < 257) && decide (loop < 65536) && decide (chain.length = ntwig) && chain.all Machine.TwigAt.ok
  | .readTimeout _ => true
  | .twigHostCycle _ t inp => decide (t < 256) && inp.ok
  | .twigCfgApply _ t => decide (t < 256)
  | .flushBins _ => true
  | .flushResume _ t => decide (t < 256)
  | .marker _ n dataW priv mid => decide (n < 8) && decide (dataW < 2 ^ 32) && decide (priv < 4) && decide (mid < 65536)
  | .sweepDue _ g => decide (g < 8)
  | .sweepStart _ => true
  | .readResponse _ => true
  | .sweepComplete _ => true
  | .groupCfgApply _ => true
  | .sapEnWrite _ _ => true
  | .counterWindowRead _ index priv => decide (index < 4096) && decide (priv < 4)
  | .twigCfgGo _ _ t word => decide (t < 256) && decide (word < 2 ^ 32)
  | .cresp _ _ => true
  | .twigCfgTimeout _ => true
  | .eventBeat _ t => decide (t < 256)
  | .sensorSample _ chan v => decide (chan < 64) && decide (v < 65536)
  | .rateWindowEnd _ => true
  | .watchUnitWrite _ u r v => decide (u < 32) && decide (r < 3) && decide (v < 2 ^ 32)
  | .guardInject _ _ u priv => decide (u < 32) && decide (priv < 4)
  | .fenceClr _ mask priv => decide (mask < 2 ^ 32) && decide (priv < 4)
  | .wclassChange _ g _ => decide (g < 8)
  | .holdoffExpire _ u => decide (u < 32)
  | .vfRequest _ => true
  | .vfResponse _ word => decide (word < 2 ^ 32)
  | .vfTimeout _ d => decide (d < 8)
  | .vfReq _ word => decide (word < 2 ^ 32)
  | .margin _ d steps => decide (d < 8) && decide (steps < 256)
  | .ageingPoint port chan hours cell doms => decide (port < 65) && decide (chan < 64) && decide (hours < 2 ^ 32) && decide (cell < 576) && doms.all (fun e => decide (e.1 < 64) && decide (e.2 < 256))
  | .traceRetire core inp => decide (core < 4) && inp.ok
  | .loss core => decide (core < 4)
  | .lpEnter core => decide (core < 4)
  | .traceLpExit core => decide (core < 4)
  | .traceCtrlWrite _ core v => decide (core < 4) && decide (v < 2 ^ 32)
  | .traceDrain _ => true
  | .recordEnqueue b lane kind cls _ => laneOk b lane && decide (kind < 256) && decide (cls < 8)
  | .frameClose b lane cls => laneOk b lane && decide (cls < 8)
  | .frameSelect b lane => laneOk b lane
  | .alivePeriodEnd _ => true
  | .replayStart b lane cls => laneOk b lane && decide (cls < 8)
  | .frameReceive b lane _ => laneOk b lane
  | .dead lane cls => decide (lane < 73) && decide (cls < 8)
  | .tstatusPeriodic _ => true
  | .levelRise b lane cls => laneOk b lane && decide (cls < 8)
  | .levelFall b lane cls => laneOk b lane && decide (cls < 8)
  | .qsizeWrite _ cls v => decide (cls < 8) && decide (v < 2 ^ 32)
  | .start _ u => decide (u < 4)
  | .crcData _ u v => decide (u < 4) && decide (v < 2 ^ 32)
  | .restore _ base pcc => decide (base < 2 ^ 40) && decide (pcc < 2 ^ 24)
  | .powerUp port bits => decide (port < 64) && decide (bits < 8)
  | .opsecSave => true
  | .rlogRstPort v => decide (v < 2 ^ 32)
  | .mirrorRecord k _ => decide (k < 66)
  | .mirrorAck _ k seq => decide (k < 66) && decide (seq < 2 ^ 32)
  | .rlogRead _ seq priv => decide (seq < 2 ^ 32) && decide (priv < 4)
  | .read _ first count => decide (first < 2 ^ 32) && decide (count < 2 ^ 32)
  | .data k _ => decide (k < 66)
  | .mirrorRead node first count => decide (node < 2 ^ 32) && decide (first < 2 ^ 32) && decide (count < 2 ^ 32)
  | .clearTicket _ => true
  | .rlogClear _ high pcc nonce digest => decide (high < 2 ^ 32) && decide (pcc < 2 ^ 24) && decide (nonce < 2 ^ 64) && decide (digest.length = 16)
  | .laneEnWrite b lane _ => laneOk b lane
  | .retrainWrite b lane => laneOk b lane
  | .retrain b lane => laneOk b lane
  | .trainStepEnd b lane adc => laneOk b lane && adcOk adc
  | .probeHeard b lane session countdown => laneOk b lane && decide (session < 2 ^ 32) && decide (countdown < 16384)
  | .trainingFrame b lane heard => laneOk b lane && heard.ok
  | .trialVerdict b lane => laneOk b lane
  | .retry b lane => laneOk b lane
  | .echoEngineGrant => true
  | .downlinkPassStart => true
  | .batchStart => true
  | .laneDown b lane cause => laneOk b lane && decide (cause < 3)
  | .silentEnd b lane => laneOk b lane
  | .codewordReceive b lane heard => laneOk b lane && heard.ok
  | .keepaliveSend b lane _ den => laneOk b lane && decide (0 < den)
  | .keepalive b lane block => laneOk b lane && decide (block.length = 64)
  | .lqWindowEnd b lane _ den adc => laneOk b lane && decide (0 < den) && adcOk adc
  | .modeReq b lane got => laneOk b lane && got.all (fun m => decide (m < 8))
  | .modeAck b lane mode => laneOk b lane && decide (mode < 8)
  | .modeGo b lane mode => laneOk b lane && decide (mode < 8)
  | .modeChangeTimeout b lane => laneOk b lane
  | .windowClose slot => decide (slot < 256)
  | .agg lane _ => decide (lane < 73)
  | .raw lane _ => decide (lane < 73)
  | .loadInterval _ => true
  | .shift lane _ => decide (lane < 73)
  | .load lane _ => decide (lane < 73)
  | .req reason => decide (reason < 4)
  | .grant _ => true
  | .deny _ => true
  | .flexTimeout => true
  | .release => true
  | .shaperRefill => true
  | .go lane => decide (lane < 73)
  | .gateTakeover lane => decide (lane < 73)
  | .queueSample => true
  | .nsampRead lane queue priv mid => decide (lane < 73) && decide (queue < 8) && decide (priv < 4) && decide (mid < 65536)
  | .strictDiscard lane => decide (lane < 73)
  | .remap q l p => decide (q < 4) && decide (l < 128) && decide (p < 256)
  | .retire q cells => decide (q < 4) && cells.ok
  | .cmapDone => true
  | .queueTailWrite x v => x.ok && decide (v < 2 ^ 32)
  | .cplHeadWrite x v => x.ok && decide (v < 2 ^ 32)
  | .jobStart k => decide (k < 8)
  | .jobComplete k => decide (k < 8)
  | .engineFault k code pcell => decide (k < 8) && decide (code < 9) && (decide (pcell < 576) || pcell == 0x3FF)
  | .abortQueue _ k => decide (k < 8)
  | .hbmTrained k _ => decide (k < 8)
  | .vectorForm slot => decide (slot < 256)
  | .loadEnsemble e v => decide (e < 16) && decide (v < 2 ^ 32)
  | .ensembleLoaded e _ => decide (e < 16)
  | .unload e => decide (e < 16)
  | .treeJobStart k => decide (k < 4)
  | .treeJobComplete k => decide (k < 4)
  | .treeFault k cause => decide (k < 4) && decide (cause < 3)
  | .windowProcess => true
  | .refitComplete q _ => decide (q < 8)
  | .budgetHourEnd slot => decide (slot < 256)
  | .rebase slot => decide (slot < 256)
  | .resetRuns slot => decide (slot < 256)
  | .auditDescriptor _ _ => true
  | .fetchIssue => true
  | .fetchResponse id _ _ => decide (id < 65536)
  | .retentionExpire => true
  | .result => true
  | .config thresh seed => decide (thresh < 2 ^ 32) && decide (seed < 2 ^ 64)
  | .boost engine thresh tiles => decide (engine < 256) && decide (thresh < 2 ^ 32) && decide (tiles < 2 ^ 32)
  | .lock => true
  | .sampleComplete port seq => decide (port < 64) && decide (seq < 2 ^ 32)
  | .recomputeComplete => true
  | .replay seq => decide (seq < 2 ^ 32)
  | .replayDone _ => true
  | .replayResult port seq => decide (port < 65) && decide (seq < 2 ^ 32)
  | .engClear port engine => decide (port < 64) && decide (engine < 256)
  | .reseed => true
  | .wdigest r => decide (r < 16)
  | .weightRoundEnd => true
  | .rehearse port engine => decide (port < 64) && decide (engine < 256)
  | .healthInput port kind _ => decide (port < 64) && decide (kind < 256)
  | .gradeRise port => decide (port < 64)
  | .place ring => decide (ring < 4)
  | .releaseJob ring => decide (ring < 4)
  | .resp _ => true
  | .summary => true
  | .groveStale => true
  | .deadFailTimeout port => decide (port < 64)
  | .vacancyFill group => decide (group < 16)
  | .hold port => decide (port < 64)
  | .unhold port => decide (port < 64)
  | .fail port => decide (port < 64)
  | .reinstate port => decide (port < 64)
  | .standIn pod _ => decide (pod < 4096)
  | .hwResetRelease _ => true
  | .hwTagCycle engine state _ tenant reqW _ => decide (engine < 256) && decide (state < 8) && decide (tenant < 65536) && decide (reqW < 2 ^ 64)
  | .requestEnd tenant reqW => decide (tenant < 65536) && decide (reqW < 2 ^ 64)
  | .powerSample volts amps => decide (volts < 65536) && decide (amps < 65536)
  | .subintervalEnd => true
  | .hwIntervalEnd => true
  | .hwRelease hseq => decide (hseq < 2 ^ 32)
  | .tamper code => decide (code < 256)
  | .oscFault _ => true
  | .getId => true
  | .attest nonce => decide (nonce.length = 16)
  | .hwRestore _ => true
  | .readLog first => decide (first < 2 ^ 32)
  | .setConfig ctr _ sig => decide (ctr < 2 ^ 32) && decide (sig.length = 64)
  | .heartSeal ctr sig => decide (ctr < 2 ^ 32) && decide (sig.length = 64)
  | .heartUnseal ctr sig => decide (ctr < 2 ^ 32) && decide (sig.length = 64)
  | .clearTamper ctr sig => decide (ctr < 2 ^ 32) && decide (sig.length = 64)
  | .cmdReject _ => true
  | .meterRelayRestore port => decide (port < 64)
  | .romBoot _ _ => true
  | .bist bad => bad.all (fun g => decide (g < 576))
  | .admissionCheck => true
  | .ready => true
  | .nvmRead _ _ => true
  | .assign _ node gen => decide (node < 2 ^ 32) && decide (gen < 2 ^ 32)
  | .assignAck port status gen => decide (port < 64) && decide (status < 256) && decide (gen < 2 ^ 32)
  | .regWrite _ seq entries => decide (seq < 2 ^ 32) && entries.all (fun e => decide (e.1 < 65536) && decide (e.2 < 2 ^ 32))
  | .regDone port status => decide (port < 64) && decide (status < 256)
  | .warm => true
  | .topologyCheck => true
  | .offer _ _ => true
  | .chunk _ => true
  | .bcastReq lane _ => decide (lane < 73)
  | .ack _ => true
  | .ackSend slot => decide (slot < 2)
  | .ackByExpire slot => decide (slot < 2)
  | .commit id tact => decide (id < 2 ^ 32) && decide (tact < 2 ^ 128)
  | .broadcastApply => true
  | .abortBroadcast id => decide (id < 2 ^ 32)
  | .broadcastDiscard slot => decide (slot < 2)
  | .jobArm _ _ => true
  | .jobAck got => got.all (fun e => decide (e.1 < 72))
  | .jobGo _ _ => true
  | .jobCancel _ _ => true
  | .jobTGo _ => true
  | .jobReport _ => true
  | .jobFifoPop _ priv => decide (priv < 4)
  | .modeEnter => true
  | .modeExit => true
  | .rehearsalDue => true
  | .rehearsalDetectTimeout => true
  | .rehearsalPass => true
  | .rehearsalAbort => true
  | .laneHoldEnd => true
  | .clockFail b d => clockOk b d
  | .clockReturn b d => clockOk b d
  | .pllLock d => decide (d < 18)
  | .clkCtrlWrite d v => decide (d < 18) && decide (v < 2 ^ 32)
  | .clockSwitchDone d => decide (d < 18)
  | .pllLockTimeout d => decide (d < 18)
  | .rstCmd v => decide (v < 2 ^ 32)
  | .fwLoadData v mid => decide (v < 2 ^ 32) && decide (mid < 65536)
  | .fwLoadGo => true
  | .wdogKick v mid => decide (v < 2 ^ 32) && decide (mid < 65536)
  | .wdogExpire => true
  | .features _ => true
  | .hostEnter _ => true
  | .hostExit _ => true
  | .pcieLinkDownTimeout => true
  | .move _ => true
  | .configCommand _ => true
  | .jobStartCommand _ => true
  | .viewCreate _ => true
  | .viewDestroy _ => true
  | .viewFreeze _ => true
  | .viewThaw _ => true
  | .viewSave _ _ => true
  | .viewRestore _ _ => true
  | .viewRingEnable v r w => decide (v < 64) && decide (r < 3) && decide (w < 2 ^ 32)
  | .viewDispatch _ => true
  | .viewCompletion r => decide (r < 3)
  | .viewDmaGo v _ => decide (v < 64)
  | .replayExpire => true
  | .nohbmDeadline => true
  | .lLinkResetRelease _ k => decide (k < 2)
  | .lHostResetRelease _ => true
  | .pmbusAlert words => words.all (fun v => decide (v < 65536))
  | .dfiPhyRequest k _ => decide (k < 8)
  | .modeSwitch b lane _ => laneOk b lane
  | .modeLocked b lane => laneOk b lane
  | .viewDmaDone v _ => decide (v < 64)
  | .moveDone _ => true
  | .jobStartDone => true

end Sys2Proof
end

