-- ==== Sys2Proof/Certificates/Slice0/Obligations.lean ====
section
/-! DEFINITION. The statements about the model, from the numbered rules of spec/. -/

open Sys2Proof Sys2Proof.Machine

/-! ### The queue -/

/-- A step takes the command at the front of the queue and runs it on the state with the queue's rest. -/
def Obligations.StepRunsTheFront : Prop :=
  ∀ (s : State) (c : Instr) (q : List Instr), step { s with pending := c :: q } = exec c { s with pending := q }

/-- The model's choice (log entry 1): with nothing waiting, a step is a nanosecond of the leaf's clocks and of the crown's, in which lanes send, running jobs go
on, jobs whose time has come start and Grove's claims of the cycle are served. The queue stays empty. Serving the claims and stopping the running jobs of a fenced
quadrant are all in it that can access HBM: where no claim waits and no job runs on the engine, the step goes on from every state that has accessed no HBM address
that does not exist. -/
def Obligations.EmptyQueueTicks : Prop :=
  ∀ s : State, s.pending = [] →
    (s.tick.crown.stray = false → ∃ t, step s = .next t ∧ t = s.tick ∧ t.pending = [] ∧ t.leaf.ns = s.leaf.ns + 1 ∧ t.crown.ns = s.crown.ns + 1) ∧
    (s.tick.crown.stray = true → step s = .fault .hbmAddress) ∧
    (s.crown.grove.claims = [] → (∀ k j, k < 8 → s.crown.engJob k = some j → j.running = false) → s.crown.stray = false → s.tick.crown.stray = false)

/-! ### Completion -/

/-- Resets, registers, modes and clocks: every command of the family completes, with the next state its rules give, wherever the unit it acts in is not stopped. -/
def Obligations.ResetCommandsComplete : Prop :=
  (∀ (role : Nat) (root1 : Bool) (pins : CrownPins), runsOnCrown (.aonResetRelease role root1 pins) free (·.aonRelease role root1 pins.fuses pins.self)) ∧
  (∀ (pins : LeafPins), runsOnLeaf (.lAonResetRelease pins) pins.leaf free (·.aonRelease pins.straps)) ∧
  (∀ (w : LeafSel) (r : Nat), runsOnLeaf (.resetAssert w.block r) w free (·.resetAssert r)) ∧
  (∀ (r : Nat), runsOnHbm (.resetAssert .crown r) (·.assertDomain r)) ∧
  (∀ w, runsOnLeaf (.timeResetRelease w.block) w free Leaf.timeRelease) ∧
  (runsOnCrown (.timeResetRelease .crown) free Crown.timeRelease) ∧
  (∀ w, runsOnLeaf (.lSapResetRelease w) w free Leaf.sapRelease) ∧
  (∀ (w : LeafSel) (k : Nat), runsOnLeaf (.lLinkResetRelease w k) w free (·.laneRelease k)) ∧
  (∀ w, runsOnLeaf (.lHostResetRelease w) w free Leaf.hostRelease) ∧
  (∀ (w : LeafSel) (t : Nat), runsOnLeaf (.twigResetAssert w t) w free (·.twigAssert t)) ∧
  (∀ (w : LeafSel) (t : Nat), runsOnLeaf (.twigResetRelease w t) w free (·.twigRelease t)) ∧
  (∀ (core : Nat), runsOnLeaf (.traceCoreReset core) .die free (·.trcCoreReset core)) ∧
  (∀ (w : LeafSel) (at_ : Place) (v priv mid : Nat) (deferred : Bool), runsOnLeaf (.registerWrite w.block at_ v priv mid deferred) w free (fun l => l.unless (!wholeWord at_.off at_.be) (fun l => (l.noteDefer deferred).regWrite at_.off v priv mid))) ∧
  (∀ (at_ : Place) (v priv mid : Nat) (deferred : Bool), runsOnHbm (.registerWrite .crown at_ v priv mid deferred) (fun c => c.unless (!wholeWord at_.off at_.be) (fun c => (c.noteDefer at_.off mid deferred).busWrite at_.off v priv mid))) ∧
  (∀ (w : LeafSel) (at_ : Place) (priv mid : Nat) (deferred : Bool), runsOnLeaf (.rcRead w.block at_ priv mid deferred) w free (fun l => if wholeWord at_.off at_.be then l.busRead at_.off priv else l.emit (.response 0 0))) ∧
  (∀ (at_ : Place) (priv mid : Nat) (deferred : Bool), runsOnCrown (.rcRead .crown at_ priv mid deferred) free (fun c => if wholeWord at_.off at_.be then (c.noteDefer at_.off mid deferred).answerRead at_.off priv mid else c.emit (.response 0 0))) ∧
  (∀ (write : Bool) (addr be data priv mid : Nat), runsOnLeaf (.registerPortRequest write addr be data priv mid) .die free (·.portRequest write addr be data priv mid)) ∧
  (runsOnCrown .rehomeStart free Crown.rehome) ∧
  (runsOnCrown .rehomeReturn free (·.rehomeReturn.followUp)) ∧
  (runsOnCrown .root1Activate free (·.root1Activate.followUp)) ∧
  (runsOnHbm .modeEnter Crown.modeEnter) ∧
  (runsOnHbm .modeExit Crown.modeExit) ∧
  (runsOnCrown .rehearsalDue free Crown.rehearsalDue) ∧
  (runsOnCrown .rehearsalDetectTimeout free Crown.rehearsalTimeout) ∧
  (runsOnCrown .rehearsalPass free Crown.rehearsalPass) ∧
  (runsOnCrown .rehearsalAbort free Crown.rehearsalAbort) ∧
  (runsOnCrown .laneHoldEnd free Crown.laneHoldEnd) ∧
  (∀ (w : LeafSel) (d : Nat), runsOnLeaf (.clockFail w.block d) w free (·.clockFail d)) ∧
  (∀ (d : Nat), runsOnCrown (.clockFail .crown d) free (·.clockFail d)) ∧
  (∀ (w : LeafSel) (d : Nat), runsOnLeaf (.clockReturn w.block d) w free (·.clockReturn d)) ∧
  (∀ (d : Nat), runsOnHbm (.clockReturn .crown d) (·.clockReturn d)) ∧
  (∀ (d : Nat), runsOnCrown (.pllLock d) free (·.pllLock d)) ∧
  (∀ (d v : Nat), runsOnCrown (.clkCtrlWrite d v) free (·.clkCtrlWrite d v)) ∧
  (∀ (d : Nat), runsOnCrown (.clockSwitchDone d) free (·.switchDone d)) ∧
  (∀ (d : Nat), runsOnCrown (.pllLockTimeout d) free (·.lockTimeout d)) ∧
  (∀ (v : Nat), runsOnHbm (.rstCmd v) (·.rstCmd v))

/-- Time: every command of the family completes, with the next state its rules give, wherever the unit it acts in is not stopped. -/
def Obligations.TimeCommandsComplete : Prop :=
  (∀ (w : LeafSel) (priv : Nat), runsOnLeaf (.timeNowCapture w.block priv) w free (·.on (·.captureNow priv))) ∧
  (∀ (priv : Nat), runsOnCrown (.timeNowCapture .crown priv) free (·.on (·.captureNow priv))) ∧
  (∀ (first last : Nat), runsOnCrown (.exchangeStart first last) Crown.timeDead (·.exchangesStart first last)) ∧
  (∀ (w : LeafSel) (lane : Nat) (msg : List Byte) (marker : Option PortTime) (uncorrected replay : Bool), runsOnLeaf (.tsync w.block lane msg marker uncorrected replay) w Leaf.timeDead (·.onTime (fun n => n.leafParent.takeTsync lane msg ⟨marker, uncorrected, replay⟩))) ∧
  (∀ (lane : Nat) (msg : List Byte) (marker : Option PortTime) (uncorrected replay : Bool), runsOnCrown (.tsync .crown lane msg marker uncorrected replay) Crown.timeDead (fun c => (c.followUp.on (·.takeTsync lane msg ⟨marker, uncorrected, replay⟩)).ingestWaiting)) ∧
  (∀ (lane : Nat) (msg : List Byte) (f : TimeFrame), runsOnCrown (.tdelay lane msg f) Crown.timeDead (·.tdelay lane msg f)) ∧
  (∀ (w : LeafSel) (lane : Nat) (msg : List Byte) (bad : Bool), runsOnLeaf (.tresp w.block lane msg bad) w Leaf.timeDead (·.onTime (fun n => n.leafParent.takeTresp lane msg bad))) ∧
  (∀ (lane : Nat) (msg : List Byte) (bad : Bool), runsOnCrown (.tresp .crown lane msg bad) Crown.timeDead (fun c => (c.followUp.on (·.takeTresp lane msg bad)).ingestWaiting)) ∧
  (∀ w, runsOnLeaf (.holdoverEnter w.block) w Leaf.timeDead (·.onTime (·.leafParent.holdoverEnter false))) ∧
  (runsOnCrown (.holdoverEnter .crown) Crown.timeDead (fun c => c.followUp.on (·.holdoverEnter c.byPps))) ∧
  (∀ w, runsOnLeaf (.boundHoldoverUpdate w.block) w Leaf.timeDead (·.onTime (fun n => Node.holdoverBound n.leafParent))) ∧
  (runsOnCrown (.boundHoldoverUpdate .crown) Crown.timeDead (fun c => (c.followUp.on Node.holdoverBound).ingestWaiting)) ∧
  (runsOnCrown .ppsEdge Crown.timeDead Crown.ppsEdge) ∧
  (∀ (bytes : List Byte), runsOnCrown (.todMessage bytes) Crown.timeDead (·.todMessage bytes)) ∧
  (runsOnCrown .timeSetGo Crown.timeDead Crown.timeSetGo) ∧
  (∀ (w : LeafSel) (input : Nat) (level : Bool), runsOnLeaf (.captureEdge w.block input level) w Leaf.timeDead (·.on (·.capSample input level))) ∧
  (∀ (input : Nat) (level : Bool), runsOnCrown (.captureEdge .crown input level) Crown.timeDead (·.on (·.capSample input level))) ∧
  (∀ (w : LeafSel) (input : Nat), runsOnLeaf (.capturePop w.block input) w free (·.on (·.capPop input))) ∧
  (∀ (input : Nat), runsOnCrown (.capturePop .crown input) free (·.on (·.capPop input))) ∧
  (∀ (w : LeafSel) (train : Nat), runsOnLeaf (.pulseArm w train) w Leaf.timeDead (·.on (·.ptArm train))) ∧
  (∀ (w : LeafSel) (train : Nat), runsOnLeaf (.pulseTakeover w train) w Leaf.timeDead (·.on (·.ptTakeover train))) ∧
  (∀ (w : LeafSel) (train : Nat), runsOnLeaf (.pulseEdge w train) w Leaf.timeDead (·.on (·.ptEdge train))) ∧
  (∀ (w : LeafSel) (train : Nat) (on : Bool), runsOnLeaf (.pulseEnableWrite w train on) w Leaf.timeDead (·.on (·.ptEnable train on)))

/-- Twigs, sweeps, counters and trace: every command of the family completes, with the next state its rules give, wherever the unit it acts in is not stopped. -/
def Obligations.CounterCommandsComplete : Prop :=
  (∀ (w : LeafSel) (ntwig loop : Nat) (chain : List TwigAt), runsOnLeaf (.enumReturn w ntwig loop chain) w Leaf.sapHeld (·.enumReturn ntwig loop chain)) ∧
  (∀ w, runsOnLeaf (.readTimeout w) w Leaf.sapHeld Leaf.readTimeout) ∧
  (∀ (w : LeafSel) (t : Nat) (inp : TwigIn), runsOnLeaf (.twigHostCycle w t inp) w free (·.twigCycle t inp)) ∧
  (∀ (w : LeafSel) (t : Nat), runsOnLeaf (.twigCfgApply w t) w free (·.cfgApply t)) ∧
  (∀ w, runsOnLeaf (.flushBins w) w Leaf.sapHeld Leaf.flushBins) ∧
  (∀ (w : LeafSel) (t : Nat), runsOnLeaf (.flushResume w t) w Leaf.sapHeld (·.flushResume t)) ∧
  (∀ (w : LeafSel) (n data priv mid : Nat), runsOnLeaf (.marker w n data priv mid) w Leaf.sapHeld (·.marker n data priv mid)) ∧
  (∀ (w : LeafSel) (g : Nat), runsOnLeaf (.sweepDue w g) w Leaf.sapHeld (·.sweepDue g)) ∧
  (∀ w, runsOnLeaf (.sweepStart w) w Leaf.sapHeld Leaf.sweepStart) ∧
  (∀ w, runsOnLeaf (.readResponse w) w Leaf.sapHeld Leaf.readResponse) ∧
  (∀ w, runsOnLeaf (.sweepComplete w) w Leaf.sapHeld Leaf.sweepComplete) ∧
  (∀ w, runsOnLeaf (.groupCfgApply w) w Leaf.sapHeld Leaf.groupApply) ∧
  (∀ (w : LeafSel) (on : Bool), runsOnLeaf (.sapEnWrite w on) w Leaf.sapHeld (·.sapEn on)) ∧
  (∀ (w : LeafSel) (index priv : Nat), runsOnLeaf (.counterWindowRead w index priv) w Leaf.sapHeld (·.counterRead index priv)) ∧
  (∀ (w : LeafSel) (write : Bool) (t word : Nat), runsOnLeaf (.twigCfgGo w write t word) w Leaf.sapHeld (·.cfgGo write t word)) ∧
  (∀ (w : LeafSel) (err : Bool), runsOnLeaf (.cresp w err) w Leaf.sapHeld (·.cresp err)) ∧
  (∀ w, runsOnLeaf (.twigCfgTimeout w) w Leaf.sapHeld Leaf.cfgTimeout) ∧
  (∀ (w : LeafSel) (t : Nat), runsOnLeaf (.eventBeat w t) w Leaf.sapHeld (·.eventBeat t)) ∧
  (∀ (core : Nat) (inp : TrcIn), runsOnLeaf (.traceRetire core inp) .die (·.trcDead core) (·.trcRetire core inp)) ∧
  (∀ (core : Nat), runsOnLeaf (.loss core) .die (·.trcDead core) (·.trcLoss core)) ∧
  (∀ (core : Nat), runsOnLeaf (.lpEnter core) .die (·.trcDead core) (·.trcLpEnter core)) ∧
  (∀ (core : Nat), runsOnLeaf (.traceLpExit core) .die (·.trcDead core) (·.trcLpExit core)) ∧
  (∀ (w : LeafSel) (core v : Nat), runsOnLeaf (.traceCtrlWrite w core v) w Leaf.sapHeld (·.trcCtrl core v)) ∧
  (∀ w, runsOnLeaf (.traceDrain w) w Leaf.sapHeld Leaf.traceDrain)

/-- Sensors, guards and ageing: every command of the family completes, with the next state its rules give, wherever the unit it acts in is not stopped. -/
def Obligations.GuardCommandsComplete : Prop :=
  (∀ (w : LeafSel) (chan v : Nat), runsOnLeaf (.sensorSample w chan v) w Leaf.guardDead (·.sample chan v)) ∧
  (∀ w, runsOnLeaf (.rateWindowEnd w) w Leaf.guardDead Leaf.rateWindow) ∧
  (∀ (w : LeafSel) (u r v : Nat), runsOnLeaf (.watchUnitWrite w u r v) w Leaf.aonDead (·.writeUnit u r v)) ∧
  (∀ (w : LeafSel) (go : Bool) (u priv : Nat), runsOnLeaf (.guardInject w go u priv) w Leaf.guardDead (·.inject go u priv)) ∧
  (∀ (w : LeafSel) (mask priv : Nat), runsOnLeaf (.fenceClr w mask priv) w Leaf.guardDead (·.fenceClr mask priv)) ∧
  (∀ (w : LeafSel) (g : Nat) (radio : Bool), runsOnLeaf (.wclassChange w g radio) w Leaf.guardDead (·.wclassSample g radio)) ∧
  (∀ (w : LeafSel) (u : Nat), runsOnLeaf (.holdoffExpire w u) w Leaf.guardDead (·.holdoffEnd u)) ∧
  (∀ w, runsOnLeaf (.vfRequest w) w Leaf.guardDead Leaf.vfTransfer) ∧
  (∀ (w : LeafSel) (word : Nat), runsOnLeaf (.vfResponse w word) w Leaf.aonDead (·.vfReply word)) ∧
  (∀ (w : LeafSel) (d : Nat), runsOnLeaf (.vfTimeout w d) w Leaf.guardDead (·.vfTimeout d)) ∧
  (∀ (w : LeafSel) (word : Nat), runsOnLeaf (.vfReq w word) w Leaf.aonDead (·.vfSoft word)) ∧
  (∀ (w : LeafSel) (d steps : Nat), runsOnLeaf (.margin w d steps) w Leaf.aonDead (·.vfMargin d steps)) ∧
  (∀ (port chan hours cell : Nat) (doms : List (Nat × Nat)), runsOnHbm (.ageingPoint port chan hours cell doms) (·.ageingPoint port chan hours cell doms))

/-- Packer, receiver, CRC units and Ring log: every command of the family completes, with the next state its rules give, wherever the unit it acts in is not stopped. -/
def Obligations.SapCommandsComplete : Prop :=
  (∀ (w : LeafSel) (lane kind cls : Nat) (body : List Byte), runsOnLeaf (.recordEnqueue w.block lane kind cls body) w Leaf.sapHeld (·.on (·.enqueueRec lane kind cls body))) ∧
  (∀ (lane kind cls : Nat) (body : List Byte), runsOnCrown (.recordEnqueue .crown lane kind cls body) free (·.on (·.enqueueRec lane kind cls body))) ∧
  (∀ (w : LeafSel) (lane cls : Nat), runsOnLeaf (.frameClose w.block lane cls) w free (·.frameClose cls)) ∧
  (∀ (lane cls : Nat), runsOnCrown (.frameClose .crown lane cls) free (fun c => (c.closeFrame lane (cls % 8) false).on (fun n => n.ringPump n.ring.recs.length))) ∧
  (∀ (lane : Nat), runsOnLeaf (.frameSelect .die lane) .die free (·.frameSelect lane)) ∧
  (∀ (lane : Nat), runsOnHbm (.frameSelect .own lane) Crown.selfSelect) ∧
  (∀ (lane : Nat), runsOnHbm (.frameSelect .crown lane) (·.frameSelect lane)) ∧
  (∀ w, runsOnLeaf (.alivePeriodEnd w.block) w Leaf.sapHeld (·.on Node.aliveEnd)) ∧
  (runsOnCrown (.alivePeriodEnd .crown) free (·.on Node.aliveEnd)) ∧
  (∀ (w : LeafSel) (lane cls : Nat), runsOnLeaf (.replayStart w.block lane cls) w Leaf.sapHeld (·.on (·.replayOn lane cls))) ∧
  (∀ (lane cls : Nat), runsOnCrown (.replayStart .crown lane cls) free (·.on (·.replayOn lane cls))) ∧
  (∀ (w : LeafSel) (lane cls : Nat), runsOnLeaf (.levelRise w.block lane cls) w Leaf.sapHeld (·.on (fun n => n.levelRise (n.key lane (cls % 8))))) ∧
  (∀ (lane cls : Nat), runsOnCrown (.levelRise .crown lane cls) free (·.on (fun n => n.levelRise (n.key lane (cls % 8))))) ∧
  (∀ (w : LeafSel) (lane cls : Nat), runsOnLeaf (.levelFall w.block lane cls) w Leaf.sapHeld (·.on (fun n => n.levelFall (n.key lane (cls % 8))))) ∧
  (∀ (lane cls : Nat), runsOnCrown (.levelFall .crown lane cls) free (·.on (fun n => n.levelFall (n.key lane (cls % 8))))) ∧
  (∀ (w : LeafSel) (cls v : Nat), runsOnLeaf (.qsizeWrite w cls v) w Leaf.sapHeld (·.queueCtrl cls v)) ∧
  (∀ (w : LeafSel) (lane : Nat) (bytes : List Byte), runsOnLeaf (.frameReceive w.block lane bytes) w Leaf.sapHeld (·.frameReceive lane bytes)) ∧
  (∀ (lane : Nat) (bytes : List Byte), runsOnHbm (.frameReceive .crown lane bytes) (fun c => (c.frameReceive lane bytes).flexMove)) ∧
  (∀ (lane cls : Nat), runsOnHbm (.dead lane cls) (·.deadCheck lane cls)) ∧
  (∀ w, runsOnLeaf (.tstatusPeriodic w.block) w Leaf.sapHeld (·.on (fun n => if n.statusDue then n.tellStatus (n.tstatusRec 1) else n))) ∧
  (runsOnCrown (.tstatusPeriodic .crown) free Crown.statusRound) ∧
  (∀ (w : LeafSel) (u : Nat), runsOnLeaf (.start w u) w Leaf.sapHeld (·.crcStart u)) ∧
  (∀ (w : LeafSel) (u v : Nat), runsOnLeaf (.crcData w u v) w Leaf.sapHeld (·.crcData u v)) ∧
  (∀ (w : LeafSel) (base pcc : Nat), runsOnLeaf (.restore w base pcc) w Leaf.sapHeld (·.restore base pcc)) ∧
  (∀ (port bits : Nat), runsOnCrown (.powerUp port bits) free (·.takePowerUp port bits)) ∧
  (runsOnCrown .opsecSave free Crown.opsecSave) ∧
  (∀ (v : Nat), runsOnCrown (.rlogRstPort v) free (·.rstPort v)) ∧
  (∀ (k : Nat) (bytes : List Byte), runsOnCrown (.mirrorRecord k bytes) free (·.mirrorBytes k false bytes)) ∧
  (∀ (w : LeafSel) (k seq : Nat), runsOnLeaf (.mirrorAck w.block k seq) w Leaf.sapHeld (·.mirrorAck seq)) ∧
  (∀ (k seq : Nat), runsOnCrown (.mirrorAck .crown k seq) free (·.mirrorAckSend k)) ∧
  (∀ (w : LeafSel) (seq priv : Nat), runsOnLeaf (.rlogRead w.block seq priv) w Leaf.aonDead (·.rlogRead seq priv)) ∧
  (∀ (seq priv : Nat), runsOnCrown (.rlogRead .crown seq priv) free (·.rlogRead seq)) ∧
  (∀ (w : LeafSel) (first count : Nat), runsOnLeaf (.read w.block first count) w Leaf.sapHeld (·.ringRequest first count)) ∧
  (∀ (first count : Nat), runsOnCrown (.read .crown first count) free (·.ownRing (byte 0x40 ++ zeros 3 ++ le 4 first ++ le 4 count))) ∧
  (∀ (k : Nat) (body : List Byte), runsOnCrown (.data k body) free (·.ringReply k body)) ∧
  (∀ (node first count : Nat), runsOnCrown (.mirrorRead node first count) free (·.mirrorRead node first count)) ∧
  (∀ (ticket : List Byte), runsOnCrown (.clearTicket ticket) free (·.clearTicket ticket)) ∧
  (∀ (w : LeafSel) (high pcc nonce : Nat) (digest : List Byte), runsOnLeaf (.rlogClear w.block high pcc nonce digest) w Leaf.sapHeld (·.clearRing high pcc nonce digest)) ∧
  (∀ (high pcc nonce : Nat) (digest : List Byte), runsOnCrown (.rlogClear .crown high pcc nonce digest) free (·.ownRing (byte 0x44 ++ zeros 3 ++ le 4 high ++ le 3 pcc ++ zeros 1 ++ le 8 nonce ++ (digest ++ zeros 16).take 16)))

/-- Bark lanes: every command of the family completes, with the next state its rules give, wherever the unit it acts in is not stopped. -/
def Obligations.LaneCommandsComplete : Prop :=
  (∀ (w : LeafSel) (lane : Nat) (on : Bool), runsOnLeaf (.laneEnWrite w.block lane on) w (·.laneDead lane) (·.on (fun n => (n.laneEn lane on).leafParent))) ∧
  (∀ (lane : Nat) (on : Bool), runsOnCrown (.laneEnWrite .crown lane on) (·.laneDead lane) (fun c => ((c.on (·.laneEn lane on)).flexMove).portChanged)) ∧
  (∀ (w : LeafSel) (lane : Nat), runsOnLeaf (.retrainWrite w.block lane) w (·.laneDead lane) (·.on (fun n => (n.retrainWrite lane).leafParent))) ∧
  (∀ (lane : Nat), runsOnCrown (.retrainWrite .crown lane) (·.laneDead lane) (fun c => ((c.on (·.retrainWrite lane)).flexMove).portChanged)) ∧
  (∀ (w : LeafSel) (lane : Nat), runsOnLeaf (.retrain w.block lane) w (·.laneDead lane) (·.on (fun n => (n.retrain lane).leafParent))) ∧
  (∀ (lane : Nat), runsOnCrown (.retrain .crown lane) (·.laneDead lane) (fun c => ((c.on (·.retrain lane)).flexMove).portChanged)) ∧
  (∀ (w : LeafSel) (lane : Nat) (adc : List Nat), runsOnLeaf (.trainStepEnd w.block lane adc) w (·.laneDead lane) (·.on (fun n => (n.stepEnd lane adc).leafParent))) ∧
  (∀ (lane : Nat) (adc : List Nat), runsOnCrown (.trainStepEnd .crown lane adc) (·.laneDead lane) (fun c => ((c.on (·.stepEnd lane adc)).flexMove).portChanged)) ∧
  (∀ (w : LeafSel) (lane session countdown : Nat), runsOnLeaf (.probeHeard w.block lane session countdown) w (·.laneDead lane) (·.on (fun n => (n.probeHeard lane session countdown).leafParent))) ∧
  (∀ (lane session countdown : Nat), runsOnCrown (.probeHeard .crown lane session countdown) (·.laneDead lane) (fun c => ((c.on (·.probeHeard lane session countdown)).flexMove).portChanged)) ∧
  (∀ (w : LeafSel) (lane : Nat) (heard : TrainingHeard), runsOnLeaf (.trainingFrame w.block lane heard) w (·.laneDead lane) (·.on (fun n => (n.trainingFrame lane heard.bytes heard.adc).leafParent))) ∧
  (∀ (lane : Nat) (heard : TrainingHeard), runsOnCrown (.trainingFrame .crown lane heard) (·.laneDead lane) (fun c => ((c.on (·.trainingFrame lane heard.bytes heard.adc)).flexMove).portChanged)) ∧
  (∀ (w : LeafSel) (lane : Nat), runsOnLeaf (.trialVerdict w.block lane) w (·.laneDead lane) (·.on (fun n => (n.trialVerdict lane).leafParent))) ∧
  (∀ (lane : Nat), runsOnCrown (.trialVerdict .crown lane) (·.laneDead lane) (fun c => ((c.on (·.trialVerdict lane)).flexMove).portChanged)) ∧
  (∀ (w : LeafSel) (lane : Nat), runsOnLeaf (.retry w.block lane) w (·.laneDead lane) (·.on (·.retry lane))) ∧
  (∀ (lane : Nat), runsOnCrown (.retry .crown lane) (·.laneDead lane) (fun c => (c.laneRetry lane).portChanged)) ∧
  (runsOnCrown .echoEngineGrant free Crown.engineGrant) ∧
  (runsOnCrown .downlinkPassStart free Crown.passStart) ∧
  (runsOnCrown .batchStart free Crown.batchStart) ∧
  (∀ (w : LeafSel) (lane cause : Nat), runsOnLeaf (.laneDown w.block lane cause) w (·.laneDead lane) (·.on (fun n => (n.laneDownBy lane cause).leafParent))) ∧
  (∀ (lane cause : Nat), runsOnCrown (.laneDown .crown lane cause) (·.laneDead lane) (fun c => ((c.on (·.laneDownBy lane cause)).flexMove).portChanged)) ∧
  (∀ (w : LeafSel) (lane : Nat), runsOnLeaf (.silentEnd w.block lane) w (·.laneDead lane) (·.on (fun n => (n.silentEnd lane).leafParent))) ∧
  (∀ (lane : Nat), runsOnCrown (.silentEnd .crown lane) (·.laneDead lane) (fun c => ((c.on (·.silentEnd lane)).flexMove).portChanged)) ∧
  (∀ (w : LeafSel) (lane : Nat) (heard : CodewordHeard), runsOnLeaf (.codewordReceive w.block lane heard) w (·.laneDead lane) (·.takeCodeword lane heard)) ∧
  (∀ (lane : Nat) (heard : CodewordHeard), runsOnHbm (.codewordReceive .crown lane heard) (fun c => c.unless (c.laneDead lane) (·.takeCodeword lane heard))) ∧
  (∀ (w : LeafSel) (lane num den : Nat), runsOnLeaf (.keepaliveSend w.block lane num den) w (·.laneDead lane) (·.on (·.keepaliveSend lane num den false false false))) ∧
  (∀ (lane num den : Nat), runsOnCrown (.keepaliveSend .crown lane num den) (·.laneDead lane) (·.keepaliveOut lane num den)) ∧
  (∀ (w : LeafSel) (lane : Nat) (block : List Byte), runsOnLeaf (.keepalive w.block lane block) w (·.laneDead lane) (·.on (fun n => (n.keepalive lane block).leafParent))) ∧
  (∀ (lane : Nat) (block : List Byte), runsOnCrown (.keepalive .crown lane block) (·.laneDead lane) (fun c => ((c.on (·.keepalive lane block)).flexMove).portChanged)) ∧
  (∀ (w : LeafSel) (lane num den : Nat) (adc : List Nat), runsOnLeaf (.lqWindowEnd w.block lane num den adc) w (·.laneDead lane) (·.on (fun n => (n.lqWindow lane num den adc).leafParent))) ∧
  (∀ (lane num den : Nat) (adc : List Nat), runsOnCrown (.lqWindowEnd .crown lane num den adc) (·.laneDead lane) (fun c => ((c.on (·.lqWindow lane num den adc)).flexMove).portChanged)) ∧
  (∀ (w : LeafSel) (lane : Nat) (got : Option Nat), runsOnLeaf (.modeReq w.block lane got) w (·.laneDead lane) (·.on (fun n => (n.modeRequest lane got).leafParent))) ∧
  (∀ (lane : Nat) (got : Option Nat), runsOnCrown (.modeReq .crown lane got) (·.laneDead lane) (fun c => ((c.on (·.modeRequest lane got)).flexMove).portChanged)) ∧
  (∀ (w : LeafSel) (lane mode : Nat), runsOnLeaf (.modeAck w.block lane mode) w (·.laneDead lane) (·.on (fun n => (n.modeAck lane mode).leafParent))) ∧
  (∀ (lane mode : Nat), runsOnCrown (.modeAck .crown lane mode) (·.laneDead lane) (fun c => ((c.on (·.modeAck lane mode)).flexMove).portChanged)) ∧
  (∀ (w : LeafSel) (lane mode : Nat), runsOnLeaf (.modeGo w.block lane mode) w (·.laneDead lane) (·.on (fun n => (n.modeGo lane mode).leafParent))) ∧
  (∀ (lane mode : Nat), runsOnCrown (.modeGo .crown lane mode) (·.laneDead lane) (fun c => ((c.on (·.modeGo lane mode)).flexMove).portChanged)) ∧
  (∀ (w : LeafSel) (lane : Nat), runsOnLeaf (.modeChangeTimeout w.block lane) w (·.laneDead lane) (·.on (fun n => (n.modeTimeout lane).leafParent))) ∧
  (∀ (lane : Nat), runsOnCrown (.modeChangeTimeout .crown lane) (·.laneDead lane) (fun c => ((c.on (·.modeTimeout lane)).flexMove).portChanged)) ∧
  (∀ (w : LeafSel) (lane : Nat) (tx : Bool), runsOnLeaf (.modeSwitch w.block lane tx) w (·.laneDead lane) (·.on (fun n => (n.modeSwitch lane tx).leafParent))) ∧
  (∀ (lane : Nat) (tx : Bool), runsOnCrown (.modeSwitch .crown lane tx) (·.laneDead lane) (fun c => ((c.on (·.modeSwitch lane tx)).flexMove).portChanged)) ∧
  (∀ (w : LeafSel) (lane : Nat), runsOnLeaf (.modeLocked w.block lane) w (·.laneDead lane) (·.on (fun n => (n.modeLocked lane).leafParent))) ∧
  (∀ (lane : Nat), runsOnCrown (.modeLocked .crown lane) (·.laneDead lane) (fun c => ((c.on (·.modeLocked lane)).flexMove).portChanged))

/-- Reduction, flex circuits, egress and crown engine: every command of the family completes, with the next state its rules give, wherever the unit it acts in is not stopped. -/
def Obligations.TrafficCommandsComplete : Prop :=
  (∀ (slot : Nat), runsOnCrown (.windowClose slot) free (·.closeDue slot)) ∧
  (∀ (lane : Nat) (body : List Byte), runsOnCrown (.agg lane body) free (·.redRecord lane 0x30 body)) ∧
  (∀ (lane : Nat) (body : List Byte), runsOnCrown (.raw lane body) free (·.redRecord lane 0x31 body)) ∧
  (∀ (parentIdle : Bool), runsOnCrown (.loadInterval parentIdle) free (·.intervalEnd parentIdle)) ∧
  (∀ (lane : Nat) (body : List Byte), runsOnCrown (.shift lane body) free (·.redRecord lane 0x33 body)) ∧
  (∀ (lane : Nat) (body : List Byte), runsOnCrown (.load lane body) free (·.redRecord lane 0x32 body)) ∧
  (∀ (reason : Nat), runsOnCrown (.req reason) free (·.flexReq reason)) ∧
  (∀ (body : List Byte), runsOnCrown (.grant body) free (·.judged [field body 20 4] [field body 28 4] (·.granted body))) ∧
  (∀ (body : List Byte), runsOnCrown (.deny body) free (·.judged [field body 20 4] [field body 28 4] (·.deny body))) ∧
  (runsOnCrown .release free (·.flexRelease.followUp)) ∧
  (runsOnCrown .flexTimeout free Crown.flexTimeout) ∧
  (runsOnCrown .shaperRefill free Crown.shaperRefill) ∧
  (∀ (lane : Nat), runsOnCrown (.go lane) free (·.gateGo lane)) ∧
  (∀ (lane : Nat), runsOnCrown (.gateTakeover lane) free (·.gateTakeover lane)) ∧
  (runsOnCrown .queueSample free Crown.queueSample) ∧
  (∀ (lane queue priv mid : Nat), runsOnCrown (.nsampRead lane queue priv mid) free (·.answerRead (BZ_SCHl_Qq_NSAMP lane queue) priv mid)) ∧
  (∀ (lane : Nat), runsOnCrown (.strictDiscard lane) free (·.strictDiscard lane)) ∧
  (∀ (q l p : Nat), runsOnHbm (.remap q l p) (·.remap q l p)) ∧
  (∀ (q : Nat) (cells : MapCells), runsOnHbm (.retire q cells) (·.retire q cells.logical cells.phys)) ∧
  (runsOnCrown .cmapDone free Crown.cmapDone) ∧
  (∀ (x : RingSel) (v : Nat), runsOnHbm (.queueTailWrite x v) (·.ringRegister x (ringOf x).tail.off v)) ∧
  (∀ (x : RingSel) (v : Nat), runsOnHbm (.cplHeadWrite x v) (·.ringRegister x (ringOf x).cplHead.off v)) ∧
  (∀ (k : Nat), runsOnHbm (.jobStart k) (·.engineStart k)) ∧
  (∀ (k : Nat), runsOnHbm (.jobComplete k) (·.engineFinish k)) ∧
  (∀ (k code pcell : Nat), runsOnHbm (.engineFault k code pcell) (·.engineFault k code pcell)) ∧
  (∀ (tree : Bool) (k : Nat), runsOnHbm (.abortQueue tree k) (·.abortRing tree k)) ∧
  (∀ (k : Nat) (ok : Bool), runsOnCrown (.hbmTrained k ok) free (·.hbmTrained k ok))

/-- Feature stage, trees, stragglers and drift: every command of the family completes, with the next state its rules give, wherever the unit it acts in is not stopped. -/
def Obligations.TreeCommandsComplete : Prop :=
  (∀ (slot : Nat), runsOnHbm (.vectorForm slot) (·.vectorForm slot)) ∧
  (∀ (e v : Nat), runsOnCrown (.loadEnsemble e v) free (·.loadCommand e v)) ∧
  (∀ (e : Nat) (ok : Bool), runsOnHbm (.ensembleLoaded e ok) (·.ensLoaded e ok)) ∧
  (∀ (e : Nat), runsOnCrown (.unload e) free (·.ensUnload e)) ∧
  (∀ (k : Nat), runsOnHbm (.treeJobStart k) (·.treeBegin k)) ∧
  (∀ (k : Nat), runsOnHbm (.treeJobComplete k) (·.treeFinish k)) ∧
  (∀ (k cause : Nat), runsOnHbm (.treeFault k cause) (·.treeFault k cause)) ∧
  (runsOnHbm .windowProcess Crown.windowStep) ∧
  (∀ (q : Nat) (ue : Bool), runsOnHbm (.refitComplete q ue) (·.refitComplete q ue)) ∧
  (∀ (slot : Nat), runsOnCrown (.budgetHourEnd slot) free (·.budgetHour slot)) ∧
  (∀ (slot : Nat), runsOnHbm (.rebase slot) (·.rebase slot)) ∧
  (∀ (slot : Nat), runsOnCrown (.resetRuns slot) free (·.resetRuns slot))

/-- Audit, placement and Graft: every command of the family completes, with the next state its rules give, wherever the unit it acts in is not stopped. -/
def Obligations.AuditCommandsComplete : Prop :=
  (∀ (desc ctx : List Byte), runsOnLeaf (.auditDescriptor desc ctx) .die Leaf.hostDead (·.descriptor desc ctx)) ∧
  (runsOnLeaf .fetchIssue .die Leaf.hostDead Leaf.fetchIssue) ∧
  (∀ (id : Nat) (data : List Byte) (err : Bool), runsOnLeaf (.fetchResponse id data err) .die Leaf.hostDead (·.fetchResponse id data err)) ∧
  (runsOnLeaf .retentionExpire .die Leaf.aonDead Leaf.retention) ∧
  (runsOnLeaf .result .die Leaf.aonDead Leaf.result) ∧
  (∀ (thresh seed : Nat), runsOnLeaf (.config thresh seed) .die Leaf.aonDead (·.audConfig thresh seed)) ∧
  (∀ (engine thresh tiles : Nat), runsOnLeaf (.boost engine thresh tiles) .die Leaf.aonDead (·.audBoost engine thresh tiles)) ∧
  (runsOnLeaf .lock .die Leaf.aonDead Leaf.audLock) ∧
  (∀ (seq : Nat), runsOnLeaf (.replay seq) .die Leaf.aonDead (·.replayCmd seq)) ∧
  (∀ (refused : Bool), runsOnLeaf (.replayDone refused) .die Leaf.hostDead (·.replayDone refused)) ∧
  (runsOnLeaf .replayExpire .die Leaf.aonDead Leaf.replayExpire) ∧
  (∀ (r : Nat), runsOnLeaf (.wdigest r) .die Leaf.aonDead (·.wdigest r)) ∧
  (∀ (port seq : Nat), runsOnHbm (.sampleComplete port seq) (·.sampleComplete port seq)) ∧
  (runsOnHbm .recomputeComplete Crown.recomputeComplete) ∧
  (∀ (port seq : Nat), runsOnHbm (.replayResult port seq) (·.replayResult port seq)) ∧
  (∀ (port engine : Nat), runsOnCrown (.engClear port engine) free (·.engClear port engine)) ∧
  (runsOnCrown .reseed free Crown.reseed) ∧
  (runsOnHbm .weightRoundEnd Crown.weightRoundEnd) ∧
  (∀ (port engine : Nat), runsOnCrown (.rehearse port engine) free (·.rehearseWrite (2 ^ 31 + 256 * (port % 64) + engine % 256))) ∧
  (∀ (port kind : Nat) (body : List Byte), runsOnHbm (.healthInput port kind body) (·.healthInput port kind body)) ∧
  (∀ (port : Nat), runsOnCrown (.gradeRise port) free (·.gradeRise port)) ∧
  (∀ (ring : Nat), runsOnHbm (.place ring) (·.groveServe ring false)) ∧
  (∀ (ring : Nat), runsOnHbm (.releaseJob ring) (·.groveServe ring true)) ∧
  (∀ (body : List Byte), runsOnHbm (.resp body) (·.takeResp body)) ∧
  (runsOnCrown .summary free Crown.summary) ∧
  (runsOnCrown .groveStale free Crown.groveStale) ∧
  (∀ (port : Nat), runsOnHbm (.deadFailTimeout port) (·.deadFail port)) ∧
  (∀ (group : Nat), runsOnHbm (.vacancyFill group) (·.vacancyFill group)) ∧
  (∀ (port : Nat), runsOnHbm (.hold port) (·.portCommand 0 port)) ∧
  (∀ (port : Nat), runsOnHbm (.unhold port) (·.portCommand 1 port)) ∧
  (∀ (port : Nat), runsOnHbm (.fail port) (·.portCommand 2 port)) ∧
  (∀ (port : Nat), runsOnHbm (.reinstate port) (·.portCommand 3 port)) ∧
  (∀ (pod : Nat) (on : Bool), runsOnCrown (.standIn pod on) free (·.standIn pod on))

/-- Heartwood: every command of the family completes, with the next state its rules give, wherever the unit it acts in is not stopped. -/
def Obligations.HeartwoodCommandsComplete : Prop :=
  (∀ (romOk : Bool), runsOnLeaf (.hwResetRelease romOk) .die free (·.heartStart romOk)) ∧
  (∀ (engine state : Nat) (tvalid : Bool) (tenant req bytes : Nat), runsOnLeaf (.hwTagCycle engine state tvalid tenant req bytes) .die free (·.tagCycle engine state tvalid tenant req bytes)) ∧
  (∀ (tenant req : Nat), runsOnLeaf (.requestEnd tenant req) .die free (·.requestEnd tenant req)) ∧
  (∀ (volts amps : Nat), runsOnLeaf (.powerSample volts amps) .die free (·.powerSample volts amps)) ∧
  (runsOnLeaf .subintervalEnd .die free Leaf.subEnd) ∧
  (runsOnLeaf .hwIntervalEnd .die free Leaf.intervalEnd) ∧
  (∀ (hseq : Nat), runsOnLeaf (.hwRelease hseq) .die free (·.heartRelease hseq)) ∧
  (∀ (code : Nat), runsOnLeaf (.tamper code) .die free (·.tamper code)) ∧
  (∀ (bad : Bool), runsOnLeaf (.oscFault bad) .die free (·.oscFault bad)) ∧
  (runsOnLeaf .getId .die free (·.heartMail (heartPlain 1 []))) ∧
  (∀ (nonce : List Byte), runsOnLeaf (.attest nonce) .die free (·.heartMail (heartPlain 2 nonce))) ∧
  (∀ (ckpt : List Byte), runsOnLeaf (.hwRestore ckpt) .die free (·.heartMail (heartPlain 3 ckpt))) ∧
  (∀ (first : Nat), runsOnLeaf (.readLog first) .die free (·.heartMail (heartPlain 4 (le 4 first)))) ∧
  (∀ (ctr : Nat) (payload sig : List Byte), runsOnLeaf (.setConfig ctr payload sig) .die free (·.heartMail (heartSigned 0x10 ctr payload sig))) ∧
  (∀ (ctr : Nat) (sig : List Byte), runsOnLeaf (.heartSeal ctr sig) .die free (·.heartMail (heartSigned 0x20 ctr [] sig))) ∧
  (∀ (ctr : Nat) (sig : List Byte), runsOnLeaf (.heartUnseal ctr sig) .die free (·.heartMail (heartSigned 0x21 ctr [] sig))) ∧
  (∀ (ctr : Nat) (sig : List Byte), runsOnLeaf (.clearTamper ctr sig) .die free (·.heartMail (heartSigned 0x22 ctr [] sig))) ∧
  (∀ (bytes : List Byte), runsOnLeaf (.cmdReject bytes) .die free (·.heartReject bytes)) ∧
  (∀ (port : Nat), runsOnCrown (.meterRelayRestore port) free (·.relayDue port))

/-- Bring-up, broadcasts and job starts: every command of the family completes, with the next state its rules give, wherever the unit it acts in is not stopped. -/
def Obligations.BringUpCommandsComplete : Prop :=
  (∀ (a b : Option (List Byte)), runsOnHbm (.romBoot a b) (·.boot a b)) ∧
  (∀ (bad : List Nat), runsOnCrown (.bist bad) free (·.bist bad)) ∧
  (runsOnHbm .admissionCheck Crown.admission) ∧
  (runsOnCrown .ready free Crown.ready) ∧
  (runsOnHbm .nohbmDeadline Crown.nohbm) ∧
  (∀ (w : LeafSel) (img : List Byte), runsOnLeaf (.nvmRead w img) w Leaf.aonDead (·.nvmRead img)) ∧
  (∀ (w : LeafSel) (node gen : Nat), runsOnLeaf (.assign w.block node gen) w Leaf.sapHeld (·.assign node gen)) ∧
  (∀ (node gen : Nat), runsOnCrown (.assign .crown node gen) free (·.assign node gen)) ∧
  (∀ (port status gen : Nat), runsOnCrown (.assignAck port status gen) free (·.assignAck port status gen)) ∧
  (∀ (w : LeafSel) (seq : Nat) (entries : List (Nat × Nat)), runsOnLeaf (.regWrite w seq entries) w Leaf.sapHeld (·.regList seq entries)) ∧
  (∀ (port status : Nat), runsOnCrown (.regDone port status) free (·.regDone port status)) ∧
  (runsOnHbm .warm Crown.warm) ∧
  (runsOnCrown .topologyCheck free Crown.topologyCheck) ∧
  (∀ (origin : Bool) (body : List Byte), runsOnCrown (.offer origin body) free (·.offer origin body)) ∧
  (∀ (body : List Byte), runsOnHbm (.chunk body) (·.chunk body)) ∧
  (∀ (lane : Nat) (body : List Byte), runsOnCrown (.bcastReq lane body) free (·.bcastReq lane body)) ∧
  (∀ (body : List Byte), runsOnCrown (.ack body) free (·.bcAck body)) ∧
  (∀ (slot : Nat), runsOnCrown (.ackSend slot) free (·.ackSend slot)) ∧
  (∀ (slot : Nat), runsOnCrown (.ackByExpire slot) free (·.ackByExpire slot)) ∧
  (∀ (id tact : Nat), runsOnCrown (.commit id tact) free (·.bcCommit id tact)) ∧
  (runsOnHbm .broadcastApply Crown.bcApply) ∧
  (∀ (id : Nat), runsOnCrown (.abortBroadcast id) free (·.bcAbort id)) ∧
  (∀ (slot : Nat), runsOnCrown (.broadcastDiscard slot) free (·.bcDiscard slot)) ∧
  (∀ (w : LeafSel) (body : List Byte), runsOnLeaf (.jobArm w.block body) w Leaf.sapHeld (·.takeArm body)) ∧
  (∀ (body : List Byte), runsOnCrown (.jobArm .crown body) free (·.jobArm body)) ∧
  (∀ (w : LeafSel) (body : List Byte), runsOnLeaf (.jobGo w.block body) w Leaf.sapHeld (·.jobGo (field body 3 4))) ∧
  (∀ (body : List Byte), runsOnCrown (.jobGo .crown body) free (·.jobGo body)) ∧
  (∀ (w : LeafSel) (body : List Byte), runsOnLeaf (.jobCancel w.block body) w Leaf.sapHeld (·.jobCancel (field body 3 4))) ∧
  (∀ (body : List Byte), runsOnCrown (.jobCancel .crown body) free (·.jobCancel body)) ∧
  (∀ (got : Option (Nat × List Byte)), runsOnCrown (.jobAck got) free (·.ackOrWait got)) ∧
  (∀ w, runsOnLeaf (.jobTGo w) w Leaf.timeDead Leaf.jobTime) ∧
  (∀ (got : Option (List Byte)), runsOnCrown (.jobReport got) free (·.reportOrWait got)) ∧
  (∀ (w : LeafSel) (priv : Nat), runsOnLeaf (.jobFifoPop w priv) w Leaf.aonDead (·.jobPop priv))

/-- Firmware, mailbox and tenant views: every command of the family completes, with the next state its rules give, wherever the unit it acts in is not stopped. -/
def Obligations.HostCommandsComplete : Prop :=
  (∀ (v mid : Nat), runsOnHbm (.fwLoadData v mid) (·.busWrite BZ_FW_LOAD_DATA v 3 mid)) ∧
  (runsOnHbm .fwLoadGo Crown.fwLoadGo) ∧
  (∀ (v mid : Nat), runsOnHbm (.wdogKick v mid) (·.busWrite BZ_WDOG_KICK v 3 mid)) ∧
  (runsOnHbm .wdogExpire Crown.wdogExpire) ∧
  (∀ (p : List Byte), runsOnHbm (.features p) (·.mailbox 1 p)) ∧
  (∀ (p : List Byte), runsOnHbm (.hostEnter p) (·.mailbox 2 p)) ∧
  (∀ (p : List Byte), runsOnHbm (.hostExit p) (·.mailbox 3 p)) ∧
  (runsOnHbm .pcieLinkDownTimeout Crown.linkDown) ∧
  (∀ (p : List Byte), runsOnHbm (.move p) (·.mailbox 4 p)) ∧
  (∀ (bytes : List Byte), runsOnHbm (.moveDone bytes) (·.moveDone bytes)) ∧
  (∀ (p : List Byte), runsOnHbm (.configCommand p) (·.mailbox 5 p)) ∧
  (∀ (p : List Byte), runsOnHbm (.jobStartCommand p) (·.mailbox 6 p)) ∧
  (runsOnCrown .jobStartDone free Crown.jobStartDone) ∧
  (∀ (p : List Byte), runsOnHbm (.viewCreate p) (·.mailbox 0x10 p)) ∧
  (∀ (p : List Byte), runsOnHbm (.viewDestroy p) (·.mailbox 0x11 p)) ∧
  (∀ (p : List Byte), runsOnHbm (.viewFreeze p) (·.mailbox 0x12 p)) ∧
  (∀ (p : List Byte), runsOnHbm (.viewThaw p) (·.mailbox 0x13 p)) ∧
  (∀ (p hostData : List Byte), runsOnHbm (.viewSave p hostData) (·.viewSaveCommand p hostData)) ∧
  (∀ (p blob : List Byte), runsOnHbm (.viewRestore p blob) (·.viewRestoreCommand p blob)) ∧
  (∀ (v r w : Nat), runsOnCrown (.viewRingEnable v r w) free (·.viewRingCtrl v r w)) ∧
  (∀ (want : Nat), runsOnHbm (.viewDispatch want) (·.viewTurn want)) ∧
  (∀ (r : Nat), runsOnHbm (.viewCompletion r) (·.viewCompletion r)) ∧
  (∀ (v : Nat) (toHbm : Bool), runsOnCrown (.viewDmaGo v toHbm) free (·.viewDmaGo v toHbm)) ∧
  (∀ (v : Nat) (bytes : List Byte), runsOnHbm (.viewDmaDone v bytes) (·.dmaDone v bytes)) ∧
  (∀ (words : List Nat), runsOnCrown (.pmbusAlert words) free (·.pmbusAlert words)) ∧
  (∀ (k : Nat) (on : Bool), runsOnCrown (.dfiPhyRequest k on) free (·.dfiRequest k on))

/-! ### Registers -/

/-- R8: an access that is not a whole, aligned word has no effect on any register, and a read of that kind returns 0. At the Register Port the answer
is ALIGN, or MID where the master is 0xFFFF, an access that has no effect and reads 0 of whatever width (R448). -/
def Obligations.PartWordAccess : Prop :=
  (∀ (s : State) (write : Bool) (addr be data priv mid : Nat), bitOf s.leaf.boot.held 3 = false → bitOf s.leaf.boot.held 0 = false →
    (addr % 4 ≠ 0 ∨ be ≠ 0xF ∨ mid = 0xFFFF) →
    exec (.registerPortRequest write addr be data priv mid) s = .next (s.onLeaf .die (·.emit (.response 0 (if mid = 0xFFFF then 2 else 1))))) ∧
  (∀ (s : State) (w : LeafSel) (x : Place) (v priv mid : Nat) (deferred : Bool), (x.off % 4 ≠ 0 ∨ x.be ≠ 0xF) →
    exec (.registerWrite w.block x v priv mid deferred) s = .next s) ∧
  (∀ (s : State) (w : LeafSel) (x : Place) (priv mid : Nat) (deferred : Bool), (x.off % 4 ≠ 0 ∨ x.be ≠ 0xF) →
    exec (.rcRead w.block x priv mid deferred) s = .next (s.onLeaf w (·.emit (.response 0 0)))) ∧
  (∀ (s : State) (x : Place) (v priv mid : Nat) (deferred : Bool), (x.off % 4 ≠ 0 ∨ x.be ≠ 0xF) → s.crown.stray = false →
    exec (.registerWrite .crown x v priv mid deferred) s = .next s) ∧
  (∀ (s : State) (x : Place) (priv mid : Nat) (deferred : Bool), (x.off % 4 ≠ 0 ∨ x.be ≠ 0xF) →
    exec (.rcRead .crown x priv mid deferred) s = .next { s with crown := s.crown.emit (.response 0 0) })

/-- R9 in the leaf window: at an offset that holds no register, a read answers 0 and changes nothing, and a write has no effect. -/
def Obligations.UnmappedLeafOffset : Prop :=
  ∀ (s : State) (w : LeafSel) (x : Place) (v priv mid : Nat), findReg leafTable x.off = none →
    exec (.registerWrite w.block x v priv mid false) s = .next s ∧
    exec (.rcRead w.block x priv mid false) s = .next (s.onLeaf w (·.emit (.response 0 0)))

/-! ### Resets and clocks -/

/-- R373, R481: no reset of the leaf on a die reaches Heartwood, its registers or the crown; the reset asserted is the one held. -/
def Obligations.DieResetsSpareHeartwood : Prop :=
  ∀ (s : State) (r : Nat), r < 6 → ∃ t, exec (.resetAssert .die r) s = .next t ∧ t.leaf.heart = s.leaf.heart ∧
    (∀ off, 0xC000 ≤ off → off < 0x10000 → t.leaf.regs.get (resetOf leafTable) off = s.leaf.regs.get (resetOf leafTable) off) ∧ bitOf t.leaf.boot.held r = true ∧
    t.crown = s.crown ∧ t.pending = s.pending

/-- R482: release of a Twig's reset leaves it with no configuration, no bins, no queued record and no tag, every counter at 0 with its EPOCH one
further; no other Twig, no register and no other unit changes. -/
def Obligations.TwigReleased : Prop :=
  ∀ (s : State) (w : LeafSel) (t : Nat), ∃ x : Twig, exec (.twigResetRelease w t) s = .next (s.onLeaf w (·.setTwig t x)) ∧
    x.inReset = false ∧ x.cfg = [] ∧ x.bins = [] ∧ x.queue = [] ∧ x.prevTag = none ∧
    ∀ c, c < 16 → (x.counter c).value = 0 ∧ (x.counter c).epoch = ((((s.leafOf w).twig t).counter c).epoch + 1) % 16

/-- R473, R474: a write of BZ_CLKd_CTRL that changes MULT, DIV or PLL_EN while the multiplexer selects the PLL or is switching, or SEL while it is switching,
changes nothing and sets ERR. A switch under way completes where both clocks run, with SWITCHING at 0 and the selected clock on; otherwise nothing changes: that a switch
the stopped clock keeps from completing never does is the model's reading (log entry 125). -/
def Obligations.ClockSwitch : Prop :=
  (∀ (s : State) (d v : Nat),
    ((bitsOf v 30 30 ≠ s.crown.g (BZ_CLKd_CTRL_PLL_EN d) ∨ bitsOf v 15 8 ≠ s.crown.g (BZ_CLKd_CTRL_MULT d) ∨ bitsOf v 3 0 ≠ s.crown.g (BZ_CLKd_CTRL_DIV d)) ∧
      (s.crown.flag (BZ_CLKd_STAT_ON_PLL d) = true ∨ s.crown.flag (BZ_CLKd_STAT_SWITCHING d) = true) ∨
      bitOf v 31 ≠ s.crown.flag (BZ_CLKd_CTRL_SEL d) ∧ s.crown.flag (BZ_CLKd_STAT_SWITCHING d) = true) →
    exec (.clkCtrlWrite d v) s = .next { s with crown := s.crown.s (BZ_CLKd_STAT_ERR d) 1 }) ∧
  (∀ (s : State) (d : Nat),
    let runs : Bool := s.crown.flag (BZ_CLKd_STAT_SWITCHING d) && !s.crown.clockFailed d && !s.crown.clockFailed (refOfDomain d) && s.crown.flag (BZ_CLKd_CTRL_PLL_EN d)
    (2 ≤ d ∧ d ≤ 17 → runs = true → exec (.clockSwitchDone d) s =
      .next { s with crown := (s.crown.s (BZ_CLKd_STAT_SWITCHING d) 0).s (BZ_CLKd_STAT_ON_PLL d) (s.crown.g (BZ_CLKd_CTRL_SEL d)) }) ∧
    (runs = false → exec (.clockSwitchDone d) s = .next s))

/-! ### Time -/

/-- R32: while L-TIME runs and is out of reset, a nanosecond adds 1 ns × (1 + RATE × 2^-48) to the leaf's time word, kept in units of 2^-48 ns. That a step on
an empty queue is a nanosecond is the model's choice (log entry 1). -/
def Obligations.TimeWordAdvances : Prop :=
  ∀ s : State, s.pending = [] → s.leaf.timeDead = false → s.tick.crown.stray = false → ∃ t, step s = .next t ∧
    (t.leaf.time.word : Int) = s.leaf.time.word + 2 ^ 48 +
      sgn 40 (s.leaf.toNode.g (TIME_RATE_HI_RATE_HI s.leaf.toNode.tb) * 2 ^ 32 + s.leaf.toNode.g (TIME_RATE_LO_RATE_LO s.leaf.toNode.tb))

/-- R33: a read of NOW0 latches the whole time word for its privilege level, and NOW1 to NOW3 then read the rest of that word at that level; the latch
of every other level, the time word and the registers stay. -/
def Obligations.TimeLatched : Prop :=
  ∀ (s : State) (w : LeafSel) (priv : Nat), ∃ t, exec (.timeNowCapture w.block priv) s = .next t ∧
    (∀ i, 1 ≤ i ∧ i ≤ 3 → (t.leafOf w).toNode.timeView ((t.leafOf w).toNode.tb + 4 * i) priv = some (timeWord (s.leafOf w).toNode.now i)) ∧
    (∀ p, p ≠ priv → (t.leafOf w).time.latch.get (fun _ => 0) p = (s.leafOf w).time.latch.get (fun _ => 0) p) ∧
    (t.leafOf w).time.word = (s.leafOf w).time.word ∧ (t.leafOf w).regs = (s.leafOf w).regs

/-- R53: a capture FIFO holds 16 entries. An edge that finds it full is dropped and sets OVF; one that does not is stored behind the others; a read of
W3 removes the head. -/
def Obligations.CaptureFifo : Prop :=
  (∀ (s : State) (w : LeafSel) (i : Nat), ∃ t, exec (.capturePop w.block i) s = .next t ∧
    (t.leafOf w).toNode.capFifo i = ((s.leafOf w).toNode.capFifo i).drop 1 ∧
    (∀ j, j ≠ i → (t.leafOf w).toNode.capFifo j = (s.leafOf w).toNode.capFifo j) ∧ (t.leafOf w).regs = (s.leafOf w).regs) ∧
  (∀ (s : State) (w : LeafSel) (i : Nat) (lv : Bool), i < 8 → (s.leafOf w).timeDead = false →
    bitOf ((s.leafOf w).toNode.g (TIME_CAP_CTRL_EN (s.leafOf w).toNode.tb)) i = true →
    (s.leafOf w).time.level.get (fun _ => none) i = some (!lv) →
    bitOf ((s.leafOf w).toNode.g (TIME_CAP_CTRL_FALL (s.leafOf w).toNode.tb)) i = !lv →
    ∃ t, exec (.captureEdge w.block i lv) s = .next t ∧
      (if ((s.leafOf w).toNode.capFifo i).length < 16
        then ∃ e, (t.leafOf w).toNode.capFifo i = (s.leafOf w).toNode.capFifo i ++ [e]
        else (t.leafOf w).toNode.capFifo i = (s.leafOf w).toNode.capFifo i ∧
          bitOf ((t.leafOf w).toNode.g (TIME_CAP_STAT_OVF (t.leafOf w).toNode.tb)) i = true))

/-- R51: in SOLO role, before the step, TIME_SET_GO makes the SET registers the time word; in another role, or after the step, it has no effect. -/
def Obligations.SoloTimeSet : Prop :=
  ∀ s : State, s.crown.timeDead = false → s.crown.red.waiting = [] →
    (s.crown.role ≠ 0 ∨ s.crown.toNode.stepped = true → exec .timeSetGo s = .next s) ∧
    (s.crown.role = 0 → s.crown.toNode.stepped = false → ∃ t, exec .timeSetGo s = .next t ∧
      t.crown.toNode.now = ((s.crown.g (BZ_TIME_SETw_WORD 3) * 2 ^ 32 + s.crown.g (BZ_TIME_SETw_WORD 2)) * nsPerSec + s.crown.g (BZ_TIME_SETw_WORD 1)) * fracPerNs +
        s.crown.g (BZ_TIME_SETw_WORD 0))

/-! ### Twigs and counters -/

/-- R63, R86, R482: a Twig held in reset counts nothing, and while L-SAP runs its cycle changes nothing. Out of reset, a counter of class CYCLES that no
write restarts adds 1 in every cycle and wraps from 2^48 − 1 to 0 with WRAP set. -/
def Obligations.CyclesCounter : Prop :=
  (∀ (s : State) (w : LeafSel) (t : Nat) (inp : TwigIn), (s.leafOf w).sapHeld = false → ((s.leafOf w).twig t).inReset = true →
    exec (.twigHostCycle w t inp) s = .next (s.onLeaf w (·.setTwig t ((s.leafOf w).twig t)))) ∧
  (∀ (s : State) (w : LeafSel) (t c : Nat) (inp : TwigIn), (s.leafOf w).sapHeld = false → ((s.leafOf w).twig t).inReset = false →
    ((s.leafOf w).twig t).starts = [] → c < 16 → bitsOf (((s.leafOf w).twig t).raw (16 + c)) 27 25 = 0 →
    ∃ u, exec (.twigHostCycle w t inp) s = .next u ∧
      (((u.leafOf w).twig t).counter c).value = ((((s.leafOf w).twig t).counter c).value + 1) % 2 ^ 48 ∧
      (((u.leafOf w).twig t).counter c).wrap = ((((s.leafOf w).twig t).counter c).wrap || decide ((((s.leafOf w).twig t).counter c).value + 1 ≥ 2 ^ 48)) ∧
      (((u.leafOf w).twig t).counter c).epoch = (((s.leafOf w).twig t).counter c).epoch)

/-- R91: an indirect access that names an absent Twig or an undefined word ends at once with GO clear and DONE and ERR set; no Twig and no data register
changes. -/
def Obligations.AbsentTwigAccess : Prop :=
  ∀ (s : State) (w : LeafSel) (write : Bool) (t word : Nat), (s.leafOf w).sapHeld = false → (s.leafOf w).toNode.flag TZ_TWIG_CFG_ADDR_GO = false →
    (t % 256 ≥ (s.leafOf w).ntwig ∨ twigDefined (word % 64) = false) →
    ∃ u, exec (.twigCfgGo w write t word) s = .next u ∧ (u.leafOf w).toNode.flag TZ_TWIG_CFG_ADDR_GO = false ∧
      (u.leafOf w).toNode.flag TZ_TWIG_CFG_STAT_DONE = true ∧ (u.leafOf w).toNode.flag TZ_TWIG_CFG_STAT_ERR = true ∧
      (u.leafOf w).toNode.g TZ_TWIG_CFG_DATA_DATA = (s.leafOf w).toNode.g TZ_TWIG_CFG_DATA_DATA ∧ (u.leafOf w).twigs = (s.leafOf w).twigs

/-- R89: the read of a counter's window answers VALUE[31:0] of its last reading and latches that reading for the privilege level alone; at a level that
WIN_PRIV refuses it answers 0 and latches nothing. -/
def Obligations.CounterWindow : Prop :=
  ∀ (s : State) (w : LeafSel) (i priv : Nat), (s.leafOf w).sapHeld = false →
    (bitOf ((s.leafOf w).toNode.g TZ_SAP_CTRL_WIN_PRIV) priv = false →
      exec (.counterWindowRead w i priv) s = .next (s.onLeaf w (·.emit (.response 0 0)))) ∧
    (bitOf ((s.leafOf w).toNode.g TZ_SAP_CTRL_WIN_PRIV) priv = true → i < 16 * (s.leafOf w).ntwig →
      ∃ u, exec (.counterWindowRead w i priv) s = .next u ∧
        (u.leafOf w).out = (s.leafOf w).out ++ [.response (BitVec.ofNat 32 (((s.leafOf w).reader.last.get (fun _ => Reading.none) i).value)) 0] ∧
        (u.leafOf w).reader.latch.get (fun _ => Reading.none) priv = (s.leafOf w).reader.last.get (fun _ => Reading.none) i ∧
        (∀ p, p ≠ priv → (u.leafOf w).reader.latch.get (fun _ => Reading.none) p = (s.leafOf w).reader.latch.get (fun _ => Reading.none) p) ∧
        (u.leafOf w).regs = (s.leafOf w).regs)

/-- R76: a marker from a privilege level whose PRIV bit is 0 is only counted. -/
def Obligations.MarkerRefused : Prop :=
  ∀ (s : State) (w : LeafSel) (n data priv mid : Nat), (s.leafOf w).sapHeld = false → bitOf ((s.leafOf w).toNode.g (TZ_MARKn_CTRL_PRIV n)) priv = false →
    exec (.marker w n data priv mid) s = .next (s.onLeaf w (·.count TZ_MARK_REJ_COUNT))

/-! ### Guards -/

/-- R99, R102: an injected trip or a fence clear from a level below LEVEL has no effect but its count in TZ_GRD_REJ; an injected trip of a unit that is
disabled or has tripped has none at all. -/
def Obligations.GuardPrivilege : Prop :=
  (∀ (s : State) (w : LeafSel) (go : Bool) (u priv : Nat), (s.leafOf w).guardDead = false → priv < (s.leafOf w).toNode.g TZ_GRD_PRIV_LEVEL →
    exec (.guardInject w go u priv) s = .next (s.onLeaf w (·.count TZ_GRD_REJ_COUNT))) ∧
  (∀ (s : State) (w : LeafSel) (mask priv : Nat), (s.leafOf w).guardDead = false → priv < (s.leafOf w).toNode.g TZ_GRD_PRIV_LEVEL →
    exec (.fenceClr w mask priv) s = .next (s.onLeaf w (·.count TZ_GRD_REJ_COUNT))) ∧
  (∀ (s : State) (w : LeafSel) (go : Bool) (u priv : Nat), (s.leafOf w).toNode.g TZ_GRD_PRIV_LEVEL ≤ priv →
    (((s.leafOf w).watch u).en = false ∨ (s.leafOf w).tripped u = true) → exec (.guardInject w go u priv) s = .next s)

/-- R110: a MARGIN command sets the crown re-plan target of the domain it names; no other domain's target changes. -/
def Obligations.MarginSetsTarget : Prop :=
  ∀ (s : State) (w : LeafSel) (d steps : Nat), (s.leafOf w).aonDead = false → d < 8 → ∃ t, exec (.margin w d steps) s = .next t ∧
    ((t.leafOf w).vfDom d).crown = steps % 256 ∧ ∀ e, e < 8 → e ≠ d → ((t.leafOf w).vfDom e).crown = ((s.leafOf w).vfDom e).crown

/-! ### Trace -/

/-- R130: a rise of trc_lp puts the core in low power; a fall takes it out, with a SYNC of REASON 3 due and CYC and NSEQ from 0. Neither changes another
core's state. -/
def Obligations.TraceLowPower : Prop :=
  (∀ (s : State) (core : Nat), s.leaf.trcDead core = false → ∃ t, exec (.lpEnter core) s = .next t ∧ (t.leaf.core core).lp = true ∧
    (∀ c, c ≠ core → t.leaf.core c = s.leaf.core c) ∧ t.leaf.heart = s.leaf.heart ∧ t.crown = s.crown) ∧
  (∀ (s : State) (core : Nat), s.leaf.trcDead core = false → (s.leaf.core core).lp = true → ∃ t, exec (.traceLpExit core) s = .next t ∧
    (t.leaf.core core).lp = false ∧ (t.leaf.core core).pend = some 3 ∧ (t.leaf.core core).cyc = 0 ∧ (t.leaf.core core).nseq = 0 ∧
    (∀ c, c ≠ core → t.leaf.core c = s.leaf.core c) ∧ t.leaf.heart = s.leaf.heart ∧ t.crown = s.crown)

/-! ### Packer, receiver and CRC units -/

/-- R160: by every POLY and of every byte string, the model's CRC is the one that the parameters of Table 6.10 define, and that of "123456789" is the
check value. The same CRC-16 checks a time-of-day message, and CRC-32C checks FCHK and RAW_CRC. -/
def Obligations.CrcByTable : Prop :=
  (∀ (poly : Nat) (l : List Byte), poly < 4 → crcOf poly l = (crcRow poly).of l) ∧
  (∀ poly : Nat, poly < 4 → crcOf poly [0x31, 0x32, 0x33, 0x34, 0x35, 0x36, 0x37, 0x38, 0x39] = (crcRow poly).check) ∧
  (∀ (n : Node) (l : List Byte), (crcRow 0).of (slice l 2 14) ≠ field l 16 2 → (n.takeTod l).time.tod = none) ∧
  (∀ l : List Byte, fchkGood l = true → (crcRow 2).of (l.take (24 + field l 2 2)) = field l (24 + field l 2 2) 4) ∧
  (∀ (l raw : List Byte) (n : Nat), riceDecode l n = some raw → (crcRow 2).of raw = field l 4 4)

/-- R161: after START and any number of DATA writes, a CRC unit shows the CRC, by the POLY sampled at START, of every byte fed since: NBYTES of each word,
lowest first, where 0 or above 4 acts as 4. The other units, the Twigs, Heartwood and the crown are as before. -/
def Obligations.CrcOfEveryByte : Prop :=
  ∀ (s : State) (w : LeafSel) (u : Nat) (vs : List Nat), (s.leafOf w).sapHeld = false → ∃ t,
    runAll (.start w u :: vs.map (.crcData w u)) s = .next t ∧
    (t.leafOf w).crcResult u = crcOf ((s.leafOf w).toNode.g (TZ_CRCu_CTRL_POLY u))
      (vs.flatMap (le (let nb := (s.leafOf w).toNode.g (TZ_CRCu_CTRL_NBYTES u); if nb = 0 ∨ nb > 4 then 4 else nb))) ∧
    (∀ x, x ≠ u → (t.leafOf w).crcUnit x = (s.leafOf w).crcUnit x) ∧ (t.leafOf w).twigs = (s.leafOf w).twigs ∧ (t.leafOf w).heart = (s.leafOf w).heart

/-- R157: LEVEL of a weighted queue of a leaf rises by one exactly where FILL is at or above three quarters of QSIZE, a millisecond has passed since its
last change and it is below 7; otherwise, and for a strict queue, nothing changes. -/
def Obligations.LevelRises : Prop :=
  ∀ (s : State) (w : LeafSel) (lane cls : Nat), (s.leafOf w).sapHeld = false → (s.leafOf w).crown = false → cls < 8 →
    (if 3 ≤ cls ∧ 3 * (s.leafOf w).toNode.qSize cls ≤ 4 * ((s.leafOf w).toNode.q cls).fill ∧
        ((s.leafOf w).toNode.q cls).levelAt + 1000000 ≤ (s.leafOf w).ns ∧ ((s.leafOf w).toNode.q cls).level < 7
      then ∃ t, exec (.levelRise w.block lane cls) s = .next t ∧ ((t.leafOf w).toNode.q cls).level = ((s.leafOf w).toNode.q cls).level + 1 ∧
        (∀ k, k ≠ cls → (t.leafOf w).toNode.q k = (s.leafOf w).toNode.q k) ∧ (t.leafOf w).regs = (s.leafOf w).regs
      else exec (.levelRise w.block lane cls) s = .next s)

/-- R148: a frame whose FCHK does not match is discarded: the leaf counts it in CRCBAD and does nothing else. -/
def Obligations.BadFrameDiscarded : Prop :=
  ∀ (s : State) (w : LeafSel) (lane : Nat) (bytes : List Byte), (s.leafOf w).sapHeld = false → fchkGood bytes = false →
    exec (.frameReceive w.block lane bytes) s = .next (s.onLeaf w (·.count ((s.leafOf w).toNode.rxCounts lane).crcbad))

/-! ### Ring log -/

/-- R177: a CLEAR whose PCC does not match, or whose HIGH_SEQ is at or above HEAD, leaves the leaf's ring as it is and is counted in TZ_RLOG_CLR_REJ.
(The model draws NOT_AFTER, which the command does not carry, before it judges: log entry 64.) -/
def Obligations.ClearRefused : Prop :=
  ∀ (s : State) (w : LeafSel) (high pcc nonce : Nat) (digest : List Byte), (s.leafOf w).sapHeld = false →
    (pcc ≠ (s.leafOf w).ring.pcc ∨ (s.leafOf w).ring.head ≤ high) →
    ∃ t, exec (.rlogClear w.block high pcc nonce digest) s = .next t ∧ (t.leafOf w).ring = (s.leafOf w).ring ∧
      (t.leafOf w).toNode.g TZ_RLOG_CLR_REJ_COUNT = satAdd 32 ((s.leafOf w).toNode.g TZ_RLOG_CLR_REJ_COUNT) 1 ∧
      (t.leafOf w).heart = (s.leafOf w).heart ∧ (t.leafOf w).out = (s.leafOf w).out

/-! ### Lanes -/

/-- R203: a write of 0 to EN of a leaf's lane leaves it OFF and silent. -/
def Obligations.LaneSilenced : Prop :=
  ∀ (s : State) (w : LeafSel) (k : Nat), (s.leafOf w).laneDead k = false → k < 2 → ∃ t, exec (.laneEnWrite w.block k false) s = .next t ∧
    (t.leafOf w).toNode.laneState k = 0 ∧ (t.leafOf w).toNode.up k = false ∧ (t.leafOf w).toNode.flag (BK_CTRL_EN ((t.leafOf w).toNode.lb k)) = false

/-! ### Traffic -/

/-- R233: GO for a take-over less than 10 µs ahead, or with LEN outside 1 to 256, sets ERR and leaves everything else unchanged, where no take-over of the
lane has fallen due. -/
def Obligations.GateGoRefused : Prop :=
  ∀ (s : State) (l : Nat), (s.crown.gates l).pend = none →
    (s.crown.takeTime l < s.crown.toNode.now + usTime 10 ∨ s.crown.g (BZ_SCHl_GATE_CTRL_LEN l) = 0 ∨ 256 < s.crown.g (BZ_SCHl_GATE_CTRL_LEN l)) →
    exec (.go l) s = .next { s with crown := s.crown.s (BZ_SCHl_GATE_CTRL_ERR l) 1 }

/-! ### Crown engine -/

/-- R244: the cases in which the engine refuses REMAP and RETIRE, each with its ECODE, and nothing but ERR and ECODE changed. Where several hold, BUSY comes
first, then PHYS: the model's choice (log entry 120). -/
def Obligations.MapCommandRefused : Prop :=
  ∀ (s : State) (q l p : Nat), s.crown.stray = false →
    let refused := fun e => Host.Outcome.next { s with crown := (s.crown.s BZ_CMAP_STAT_ERR 1).s BZ_CMAP_STAT_ECODE e }
    (s.crown.flag BZ_CMAP_STAT_BUSY = true → exec (.remap q l p) s = refused 5 ∧ exec (.retire q ⟨l, p⟩) s = refused 5) ∧
    (s.crown.flag BZ_CMAP_STAT_BUSY = false →
      (143 < p → exec (.remap q l p) s = refused 4 ∧ exec (.retire q ⟨l, p⟩) s = refused 4) ∧
      (p ≤ 143 → s.crown.cellBad q p = true → exec (.remap q l p) s = refused 1) ∧
      (∀ x, p ≤ 143 → s.crown.cellBad q p = false → s.crown.cellUser q p = some x → x ≠ l → exec (.remap q l p) s = refused 2) ∧
      (p ≤ 143 → s.crown.cellValid q l = false → exec (.retire q ⟨l, p⟩) s = refused 3))

/-- R244: with no job on the cell and no map command running, REMAP of a cell to a good, unused physical cell maps it there and sets BUSY. -/
def Obligations.RemapMaps : Prop :=
  ∀ (s : State) (q l p : Nat), s.crown.stray = false → q < 4 → l < 128 → p < 144 → s.crown.flag BZ_CMAP_STAT_BUSY = false → s.crown.cellBad q p = false →
    (s.crown.cellUser q p = none ∨ s.crown.cellUser q p = some l) → s.crown.holders (128 * q + l) = [] →
    ∃ t, exec (.remap q l p) s = .next t ∧ t.crown.cellValid q l = true ∧ t.crown.g (BZ_CMAPq_l_PHYS q l) = p ∧ t.crown.flag BZ_CMAP_STAT_BUSY = true ∧
      t.crown.hbm = s.crown.hbm ∧ t.leaf = s.leaf

/-! ### Trees, drift, audit, placement -/

/-- R286: UNLOAD of a slot that is not FREE and has no job running on it leaves the slot FREE with its pipelines unassigned. -/
def Obligations.UnloadFreesSlot : Prop :=
  ∀ (s : State) (e : Nat), e < 16 → s.crown.ensInUse e = false → ∃ t, exec (.unload e) s = .next t ∧ t.crown.ensState e = 0 ∧
    (s.crown.ensState e ≠ 0 → t.crown.tree.ens.get (fun _ => none) e = none) ∧ t.crown.hbm = s.crown.hbm ∧ t.leaf = s.leaf

/-- R315: RESET_RUNS of a plan slot sets every run of the plan to 0, on and off, and changes no other plan and nothing else of the crown. -/
def Obligations.RunsReset : Prop :=
  ∀ (s : State) (slot : Nat) (p : WinPlan), s.crown.winPlan slot = some p → ∃ p', 
    exec (.resetRuns slot) s = .next { s with crown := s.crown.setWin slot p' } ∧
    p'.series.length = p.series.length ∧ (∀ x ∈ p'.series, x.run.on = 0 ∧ x.run.off = 0) ∧ (∀ g ∈ p'.groups, g.run.on = 0 ∧ g.run.off = 0)

/-- R324, R327: LOCK sets LOCK; while it is set, a further LOCK changes nothing. CONFIG copies its threshold and seed whether or not LOCK is set. -/
def Obligations.AuditLock : Prop :=
  (∀ s : State, s.leaf.aonDead = false → s.leaf.toNode.flag TZ_AUD_CTRL_LOCK = true → exec .lock s = .next s) ∧
  (∀ s : State, s.leaf.aonDead = false → ∃ t, exec .lock s = .next t ∧ t.leaf.toNode.flag TZ_AUD_CTRL_LOCK = true ∧ t.crown = s.crown ∧
    t.leaf.heart = s.leaf.heart) ∧
  (∀ (s : State) (thresh seed : Nat), s.leaf.aonDead = false → ∃ t, exec (.config thresh seed) s = .next t ∧
    t.leaf.toNode.g TZ_AUD_THRESH_THRESH = thresh % 2 ^ 32 ∧ t.leaf.tap.seed = seed % 2 ^ 64 ∧
    t.leaf.toNode.flag TZ_AUD_CTRL_LOCK = s.leaf.toNode.flag TZ_AUD_CTRL_LOCK ∧ t.crown = s.crown ∧ t.leaf.heart = s.leaf.heart)

/-- R335: CLEAR of an engine that is not FENCED has no effect. -/
def Obligations.ClearNeedsFenced : Prop :=
  ∀ (s : State) (port engine : Nat), (s.crown.audEng port engine).state ≠ 3 → exec (.engClear port engine) s = .next s

/-- R368: in basic mode Grove refuses every port command with ECODE 3; a port the topology map does not name gives ECODE 1; HOLD or FAIL of a port that is
not LOGICAL, and REINSTATE of one that is not RETIRED, give ECODE 2; a refused command changes nothing but ERR and ECODE. -/
def Obligations.PortCommandRefused : Prop :=
  ∀ (s : State) (p : Nat), s.crown.stray = false →
    let known := (topoPort s.crown.image s.crown.node p).kind = 1 ∨ (topoPort s.crown.image s.crown.node p).kind = 2
    let refused := fun e => Host.Outcome.next { s with crown := (s.crown.s BZ_GRV_STAT_ERR 1).s BZ_GRV_STAT_ECODE e }
    (∀ c ∈ [Instr.hold p, .unhold p, .fail p, .reinstate p], (s.crown.basic = true → exec c s = refused 3) ∧
      (s.crown.basic = false → ¬ known → exec c s = refused 1)) ∧
    (∀ c ∈ [Instr.hold p, .fail p], s.crown.basic = false → known → (s.crown.die p).pstate ≠ 0 → exec c s = refused 2) ∧
    (s.crown.basic = false → known → (s.crown.die p).pstate ≠ 2 → exec (.reinstate p) s = refused 2)

/-! ### Heartwood -/

/-- R388, R392: a tamper event in SEALED burns one TAMPER fuse at once and sets BROKEN; in another state it burns none. Either way an EVENT of EVT TAMPER with
its code stands in the store or waits for room there, and no other fuse, nothing of metering's totals and nothing of the crown changes. -/
def Obligations.TamperEvent : Prop :=
  ∀ (s : State) (code : Nat), s.leaf.heart.up = true → ∃ t, exec (.tamper code) s = .next t ∧
    (if s.leaf.heart.sealed = 1 ∧ s.leaf.heart.tamperCnt < 32
      then t.leaf.heart.tamperCnt = s.leaf.heart.tamperCnt + 1 ∧ t.leaf.heart.sealed = 2 ∧ t.leaf.heart.brokenSpan = true
      else t.leaf.heart.tamperCnt = s.leaf.heart.tamperCnt ∧ t.leaf.heart.sealed = s.leaf.heart.sealed) ∧
    (∃ e : HeartEvent, e.evt = 5 ∧ e.code = code ∧ (e ∈ t.leaf.heart.waiting ∨ ∃ q, ⟨q, 3, e.bytes q⟩ ∈ t.leaf.heart.store)) ∧
    t.leaf.heart.sealCnt = s.leaf.heart.sealCnt ∧ t.leaf.heart.unsealCnt = s.leaf.heart.unsealCnt ∧ t.leaf.heart.clearCnt = s.leaf.heart.clearCnt ∧
    t.leaf.heart.totals = s.leaf.heart.totals ∧ t.leaf.heart.accounts = s.leaf.heart.accounts ∧ t.crown = s.crown

/-- R379: a power pair adds V × I × min(Δc, GAP_MAX) × CAL_PE to the energy of its sub-interval; the first after a reset adds nothing. -/
def Obligations.PowerPairEnergy : Prop :=
  ∀ (s : State) (v i : Nat), s.leaf.heart.up = true → ∃ t, exec (.powerSample v i) s = .next t ∧ t.leaf.heart.pairAt = some s.leaf.hwd ∧
    t.leaf.heart.energy = s.leaf.heart.energy + (match s.leaf.heart.pairAt with
      | none => 0
      | some p => v * i * min (s.leaf.hwd - p) (s.leaf.toNode.g HW_GAP_GAP_MAX) * s.leaf.toNode.g HW_CAL_PE_CAL_PE) ∧
    t.leaf.heart.accounts = s.leaf.heart.accounts ∧ t.leaf.toNode = s.leaf.toNode ∧ t.crown = s.crown

/-- R375, R387: at every step from every state, Heartwood's counts stay within their 32 fuses and 8 slots, and its seal state stays one of the three. -/
def Obligations.FusesWithinOtp : Prop :=
  stepKeeps (fun s => s.leaf.heart.sealCnt ≤ 32 ∧ s.leaf.heart.unsealCnt ≤ 32 ∧ s.leaf.heart.tamperCnt ≤ 32 ∧ s.leaf.heart.clearCnt ≤ 32 ∧
    s.leaf.heart.slots.length ≤ 8 ∧ s.leaf.heart.sealed ≤ 2)

/-- The reset state meets the invariant of FusesWithinOtp. The OTP's first contents are the model's choice (log entry 23). -/
def Obligations.ResetFusesWithinOtp : Prop :=
  let h := State.reset.leaf.heart
  h.sealCnt ≤ 32 ∧ h.unsealCnt ≤ 32 ∧ h.tamperCnt ≤ 32 ∧ h.clearCnt ≤ 32 ∧ h.slots.length ≤ 8 ∧ h.sealed ≤ 2

/-- R387, R390: no step, and so no command and no reset, takes a fuse of Heartwood back or removes a configuration slot. -/
def Obligations.FusesNeverUnburn : Prop :=
  ∀ s t : State, step s = .next t → s.leaf.heart.sealCnt ≤ t.leaf.heart.sealCnt ∧ s.leaf.heart.unsealCnt ≤ t.leaf.heart.unsealCnt ∧
    s.leaf.heart.tamperCnt ≤ t.leaf.heart.tamperCnt ∧ s.leaf.heart.clearCnt ≤ t.leaf.heart.clearCnt ∧
    ∃ more, t.leaf.heart.slots = s.leaf.heart.slots ++ more

/-! ### Bring-up, modes and the host -/

/-- R411: ASSIGN of a node word sets VALID and the address; of NONE it clears VALID; either way SEED_GEN is the one sent. -/
def Obligations.AssignSetsNode : Prop :=
  ∀ (s : State) (w : LeafSel) (node gen : Nat), (s.leafOf w).sapHeld = false → ∃ t, exec (.assign w.block node gen) s = .next t ∧
    (t.leafOf w).boot.seedGen = gen ∧
    (if node = nodeNone then (t.leafOf w).toNode.flag TZ_NODE_VALID = false
      else (t.leafOf w).toNode.flag TZ_NODE_VALID = true ∧ (t.leafOf w).toNode.g TZ_NODE_ADDR = node % 2 ^ 18) ∧
    (t.leafOf w).heart = (s.leafOf w).heart ∧ (t.leafOf w).twigs = (s.leafOf w).twigs

/-- R422: an ARM less than 50 µs ahead, before the step, or beyond four armed jobs is not held; any other is held once, without a GO, with its time and
payload. The jobs already armed and the start FIFO stay. -/
def Obligations.JobArmed : Prop :=
  ∀ (s : State) (w : LeafSel) (body : List Byte), (s.leafOf w).sapHeld = false → ∃ t, exec (.jobArm w.block body) s = .next t ∧
    (t.leafOf w).boot.fifo = (s.leafOf w).boot.fifo ∧
    (t.leafOf w).boot.armed = (if (s.leafOf w).toNode.now + 50000 * fracPerNs ≤ twOf (slice body 7 16) ∧ (s.leafOf w).toNode.stepped = true ∧
        (s.leafOf w).boot.armed.length < 4
      then (s.leafOf w).boot.armed ++ [⟨field body 3 4, twOf (slice body 7 16), field body 23 4, (slice body 35 16 ++ zeros 16).take 16, false⟩]
      else (s.leafOf w).boot.armed)

/-- R423: at the time of a single armed job with its GO, the leaf starts it: the ARM is gone, PEND is set, and the job stands last in the start FIFO, or OVR
is set where the FIFO held four. Without the GO it is dropped and the FIFO stays. -/
def Obligations.JobStarts : Prop :=
  ∀ (s : State) (w : LeafSel) (a : Armed), (s.leafOf w).timeDead = false → (s.leafOf w).boot.armed = [a] → a.tgo ≤ (s.leafOf w).toNode.now →
    ∃ t, exec (.jobTGo w) s = .next t ∧ (t.leafOf w).boot.armed = [] ∧
    (a.go = false → (t.leafOf w).boot.fifo = (s.leafOf w).boot.fifo) ∧
    (a.go = true → (t.leafOf w).toNode.flag TZ_JOB_STAT_PEND = true ∧
      (if (s.leafOf w).boot.fifo.length < 4
        then (t.leafOf w).boot.fifo = (s.leafOf w).boot.fifo ++ [⟨a.job, a.payload, (s.leafOf w).toNode.now⟩]
        else (t.leafOf w).boot.fifo = (s.leafOf w).boot.fifo ∧ (t.leafOf w).toNode.flag TZ_JOB_STAT_OVR = true))

/-- R423: JOB_GO marks the armed jobs of its number whose T_GO lies ahead and no other; JOB_CANCEL removes those of its number and no other. Nothing else of
the leaf changes. -/
def Obligations.JobGoAndCancel : Prop :=
  (∀ (s : State) (w : LeafSel) (body : List Byte), (s.leafOf w).sapHeld = false → exec (.jobGo w.block body) s = .next (s.onLeaf w (fun l =>
    { l with boot := { l.boot with armed := l.boot.armed.map (fun a => { a with go := a.go || (a.job == field body 3 4 && decide (l.toNode.now < a.tgo)) }) } }))) ∧
  (∀ (s : State) (w : LeafSel) (body : List Byte), (s.leafOf w).sapHeld = false → exec (.jobCancel w.block body) s = .next (s.onLeaf w (fun l =>
    { l with boot := { l.boot with armed := l.boot.armed.filter (fun a => a.job != field body 3 4) } })))

/-- R430: EXIT clears causes 4 and 5 of basic mode and no other, where what it starts again accesses no HBM address that does not exist (R256). -/
def Obligations.ExitClearsTwoCauses : Prop :=
  ∀ s : State, s.crown.modeExit.stray = false → ∃ t, exec .modeExit s = .next t ∧ ∀ i, bitOf t.crown.bring.modes.causes i = (bitOf s.crown.bring.modes.causes i && decide (i ≠ 4 ∧ i ≠ 5))

/-- R490: only 0x0000_4B1C from the management core restarts the watchdog's count; any other value or master changes nothing. -/
def Obligations.WatchdogKick : Prop :=
  ∀ (s : State) (v mid : Nat), s.crown.stray = false → s.crown.live 17 = true → s.crown.regHeld BZ_WDOG_KICK = false → mid ≠ 1 → mid < 0x40 →
    exec (.wdogKick v mid) s = .next { s with crown := if v = 0x4B1C ∧ mid = 0 then s.crown.onHost (fun h => { h with wdogAt := s.crown.ns }) else s.crown }

/-- R489: in SOLO role, with no load under way, GO while a controller is not READY gives RESULT 1 and changes nothing else; in another role, or while BUSY, it
has no effect (log entry 124). -/
def Obligations.LoaderRefuses : Prop :=
  ∀ s : State, s.crown.stray = false →
    ((s.crown.role ≠ 0 ∨ s.crown.flag BZ_FW_LOAD_CTRL_BUSY = true) → exec .fwLoadGo s = .next s) ∧
    (s.crown.role = 0 → s.crown.flag BZ_FW_LOAD_CTRL_BUSY = false → s.crown.hbmReady = false →
      exec .fwLoadGo s = .next { s with crown := s.crown.s BZ_FW_LOAD_CTRL_RESULT 1 })

/-! ### The whole block -/

/-- R256: a command that would make the crown access an HBM address that does not exist stops with the fault `hbmAddress`; no other command faults, and none
is refused. -/
def Obligations.OnlyHbmFaults : Prop :=
  (∀ (s : State) (c : Instr) (f : Fault), exec c s = .fault f → f = .hbmAddress) ∧ (∀ (s : State) (c : Instr) (r : Refusal), exec c s ≠ .refused r)

/-- A queue of mailbox, tamper and metering commands of a die's Heartwood drains to the end, leaves the crown as it is, and takes the leaf where it takes it
whatever the crown is: neither learns of the other (R27, R373). -/
def Obligations.HeartwoodIsolated : Prop :=
  ∀ (s : State) (q : List Instr) (c' : Crown),
    (∀ c ∈ q, (∃ v i, c = .powerSample v i) ∨ c = .subintervalEnd ∨ c = .hwIntervalEnd ∨ (∃ k, c = .tamper k) ∨ (∃ x, c = .oscFault x) ∨ c = .getId ∨
      (∃ n, c = .attest n) ∨ (∃ n m b, c = .setConfig n m b) ∨ (∃ n b, c = .heartSeal n b) ∨ (∃ n b, c = .heartUnseal n b) ∨ (∃ n b, c = .clearTamper n b)) →
    ∃ t, Sys2Proof.core.run q.length { s with pending := q } = .next t ∧ t.pending = [] ∧ t.crown = s.crown ∧
      ∃ t', Sys2Proof.core.run q.length { s with pending := q, crown := c' } = .next t' ∧ t'.leaf = t.leaf

/-- The state after reset: nothing waits, HBM lists nothing, no step has been taken, so every stamp carries PRE_STEP, no lane is in service, and every crown
domain from 2 to 17 is held in reset (R43, R207, R484). -/
def Obligations.AfterReset : Prop :=
  State.reset.pending = [] ∧ State.reset.crown.hbm = [] ∧ State.reset.leaf.toNode.qual = .preStep ∧ State.reset.crown.toNode.qual = .preStep ∧
    State.reset.leaf.toNode.up 0 = false ∧ State.reset.leaf.toNode.up 1 = false ∧ (∀ d, 2 ≤ d ∧ d ≤ 17 → State.reset.crown.inReset d = true) ∧
    State.reset.leaf.heart.up = false ∧ State.reset.crown.toNode.g BZ_GPIO_OE_OE = 0 ∧ State.reset.crown.toNode.g BZ_GPIO_OUT_OUT = 0
end

