-- ==== Sys2Proof/Laws/Tab.lean ====
section
/-! SUPPORT. Laws of the tables by number: what a read after a write gives, and that a write keeps the canonical form. -/

namespace Sys2Proof.Machine

theorem Tab.get_nil {α : Type} (d : Nat → α) (n : Nat) : Tab.get d [] n = d n := rfl

theorem Tab.get_drop_self {α : Type} (d : Nat → α) (t : Tab α) (n : Nat) : Tab.get d (Tab.drop t n) n = d n := by
  induction t with
  | nil => rfl
  | cons e r ih =>
    by_cases h : e.1 = n
    · simp_all [Tab.drop]
    · simp_all [Tab.drop, Tab.get, Ne.symm h]

theorem Tab.get_drop_ne {α : Type} (d : Nat → α) (t : Tab α) {n m : Nat} (h : m ≠ n) : Tab.get d (Tab.drop t n) m = Tab.get d t m := by
  induction t with
  | nil => rfl
  | cons e r ih =>
    by_cases k : e.1 = n
    · have : ¬ m = e.1 := by omega
      simp_all [Tab.drop, Tab.get]
    · simp_all [Tab.drop, Tab.get]

theorem Tab.get_ins_self {α : Type} (d : Nat → α) (t : Tab α) (n : Nat) (v : α) (h : ∀ e ∈ t, e.1 ≠ n) : Tab.get d (Tab.ins n v t) n = v := by
  induction t with
  | nil => simp [Tab.ins, Tab.get]
  | cons e r ih =>
    have h1 : ¬ n = e.1 := fun k => h e (by simp) k.symm
    by_cases k : n < e.1
    · simp [Tab.ins, Tab.get, k]
    · simp [Tab.ins, Tab.get, k, h1, ih (fun e he => h e (by simp [he]))]

theorem Tab.get_ins_ne {α : Type} (d : Nat → α) (t : Tab α) {n m : Nat} (v : α) (h : m ≠ n) : Tab.get d (Tab.ins n v t) m = Tab.get d t m := by
  induction t with
  | nil => simp [Tab.ins, Tab.get, h]
  | cons e r ih =>
    by_cases k : n < e.1
    · simp [Tab.ins, Tab.get, k, h]
    · by_cases j : m = e.1
      · simp [Tab.ins, Tab.get, k, j]
      · simp [Tab.ins, Tab.get, k, j, ih]

theorem Tab.ne_of_mem_drop {α : Type} {t : Tab α} {n : Nat} {e : Nat × α} (h : e ∈ Tab.drop t n) : e.1 ≠ n := by
  simp only [Tab.drop, List.mem_filter] at h
  simpa using h.2

/-- A read of what was just written. -/
theorem Tab.get_set_self {α : Type} [DecidableEq α] (d : Nat → α) (t : Tab α) (n : Nat) (v : α) : Tab.get d (Tab.set d t n v) n = v := by
  unfold Tab.set
  split
  · rename_i h; rw [Tab.get_drop_self, h]
  · exact Tab.get_ins_self d _ n v (fun _ => Tab.ne_of_mem_drop)

/-- A write leaves every other number alone. -/
theorem Tab.get_set_ne {α : Type} [DecidableEq α] (d : Nat → α) (t : Tab α) {n m : Nat} (v : α) (h : m ≠ n) :
    Tab.get d (Tab.set d t n v) m = Tab.get d t m := by
  unfold Tab.set
  split
  · exact Tab.get_drop_ne d t h
  · rw [Tab.get_ins_ne d _ v h, Tab.get_drop_ne d t h]

/-- Both cases of a read after a write. -/
theorem Tab.get_set {α : Type} [DecidableEq α] (d : Nat → α) (t : Tab α) (n m : Nat) (v : α) :
    Tab.get d (Tab.set d t n v) m = if m = n then v else Tab.get d t m := by
  split
  · rename_i h; rw [h, Tab.get_set_self]
  · rename_i h; exact Tab.get_set_ne d t v h

/-! ### The canonical form -/

theorem Tab.wf_iff {α : Type} [DecidableEq α] (d : Nat → α) (t : Tab α) :
    Tab.wf d t = true ↔ t.Pairwise (fun a b => a.1 < b.1) ∧ ∀ e ∈ t, e.2 ≠ d e.1 := by
  simp [Tab.wf]

theorem Tab.mem_ins {α : Type} {t : Tab α} {n : Nat} {v : α} {e : Nat × α} (h : e ∈ Tab.ins n v t) : e = (n, v) ∨ e ∈ t := by
  induction t with
  | nil => simpa [Tab.ins] using h
  | cons x r ih =>
    simp only [Tab.ins] at h
    split at h
    · simpa using h
    · rcases List.mem_cons.1 h with h | h
      · exact .inr (by simp [h])
      · rcases ih h with h | h
        · exact .inl h
        · exact .inr (by simp [h])

theorem Tab.pairwise_ins {α : Type} {t : Tab α} {n : Nat} (v : α) (h : t.Pairwise (fun a b => a.1 < b.1)) (hn : ∀ e ∈ t, e.1 ≠ n) :
    (Tab.ins n v t).Pairwise (fun a b => a.1 < b.1) := by
  induction t with
  | nil => simp [Tab.ins]
  | cons x r ih =>
    rw [List.pairwise_cons] at h
    simp only [Tab.ins]
    split
    · rename_i k
      refine List.pairwise_cons.2 ⟨fun e he => ?_, List.pairwise_cons.2 h⟩
      rcases List.mem_cons.1 he with he | he
      · simpa [he] using k
      · exact lt_trans k (h.1 e he)
    · rename_i k
      have hx : x.1 ≠ n := hn x (by simp)
      refine List.pairwise_cons.2 ⟨fun e he => ?_, ih h.2 (fun e he => hn e (by simp [he]))⟩
      rcases Tab.mem_ins he with he | he
      · simp only [he]; omega
      · exact h.1 e he

/-- A write keeps the canonical form. -/
theorem Tab.wf_set {α : Type} [DecidableEq α] (d : Nat → α) (t : Tab α) (n : Nat) (v : α) (h : Tab.wf d t = true) : Tab.wf d (Tab.set d t n v) = true := by
  rw [Tab.wf_iff] at *
  have hd : (Tab.drop t n).Pairwise (fun a b => a.1 < b.1) := h.1.filter _
  have hv : ∀ e ∈ Tab.drop t n, e.2 ≠ d e.1 := fun e he => h.2 e (List.mem_of_mem_filter he)
  unfold Tab.set
  split
  · exact ⟨hd, hv⟩
  · rename_i hne
    refine ⟨Tab.pairwise_ins v hd (fun _ => Tab.ne_of_mem_drop), fun e he => ?_⟩
    rcases Tab.mem_ins he with he | he
    · simpa [he] using hne
    · exact hv e he

end Sys2Proof.Machine
end

