-- ==== Sys2Proof/Laws/Fields.lean ====
section
/-! SUPPORT. Bit fields and the registers of a node: what a field reads after a write of it, of another field, or of another register. -/

namespace Sys2Proof.Machine

theorem bitsOf_lt (x hi lo : Nat) : bitsOf x hi lo < 2 ^ (hi + 1 - lo) := Nat.mod_lt _ (Nat.two_pow_pos _)

theorem bitsOf_le (x hi lo : Nat) : bitsOf x hi lo * 2 ^ lo ≤ x := by
  unfold bitsOf
  rw [Nat.shiftRight_eq_div_pow]
  exact (Nat.mul_le_mul_right _ (Nat.mod_le _ _)).trans (Nat.div_mul_le_self x _)

/-- The parts of a number above, in and below a field. -/
theorem bitsOf_split (x hi lo : Nat) :
    x = x >>> lo / 2 ^ (hi + 1 - lo) * 2 ^ (hi + 1 - lo) * 2 ^ lo + bitsOf x hi lo * 2 ^ lo + x % 2 ^ lo := by
  have h1 := Nat.div_add_mod x (2 ^ lo)
  have h2 := Nat.div_add_mod (x >>> lo) (2 ^ (hi + 1 - lo))
  unfold bitsOf
  rw [← Nat.shiftRight_eq_div_pow] at h1
  calc x = 2 ^ lo * (x >>> lo) + x % 2 ^ lo := h1.symm
    _ = 2 ^ lo * (2 ^ (hi + 1 - lo) * (x >>> lo / 2 ^ (hi + 1 - lo)) + x >>> lo % 2 ^ (hi + 1 - lo)) + x % 2 ^ lo := by rw [h2]
    _ = _ := by ring

/-- A number with a field replaced, by its parts. -/
theorem putBits_split (x hi lo v : Nat) :
    putBits x hi lo v = x >>> lo / 2 ^ (hi + 1 - lo) * 2 ^ (hi + 1 - lo) * 2 ^ lo + v % 2 ^ (hi + 1 - lo) * 2 ^ lo + x % 2 ^ lo := by
  have h := bitsOf_split x hi lo
  unfold putBits
  omega

/-- A field reads what was put there. -/
theorem bitsOf_putBits_self (x hi lo v : Nat) : bitsOf (putBits x hi lo v) hi lo = v % 2 ^ (hi + 1 - lo) := by
  have hp := Nat.two_pow_pos lo
  have h : putBits x hi lo v >>> lo = x >>> lo / 2 ^ (hi + 1 - lo) * 2 ^ (hi + 1 - lo) + v % 2 ^ (hi + 1 - lo) := by
    rw [putBits_split, Nat.shiftRight_eq_div_pow, ← Nat.add_mul, Nat.add_comm, Nat.add_mul_div_right _ _ hp, Nat.div_eq_of_lt (Nat.mod_lt _ hp), Nat.zero_add]
  show putBits x hi lo v >>> lo % _ = _
  rw [h, Nat.add_comm, Nat.add_mul_mod_self_right, Nat.mod_mod]

/-- A field below the one replaced reads as before. -/
theorem bitsOf_putBits_below (x hi lo v h2 l2 : Nat) (h : h2 < lo) (hl : l2 ≤ h2) : bitsOf (putBits x hi lo v) h2 l2 = bitsOf x h2 l2 := by
  have key : putBits x hi lo v % 2 ^ lo = x % 2 ^ lo := by
    rw [putBits_split, ← Nat.add_mul, Nat.add_comm, Nat.add_mul_mod_self_right, Nat.mod_mod]
  have red : ∀ y : Nat, bitsOf y h2 l2 = bitsOf (y % 2 ^ lo) h2 l2 := by
    intro y
    apply Nat.eq_of_testBit_eq
    intro i
    simp only [bitsOf, Nat.testBit_mod_two_pow, Nat.testBit_shiftRight]
    by_cases hi' : i < h2 + 1 - l2
    · have : l2 + i < lo := by omega
      simp [hi', this]
    · simp [hi']
  rw [red, key, ← red]

/-- A field above the one replaced reads as before. -/
theorem bitsOf_putBits_above (x hi lo v h2 l2 : Nat) (h : hi < l2) (hl : lo ≤ hi) : bitsOf (putBits x hi lo v) h2 l2 = bitsOf x h2 l2 := by
  have up : ∀ y : Nat, y >>> l2 = (y >>> lo / 2 ^ (hi + 1 - lo)) >>> (l2 - (hi + 1)) := by
    intro y
    rw [← Nat.shiftRight_eq_div_pow, ← Nat.shiftRight_add, ← Nat.shiftRight_add]
    congr 1
    omega
  have hp := Nat.two_pow_pos lo
  have hq := Nat.two_pow_pos (hi + 1 - lo)
  have key : putBits x hi lo v >>> lo / 2 ^ (hi + 1 - lo) = x >>> lo / 2 ^ (hi + 1 - lo) := by
    rw [putBits_split, Nat.shiftRight_eq_div_pow, ← Nat.add_mul, Nat.add_comm, Nat.add_mul_div_right _ _ hp, Nat.div_eq_of_lt (Nat.mod_lt _ hp), Nat.zero_add,
      Nat.add_comm, Nat.add_mul_div_right _ _ hq, Nat.div_eq_of_lt (Nat.mod_lt _ hq), Nat.zero_add]
  unfold bitsOf
  rw [up, key, ← up]

/-- A word with a field of it replaced is a word. -/
theorem putBits_lt (x hi lo v w : Nat) (hx : x < 2 ^ w) (h : hi < w) (hl : lo ≤ hi) : putBits x hi lo v < 2 ^ w := by
  apply Nat.lt_pow_two_of_testBit
  intro i hi'
  have hz : bitsOf x i i = 0 := by
    have : x >>> i = 0 := Nat.shiftRight_eq_zero x i (lt_of_lt_of_le hx (Nat.pow_le_pow_right (by norm_num) hi'))
    simp [bitsOf, this]
  have hb := bitsOf_putBits_above x hi lo v i i (by omega) hl
  rw [hz] at hb
  rw [Nat.testBit_eq_decide_div_mod_eq]
  have : i + 1 - i = 1 := by omega
  simp only [bitsOf, Nat.shiftRight_eq_div_pow, this, pow_one] at hb
  simp [hb]

/-! ### Registers -/

theorem Node.table_setWord (n : Node) (off : Nat) (v : Word) : (n.setWord off v).table = n.table := rfl

theorem Node.word_setWord_self (n : Node) (off : Nat) (v : Word) : (n.setWord off v).word off = v := Tab.get_set_self _ _ _ _

theorem Node.word_setWord_ne (n : Node) {off o : Nat} (v : Word) (h : o ≠ off) : (n.setWord off v).word o = n.word o := Tab.get_set_ne _ _ _ h

theorem Node.word_s_ne (n : Node) (f : Fld) (v : Nat) {o : Nat} (h : o ≠ f.off) : (n.s f v).word o = n.word o := n.word_setWord_ne _ h

/-- A field reads the low bits of what was put there. -/
theorem Node.g_s_self (n : Node) (f : Fld) (v : Nat) (h : f.hi < 32) (hl : f.lo ≤ f.hi) : (n.s f v).g f = v % 2 ^ (f.hi + 1 - f.lo) := by
  have hw := putBits_lt (n.word f.off).toNat f.hi f.lo v 32 (n.word f.off).isLt h hl
  unfold Node.g Node.s
  rw [Node.word_setWord_self, BitVec.toNat_ofNat, Nat.mod_eq_of_lt hw, bitsOf_putBits_self]

/-- A field of another register reads as before. -/
theorem Node.g_s_off (n : Node) (f e : Fld) (v : Nat) (h : e.off ≠ f.off) : (n.s f v).g e = n.g e := by
  unfold Node.g
  rw [Node.word_s_ne n f v h]

/-- Another field of the same register reads as before. -/
theorem Node.g_s_field (n : Node) (f e : Fld) (v : Nat) (ho : e.off = f.off) (h : f.hi < 32) (hl : f.lo ≤ f.hi) (he : e.lo ≤ e.hi)
    (hd : e.hi < f.lo ∨ f.hi < e.lo) : (n.s f v).g e = n.g e := by
  have hw := putBits_lt (n.word f.off).toNat f.hi f.lo v 32 (n.word f.off).isLt h hl
  unfold Node.g Node.s
  rw [ho, Node.word_setWord_self, BitVec.toNat_ofNat, Nat.mod_eq_of_lt hw]
  rcases hd with hd | hd
  · exact bitsOf_putBits_below _ _ _ _ _ _ hd he
  · exact bitsOf_putBits_above _ _ _ _ _ _ hd hl

end Sys2Proof.Machine
end

