-- ==== Sys2Proof/Laws/Memory.lean ====
section
/-! SUPPORT. The crown's HBM: a byte read after a write, and that every operation that stores bytes keeps the canonical form. -/

namespace Sys2Proof.Machine

/-- HBM is in its canonical form. -/
abbrev Crown.hbmWf (c : Crown) : Bool := Tab.wf hbmUnwritten c.hbm

theorem Crown.reset_hbmWf : Crown.reset.hbmWf = true := by decide

theorem State.reset_hbmWf : State.reset.crown.hbmWf = true := Crown.reset_hbmWf

/-- A byte written is the byte read; every other byte is as before. -/
theorem Crown.hbmByte_hbmPut (c : Crown) (a x : Nat) (b : Byte) : (c.hbmPut a b).hbmByte x = if x = a then b else c.hbmByte x :=
  Tab.get_set hbmUnwritten c.hbm a x b

theorem Crown.hbmPut_wf (c : Crown) (a : Nat) (b : Byte) (h : c.hbmWf = true) : (c.hbmPut a b).hbmWf = true :=
  Tab.wf_set hbmUnwritten c.hbm a b h

theorem Crown.hbm_bound (c : Crown) (a n : Nat) : (c.bound a n).hbm = c.hbm := by unfold Crown.bound; split <;> rfl

/-- Counting the units moved leaves HBM alone. -/
theorem Crown.hbm_countUnits (c : Crown) (f : Nat → Fld) (l : List (Nat × Nat)) : (c.countUnits f l).hbm = c.hbm := by
  unfold Crown.countUnits
  generalize List.range 8 = ks
  induction ks generalizing c with
  | nil => rfl
  | cons k r ih =>
    rw [List.foldl_cons]
    refine (ih _).trans ?_
    dsimp only
    split <;> rfl

theorem Crown.hbm_touch (c : Crown) (a n : Nat) : (c.touch a n).hbm = c.hbm := (Crown.hbm_countUnits _ _ _).trans (Crown.hbm_bound _ _ _)

theorem Crown.puts_wf (f : Nat → Byte) (a : Nat) (l : List Nat) (c : Crown) (h : c.hbmWf = true) :
    (l.foldl (fun (c : Crown) i => c.hbmPut (a + i) (f i)) c).hbmWf = true := by
  induction l generalizing c with
  | nil => exact h
  | cons i r ih => exact ih _ (c.hbmPut_wf _ _ h)

/-- A write of bytes keeps the canonical form. -/
theorem Crown.hbmWrite_wf (c : Crown) (a : Nat) (l : List Byte) (h : c.hbmWf = true) : (c.hbmWrite a l).hbmWf = true := by
  refine Crown.puts_wf (fun i => l.getD i 0) a _ _ ?_
  simpa [Crown.hbmWf, Crown.hbm_countUnits, Crown.hbm_bound] using h

/-- Bytes made void keep the canonical form. -/
theorem Crown.hbmVoid_wf (c : Crown) (a n : Nat) (h : c.hbmWf = true) : (c.hbmVoid a n).hbmWf = true := by
  unfold Crown.hbmVoid
  generalize List.range n = ks
  dsimp only
  generalize c.fresh = g
  revert h
  suffices ∀ c : Crown, c.hbmWf = true → (ks.foldl (fun (c : Crown) i => if a + i < hbmSize then c.hbmPut (a + i) (BitVec.ofNat 8 (Config.free (g + i))) else c) c).hbmWf = true from
    fun h => this (c.on _) h
  induction ks with
  | nil => exact fun _ h => h
  | cons i r ih =>
    intro c h
    rw [List.foldl_cons]
    refine ih _ ?_
    split
    · exact c.hbmPut_wf _ _ h
    · exact h

/-- A write of bytes leaves every byte outside them alone. -/
theorem Crown.hbmByte_puts_out (f : Nat → Byte) (a x : Nat) (l : List Nat) (c : Crown) (h : ∀ i ∈ l, x ≠ a + i) :
    (l.foldl (fun (c : Crown) i => c.hbmPut (a + i) (f i)) c).hbmByte x = c.hbmByte x := by
  induction l generalizing c with
  | nil => rfl
  | cons i r ih =>
    rw [List.foldl_cons, ih _ (fun j hj => h j (by simp [hj])), Crown.hbmByte_hbmPut, if_neg (h i (by simp))]

theorem Crown.hbmByte_hbmWrite_out (c : Crown) (a x : Nat) (l : List Byte) (h : x < a ∨ a + l.length ≤ x) : (c.hbmWrite a l).hbmByte x = c.hbmByte x := by
  refine (Crown.hbmByte_puts_out (fun i => l.getD i 0) a x _ _ (fun i hi => ?_)).trans ?_
  · have := List.mem_range.1 hi
    omega
  · simp [Crown.hbmByte, Crown.hbm_countUnits, Crown.hbm_bound]

end Sys2Proof.Machine
end

