-- ==== Sys2Proof/Laws/Updates.lean ====
section
/-! SUPPORT. The small lemmas of the state: for each update of a node, a leaf, a crown or the whole machine, what every field then holds. -/

namespace Sys2Proof.Machine

/-! ### Node -/

@[simp] theorem Node.setWord_crown (n : Node) (o : Nat) (v : Word) : (n.setWord o v).crown = n.crown := rfl
@[simp] theorem Node.setWord_selfWord (n : Node) (o : Nat) (v : Word) : (n.setWord o v).selfWord = n.selfWord := rfl
@[simp] theorem Node.setWord_ns (n : Node) (o : Nat) (v : Word) : (n.setWord o v).ns = n.ns := rfl
@[simp] theorem Node.setWord_fresh (n : Node) (o : Nat) (v : Word) : (n.setWord o v).fresh = n.fresh := rfl
@[simp] theorem Node.setWord_regs (n : Node) (o : Nat) (v : Word) : (n.setWord o v).regs = n.regs.set (resetOf n.table) o v := rfl
@[simp] theorem Node.setWord_out (n : Node) (o : Nat) (v : Word) : (n.setWord o v).out = n.out := rfl
@[simp] theorem Node.setWord_time (n : Node) (o : Nat) (v : Word) : (n.setWord o v).time = n.time := rfl
@[simp] theorem Node.setWord_pack (n : Node) (o : Nat) (v : Word) : (n.setWord o v).pack = n.pack := rfl
@[simp] theorem Node.setWord_aliveAt (n : Node) (o : Nat) (v : Word) : (n.setWord o v).aliveAt = n.aliveAt := rfl
@[simp] theorem Node.setWord_aliveN (n : Node) (o : Nat) (v : Word) : (n.setWord o v).aliveN = n.aliveN := rfl
@[simp] theorem Node.setWord_turn (n : Node) (o : Nat) (v : Word) : (n.setWord o v).turn = n.turn := rfl
@[simp] theorem Node.setWord_upLane (n : Node) (o : Nat) (v : Word) : (n.setWord o v).upLane = n.upLane := rfl
@[simp] theorem Node.setWord_flexLane (n : Node) (o : Nat) (v : Word) : (n.setWord o v).flexLane = n.flexLane := rfl
@[simp] theorem Node.setWord_rx (n : Node) (o : Nat) (v : Word) : (n.setWord o v).rx = n.rx := rfl
@[simp] theorem Node.setWord_missed (n : Node) (o : Nat) (v : Word) : (n.setWord o v).missed = n.missed := rfl
@[simp] theorem Node.setWord_delivered (n : Node) (o : Nat) (v : Word) : (n.setWord o v).delivered = n.delivered := rfl
@[simp] theorem Node.setWord_ring (n : Node) (o : Nat) (v : Word) : (n.setWord o v).ring = n.ring := rfl
@[simp] theorem Node.setWord_lanes (n : Node) (o : Nat) (v : Word) : (n.setWord o v).lanes = n.lanes := rfl

@[simp] theorem Node.emit_crown (n : Node) (o : Out) : (n.emit o).crown = n.crown := rfl
@[simp] theorem Node.emit_selfWord (n : Node) (o : Out) : (n.emit o).selfWord = n.selfWord := rfl
@[simp] theorem Node.emit_ns (n : Node) (o : Out) : (n.emit o).ns = n.ns := rfl
@[simp] theorem Node.emit_fresh (n : Node) (o : Out) : (n.emit o).fresh = n.fresh := rfl
@[simp] theorem Node.emit_regs (n : Node) (o : Out) : (n.emit o).regs = n.regs := rfl
@[simp] theorem Node.emit_out (n : Node) (o : Out) : (n.emit o).out = n.out ++ [o] := rfl
@[simp] theorem Node.emit_time (n : Node) (o : Out) : (n.emit o).time = n.time := rfl
@[simp] theorem Node.emit_pack (n : Node) (o : Out) : (n.emit o).pack = n.pack := rfl
@[simp] theorem Node.emit_aliveAt (n : Node) (o : Out) : (n.emit o).aliveAt = n.aliveAt := rfl
@[simp] theorem Node.emit_aliveN (n : Node) (o : Out) : (n.emit o).aliveN = n.aliveN := rfl
@[simp] theorem Node.emit_turn (n : Node) (o : Out) : (n.emit o).turn = n.turn := rfl
@[simp] theorem Node.emit_upLane (n : Node) (o : Out) : (n.emit o).upLane = n.upLane := rfl
@[simp] theorem Node.emit_flexLane (n : Node) (o : Out) : (n.emit o).flexLane = n.flexLane := rfl
@[simp] theorem Node.emit_rx (n : Node) (o : Out) : (n.emit o).rx = n.rx := rfl
@[simp] theorem Node.emit_missed (n : Node) (o : Out) : (n.emit o).missed = n.missed := rfl
@[simp] theorem Node.emit_delivered (n : Node) (o : Out) : (n.emit o).delivered = n.delivered := rfl
@[simp] theorem Node.emit_ring (n : Node) (o : Out) : (n.emit o).ring = n.ring := rfl
@[simp] theorem Node.emit_lanes (n : Node) (o : Out) : (n.emit o).lanes = n.lanes := rfl

@[simp] theorem Node.setLane_crown (n : Node) (k : Nat) (x : Lane) : (n.setLane k x).crown = n.crown := rfl
@[simp] theorem Node.setLane_selfWord (n : Node) (k : Nat) (x : Lane) : (n.setLane k x).selfWord = n.selfWord := rfl
@[simp] theorem Node.setLane_ns (n : Node) (k : Nat) (x : Lane) : (n.setLane k x).ns = n.ns := rfl
@[simp] theorem Node.setLane_fresh (n : Node) (k : Nat) (x : Lane) : (n.setLane k x).fresh = n.fresh := rfl
@[simp] theorem Node.setLane_regs (n : Node) (k : Nat) (x : Lane) : (n.setLane k x).regs = n.regs := rfl
@[simp] theorem Node.setLane_out (n : Node) (k : Nat) (x : Lane) : (n.setLane k x).out = n.out := rfl
@[simp] theorem Node.setLane_time (n : Node) (k : Nat) (x : Lane) : (n.setLane k x).time = n.time := rfl
@[simp] theorem Node.setLane_pack (n : Node) (k : Nat) (x : Lane) : (n.setLane k x).pack = n.pack := rfl
@[simp] theorem Node.setLane_aliveAt (n : Node) (k : Nat) (x : Lane) : (n.setLane k x).aliveAt = n.aliveAt := rfl
@[simp] theorem Node.setLane_aliveN (n : Node) (k : Nat) (x : Lane) : (n.setLane k x).aliveN = n.aliveN := rfl
@[simp] theorem Node.setLane_turn (n : Node) (k : Nat) (x : Lane) : (n.setLane k x).turn = n.turn := rfl
@[simp] theorem Node.setLane_upLane (n : Node) (k : Nat) (x : Lane) : (n.setLane k x).upLane = n.upLane := rfl
@[simp] theorem Node.setLane_flexLane (n : Node) (k : Nat) (x : Lane) : (n.setLane k x).flexLane = n.flexLane := rfl
@[simp] theorem Node.setLane_rx (n : Node) (k : Nat) (x : Lane) : (n.setLane k x).rx = n.rx := rfl
@[simp] theorem Node.setLane_missed (n : Node) (k : Nat) (x : Lane) : (n.setLane k x).missed = n.missed := rfl
@[simp] theorem Node.setLane_delivered (n : Node) (k : Nat) (x : Lane) : (n.setLane k x).delivered = n.delivered := rfl
@[simp] theorem Node.setLane_ring (n : Node) (k : Nat) (x : Lane) : (n.setLane k x).ring = n.ring := rfl
@[simp] theorem Node.setLane_lanes (n : Node) (k : Nat) (x : Lane) : (n.setLane k x).lanes = n.lanes.set (fun _ => Lane.reset) k x := rfl

@[simp] theorem Node.setQ_crown (n : Node) (k : Nat) (x : ClassQ) : (n.setQ k x).crown = n.crown := rfl
@[simp] theorem Node.setQ_selfWord (n : Node) (k : Nat) (x : ClassQ) : (n.setQ k x).selfWord = n.selfWord := rfl
@[simp] theorem Node.setQ_ns (n : Node) (k : Nat) (x : ClassQ) : (n.setQ k x).ns = n.ns := rfl
@[simp] theorem Node.setQ_fresh (n : Node) (k : Nat) (x : ClassQ) : (n.setQ k x).fresh = n.fresh := rfl
@[simp] theorem Node.setQ_regs (n : Node) (k : Nat) (x : ClassQ) : (n.setQ k x).regs = n.regs := rfl
@[simp] theorem Node.setQ_out (n : Node) (k : Nat) (x : ClassQ) : (n.setQ k x).out = n.out := rfl
@[simp] theorem Node.setQ_time (n : Node) (k : Nat) (x : ClassQ) : (n.setQ k x).time = n.time := rfl
@[simp] theorem Node.setQ_pack (n : Node) (k : Nat) (x : ClassQ) : (n.setQ k x).pack = n.pack.set (fun _ => ClassQ.empty) k x := rfl
@[simp] theorem Node.setQ_aliveAt (n : Node) (k : Nat) (x : ClassQ) : (n.setQ k x).aliveAt = n.aliveAt := rfl
@[simp] theorem Node.setQ_aliveN (n : Node) (k : Nat) (x : ClassQ) : (n.setQ k x).aliveN = n.aliveN := rfl
@[simp] theorem Node.setQ_turn (n : Node) (k : Nat) (x : ClassQ) : (n.setQ k x).turn = n.turn := rfl
@[simp] theorem Node.setQ_upLane (n : Node) (k : Nat) (x : ClassQ) : (n.setQ k x).upLane = n.upLane := rfl
@[simp] theorem Node.setQ_flexLane (n : Node) (k : Nat) (x : ClassQ) : (n.setQ k x).flexLane = n.flexLane := rfl
@[simp] theorem Node.setQ_rx (n : Node) (k : Nat) (x : ClassQ) : (n.setQ k x).rx = n.rx := rfl
@[simp] theorem Node.setQ_missed (n : Node) (k : Nat) (x : ClassQ) : (n.setQ k x).missed = n.missed := rfl
@[simp] theorem Node.setQ_delivered (n : Node) (k : Nat) (x : ClassQ) : (n.setQ k x).delivered = n.delivered := rfl
@[simp] theorem Node.setQ_ring (n : Node) (k : Nat) (x : ClassQ) : (n.setQ k x).ring = n.ring := rfl
@[simp] theorem Node.setQ_lanes (n : Node) (k : Nat) (x : ClassQ) : (n.setQ k x).lanes = n.lanes := rfl

/-! ### Leaf -/

@[simp] theorem Leaf.on_toNode (l : Leaf) (f : Node → Node) : (l.on f).toNode = f l.toNode := rfl
@[simp] theorem Leaf.on_twigs (l : Leaf) (f : Node → Node) : (l.on f).twigs = l.twigs := rfl
@[simp] theorem Leaf.on_reader (l : Leaf) (f : Node → Node) : (l.on f).reader = l.reader := rfl
@[simp] theorem Leaf.on_guards (l : Leaf) (f : Node → Node) : (l.on f).guards = l.guards := rfl
@[simp] theorem Leaf.on_trace (l : Leaf) (f : Node → Node) : (l.on f).trace = l.trace := rfl
@[simp] theorem Leaf.on_tap (l : Leaf) (f : Node → Node) : (l.on f).tap = l.tap := rfl
@[simp] theorem Leaf.on_heart (l : Leaf) (f : Node → Node) : (l.on f).heart = l.heart := rfl
@[simp] theorem Leaf.on_boot (l : Leaf) (f : Node → Node) : (l.on f).boot = l.boot := rfl
@[simp] theorem Leaf.on_crc (l : Leaf) (f : Node → Node) : (l.on f).crc = l.crc := rfl

@[simp] theorem Leaf.onReader_toNode (l : Leaf) (f : Reader → Reader) : (l.onReader f).toNode = l.toNode := rfl
@[simp] theorem Leaf.onReader_twigs (l : Leaf) (f : Reader → Reader) : (l.onReader f).twigs = l.twigs := rfl
@[simp] theorem Leaf.onReader_reader (l : Leaf) (f : Reader → Reader) : (l.onReader f).reader = f l.reader := rfl
@[simp] theorem Leaf.onReader_guards (l : Leaf) (f : Reader → Reader) : (l.onReader f).guards = l.guards := rfl
@[simp] theorem Leaf.onReader_trace (l : Leaf) (f : Reader → Reader) : (l.onReader f).trace = l.trace := rfl
@[simp] theorem Leaf.onReader_tap (l : Leaf) (f : Reader → Reader) : (l.onReader f).tap = l.tap := rfl
@[simp] theorem Leaf.onReader_heart (l : Leaf) (f : Reader → Reader) : (l.onReader f).heart = l.heart := rfl
@[simp] theorem Leaf.onReader_boot (l : Leaf) (f : Reader → Reader) : (l.onReader f).boot = l.boot := rfl
@[simp] theorem Leaf.onReader_crc (l : Leaf) (f : Reader → Reader) : (l.onReader f).crc = l.crc := rfl

@[simp] theorem Leaf.onGuards_toNode (l : Leaf) (f : Guards → Guards) : (l.onGuards f).toNode = l.toNode := rfl
@[simp] theorem Leaf.onGuards_twigs (l : Leaf) (f : Guards → Guards) : (l.onGuards f).twigs = l.twigs := rfl
@[simp] theorem Leaf.onGuards_reader (l : Leaf) (f : Guards → Guards) : (l.onGuards f).reader = l.reader := rfl
@[simp] theorem Leaf.onGuards_guards (l : Leaf) (f : Guards → Guards) : (l.onGuards f).guards = f l.guards := rfl
@[simp] theorem Leaf.onGuards_trace (l : Leaf) (f : Guards → Guards) : (l.onGuards f).trace = l.trace := rfl
@[simp] theorem Leaf.onGuards_tap (l : Leaf) (f : Guards → Guards) : (l.onGuards f).tap = l.tap := rfl
@[simp] theorem Leaf.onGuards_heart (l : Leaf) (f : Guards → Guards) : (l.onGuards f).heart = l.heart := rfl
@[simp] theorem Leaf.onGuards_boot (l : Leaf) (f : Guards → Guards) : (l.onGuards f).boot = l.boot := rfl
@[simp] theorem Leaf.onGuards_crc (l : Leaf) (f : Guards → Guards) : (l.onGuards f).crc = l.crc := rfl

@[simp] theorem Leaf.onTap_toNode (l : Leaf) (f : AuditTap → AuditTap) : (l.onTap f).toNode = l.toNode := rfl
@[simp] theorem Leaf.onTap_twigs (l : Leaf) (f : AuditTap → AuditTap) : (l.onTap f).twigs = l.twigs := rfl
@[simp] theorem Leaf.onTap_reader (l : Leaf) (f : AuditTap → AuditTap) : (l.onTap f).reader = l.reader := rfl
@[simp] theorem Leaf.onTap_guards (l : Leaf) (f : AuditTap → AuditTap) : (l.onTap f).guards = l.guards := rfl
@[simp] theorem Leaf.onTap_trace (l : Leaf) (f : AuditTap → AuditTap) : (l.onTap f).trace = l.trace := rfl
@[simp] theorem Leaf.onTap_tap (l : Leaf) (f : AuditTap → AuditTap) : (l.onTap f).tap = f l.tap := rfl
@[simp] theorem Leaf.onTap_heart (l : Leaf) (f : AuditTap → AuditTap) : (l.onTap f).heart = l.heart := rfl
@[simp] theorem Leaf.onTap_boot (l : Leaf) (f : AuditTap → AuditTap) : (l.onTap f).boot = l.boot := rfl
@[simp] theorem Leaf.onTap_crc (l : Leaf) (f : AuditTap → AuditTap) : (l.onTap f).crc = l.crc := rfl

@[simp] theorem Leaf.onHeart_toNode (l : Leaf) (f : Heart → Heart) : (l.onHeart f).toNode = l.toNode := rfl
@[simp] theorem Leaf.onHeart_twigs (l : Leaf) (f : Heart → Heart) : (l.onHeart f).twigs = l.twigs := rfl
@[simp] theorem Leaf.onHeart_reader (l : Leaf) (f : Heart → Heart) : (l.onHeart f).reader = l.reader := rfl
@[simp] theorem Leaf.onHeart_guards (l : Leaf) (f : Heart → Heart) : (l.onHeart f).guards = l.guards := rfl
@[simp] theorem Leaf.onHeart_trace (l : Leaf) (f : Heart → Heart) : (l.onHeart f).trace = l.trace := rfl
@[simp] theorem Leaf.onHeart_tap (l : Leaf) (f : Heart → Heart) : (l.onHeart f).tap = l.tap := rfl
@[simp] theorem Leaf.onHeart_heart (l : Leaf) (f : Heart → Heart) : (l.onHeart f).heart = f l.heart := rfl
@[simp] theorem Leaf.onHeart_boot (l : Leaf) (f : Heart → Heart) : (l.onHeart f).boot = l.boot := rfl
@[simp] theorem Leaf.onHeart_crc (l : Leaf) (f : Heart → Heart) : (l.onHeart f).crc = l.crc := rfl

@[simp] theorem Leaf.onBoot_toNode (l : Leaf) (f : LeafBoot → LeafBoot) : (l.onBoot f).toNode = l.toNode := rfl
@[simp] theorem Leaf.onBoot_twigs (l : Leaf) (f : LeafBoot → LeafBoot) : (l.onBoot f).twigs = l.twigs := rfl
@[simp] theorem Leaf.onBoot_reader (l : Leaf) (f : LeafBoot → LeafBoot) : (l.onBoot f).reader = l.reader := rfl
@[simp] theorem Leaf.onBoot_guards (l : Leaf) (f : LeafBoot → LeafBoot) : (l.onBoot f).guards = l.guards := rfl
@[simp] theorem Leaf.onBoot_trace (l : Leaf) (f : LeafBoot → LeafBoot) : (l.onBoot f).trace = l.trace := rfl
@[simp] theorem Leaf.onBoot_tap (l : Leaf) (f : LeafBoot → LeafBoot) : (l.onBoot f).tap = l.tap := rfl
@[simp] theorem Leaf.onBoot_heart (l : Leaf) (f : LeafBoot → LeafBoot) : (l.onBoot f).heart = l.heart := rfl
@[simp] theorem Leaf.onBoot_boot (l : Leaf) (f : LeafBoot → LeafBoot) : (l.onBoot f).boot = f l.boot := rfl
@[simp] theorem Leaf.onBoot_crc (l : Leaf) (f : LeafBoot → LeafBoot) : (l.onBoot f).crc = l.crc := rfl

@[simp] theorem Leaf.setTwig_toNode (l : Leaf) (t : Nat) (w : Twig) : (l.setTwig t w).toNode = l.toNode := rfl
@[simp] theorem Leaf.setTwig_reader (l : Leaf) (t : Nat) (w : Twig) : (l.setTwig t w).reader = l.reader := rfl
@[simp] theorem Leaf.setTwig_guards (l : Leaf) (t : Nat) (w : Twig) : (l.setTwig t w).guards = l.guards := rfl
@[simp] theorem Leaf.setTwig_trace (l : Leaf) (t : Nat) (w : Twig) : (l.setTwig t w).trace = l.trace := rfl
@[simp] theorem Leaf.setTwig_tap (l : Leaf) (t : Nat) (w : Twig) : (l.setTwig t w).tap = l.tap := rfl
@[simp] theorem Leaf.setTwig_heart (l : Leaf) (t : Nat) (w : Twig) : (l.setTwig t w).heart = l.heart := rfl
@[simp] theorem Leaf.setTwig_boot (l : Leaf) (t : Nat) (w : Twig) : (l.setTwig t w).boot = l.boot := rfl
@[simp] theorem Leaf.setTwig_crc (l : Leaf) (t : Nat) (w : Twig) : (l.setTwig t w).crc = l.crc := rfl

/-! ### Crown -/

@[simp] theorem Crown.on_toNode (c : Crown) (f : Node → Node) : (c.on f).toNode = f c.toNode := rfl
@[simp] theorem Crown.on_red (c : Crown) (f : Node → Node) : (c.on f).red = c.red := rfl
@[simp] theorem Crown.on_hbm (c : Crown) (f : Node → Node) : (c.on f).hbm = c.hbm := rfl
@[simp] theorem Crown.on_stray (c : Crown) (f : Node → Node) : (c.on f).stray = c.stray := rfl
@[simp] theorem Crown.on_eng (c : Crown) (f : Node → Node) : (c.on f).eng = c.eng := rfl
@[simp] theorem Crown.on_tree (c : Crown) (f : Node → Node) : (c.on f).tree = c.tree := rfl
@[simp] theorem Crown.on_win (c : Crown) (f : Node → Node) : (c.on f).win = c.win := rfl
@[simp] theorem Crown.on_grove (c : Crown) (f : Node → Node) : (c.on f).grove = c.grove := rfl
@[simp] theorem Crown.on_age (c : Crown) (f : Node → Node) : (c.on f).age = c.age := rfl
@[simp] theorem Crown.on_aud (c : Crown) (f : Node → Node) : (c.on f).aud = c.aud := rfl
@[simp] theorem Crown.on_keep (c : Crown) (f : Node → Node) : (c.on f).keep = c.keep := rfl
@[simp] theorem Crown.on_bring (c : Crown) (f : Node → Node) : (c.on f).bring = c.bring := rfl
@[simp] theorem Crown.on_self (c : Crown) (f : Node → Node) : (c.on f).self = c.self := rfl
@[simp] theorem Crown.on_image (c : Crown) (f : Node → Node) : (c.on f).image = c.image := rfl
@[simp] theorem Crown.on_ports (c : Crown) (f : Node → Node) : (c.on f).ports = c.ports := rfl

@[simp] theorem Crown.onRed_toNode (c : Crown) (f : Reduction → Reduction) : (c.onRed f).toNode = c.toNode := rfl
@[simp] theorem Crown.onRed_red (c : Crown) (f : Reduction → Reduction) : (c.onRed f).red = f c.red := rfl
@[simp] theorem Crown.onRed_hbm (c : Crown) (f : Reduction → Reduction) : (c.onRed f).hbm = c.hbm := rfl
@[simp] theorem Crown.onRed_stray (c : Crown) (f : Reduction → Reduction) : (c.onRed f).stray = c.stray := rfl
@[simp] theorem Crown.onRed_eng (c : Crown) (f : Reduction → Reduction) : (c.onRed f).eng = c.eng := rfl
@[simp] theorem Crown.onRed_tree (c : Crown) (f : Reduction → Reduction) : (c.onRed f).tree = c.tree := rfl
@[simp] theorem Crown.onRed_win (c : Crown) (f : Reduction → Reduction) : (c.onRed f).win = c.win := rfl
@[simp] theorem Crown.onRed_grove (c : Crown) (f : Reduction → Reduction) : (c.onRed f).grove = c.grove := rfl
@[simp] theorem Crown.onRed_age (c : Crown) (f : Reduction → Reduction) : (c.onRed f).age = c.age := rfl
@[simp] theorem Crown.onRed_aud (c : Crown) (f : Reduction → Reduction) : (c.onRed f).aud = c.aud := rfl
@[simp] theorem Crown.onRed_keep (c : Crown) (f : Reduction → Reduction) : (c.onRed f).keep = c.keep := rfl
@[simp] theorem Crown.onRed_bring (c : Crown) (f : Reduction → Reduction) : (c.onRed f).bring = c.bring := rfl
@[simp] theorem Crown.onRed_self (c : Crown) (f : Reduction → Reduction) : (c.onRed f).self = c.self := rfl
@[simp] theorem Crown.onRed_image (c : Crown) (f : Reduction → Reduction) : (c.onRed f).image = c.image := rfl
@[simp] theorem Crown.onRed_ports (c : Crown) (f : Reduction → Reduction) : (c.onRed f).ports = c.ports := rfl

@[simp] theorem Crown.onWin_toNode (c : Crown) (f : WinEngine → WinEngine) : (c.onWin f).toNode = c.toNode := rfl
@[simp] theorem Crown.onWin_red (c : Crown) (f : WinEngine → WinEngine) : (c.onWin f).red = c.red := rfl
@[simp] theorem Crown.onWin_hbm (c : Crown) (f : WinEngine → WinEngine) : (c.onWin f).hbm = c.hbm := rfl
@[simp] theorem Crown.onWin_stray (c : Crown) (f : WinEngine → WinEngine) : (c.onWin f).stray = c.stray := rfl
@[simp] theorem Crown.onWin_eng (c : Crown) (f : WinEngine → WinEngine) : (c.onWin f).eng = c.eng := rfl
@[simp] theorem Crown.onWin_tree (c : Crown) (f : WinEngine → WinEngine) : (c.onWin f).tree = c.tree := rfl
@[simp] theorem Crown.onWin_win (c : Crown) (f : WinEngine → WinEngine) : (c.onWin f).win = f c.win := rfl
@[simp] theorem Crown.onWin_grove (c : Crown) (f : WinEngine → WinEngine) : (c.onWin f).grove = c.grove := rfl
@[simp] theorem Crown.onWin_age (c : Crown) (f : WinEngine → WinEngine) : (c.onWin f).age = c.age := rfl
@[simp] theorem Crown.onWin_aud (c : Crown) (f : WinEngine → WinEngine) : (c.onWin f).aud = c.aud := rfl
@[simp] theorem Crown.onWin_keep (c : Crown) (f : WinEngine → WinEngine) : (c.onWin f).keep = c.keep := rfl
@[simp] theorem Crown.onWin_bring (c : Crown) (f : WinEngine → WinEngine) : (c.onWin f).bring = c.bring := rfl
@[simp] theorem Crown.onWin_self (c : Crown) (f : WinEngine → WinEngine) : (c.onWin f).self = c.self := rfl
@[simp] theorem Crown.onWin_image (c : Crown) (f : WinEngine → WinEngine) : (c.onWin f).image = c.image := rfl
@[simp] theorem Crown.onWin_ports (c : Crown) (f : WinEngine → WinEngine) : (c.onWin f).ports = c.ports := rfl

@[simp] theorem Crown.onGrove_toNode (c : Crown) (f : Grove → Grove) : (c.onGrove f).toNode = c.toNode := rfl
@[simp] theorem Crown.onGrove_red (c : Crown) (f : Grove → Grove) : (c.onGrove f).red = c.red := rfl
@[simp] theorem Crown.onGrove_hbm (c : Crown) (f : Grove → Grove) : (c.onGrove f).hbm = c.hbm := rfl
@[simp] theorem Crown.onGrove_stray (c : Crown) (f : Grove → Grove) : (c.onGrove f).stray = c.stray := rfl
@[simp] theorem Crown.onGrove_eng (c : Crown) (f : Grove → Grove) : (c.onGrove f).eng = c.eng := rfl
@[simp] theorem Crown.onGrove_tree (c : Crown) (f : Grove → Grove) : (c.onGrove f).tree = c.tree := rfl
@[simp] theorem Crown.onGrove_win (c : Crown) (f : Grove → Grove) : (c.onGrove f).win = c.win := rfl
@[simp] theorem Crown.onGrove_grove (c : Crown) (f : Grove → Grove) : (c.onGrove f).grove = f c.grove := rfl
@[simp] theorem Crown.onGrove_age (c : Crown) (f : Grove → Grove) : (c.onGrove f).age = c.age := rfl
@[simp] theorem Crown.onGrove_aud (c : Crown) (f : Grove → Grove) : (c.onGrove f).aud = c.aud := rfl
@[simp] theorem Crown.onGrove_keep (c : Crown) (f : Grove → Grove) : (c.onGrove f).keep = c.keep := rfl
@[simp] theorem Crown.onGrove_bring (c : Crown) (f : Grove → Grove) : (c.onGrove f).bring = c.bring := rfl
@[simp] theorem Crown.onGrove_self (c : Crown) (f : Grove → Grove) : (c.onGrove f).self = c.self := rfl
@[simp] theorem Crown.onGrove_image (c : Crown) (f : Grove → Grove) : (c.onGrove f).image = c.image := rfl
@[simp] theorem Crown.onGrove_ports (c : Crown) (f : Grove → Grove) : (c.onGrove f).ports = c.ports := rfl

@[simp] theorem Crown.onAud_toNode (c : Crown) (f : AuditService → AuditService) : (c.onAud f).toNode = c.toNode := rfl
@[simp] theorem Crown.onAud_red (c : Crown) (f : AuditService → AuditService) : (c.onAud f).red = c.red := rfl
@[simp] theorem Crown.onAud_hbm (c : Crown) (f : AuditService → AuditService) : (c.onAud f).hbm = c.hbm := rfl
@[simp] theorem Crown.onAud_stray (c : Crown) (f : AuditService → AuditService) : (c.onAud f).stray = c.stray := rfl
@[simp] theorem Crown.onAud_eng (c : Crown) (f : AuditService → AuditService) : (c.onAud f).eng = c.eng := rfl
@[simp] theorem Crown.onAud_tree (c : Crown) (f : AuditService → AuditService) : (c.onAud f).tree = c.tree := rfl
@[simp] theorem Crown.onAud_win (c : Crown) (f : AuditService → AuditService) : (c.onAud f).win = c.win := rfl
@[simp] theorem Crown.onAud_grove (c : Crown) (f : AuditService → AuditService) : (c.onAud f).grove = c.grove := rfl
@[simp] theorem Crown.onAud_age (c : Crown) (f : AuditService → AuditService) : (c.onAud f).age = c.age := rfl
@[simp] theorem Crown.onAud_aud (c : Crown) (f : AuditService → AuditService) : (c.onAud f).aud = f c.aud := rfl
@[simp] theorem Crown.onAud_keep (c : Crown) (f : AuditService → AuditService) : (c.onAud f).keep = c.keep := rfl
@[simp] theorem Crown.onAud_bring (c : Crown) (f : AuditService → AuditService) : (c.onAud f).bring = c.bring := rfl
@[simp] theorem Crown.onAud_self (c : Crown) (f : AuditService → AuditService) : (c.onAud f).self = c.self := rfl
@[simp] theorem Crown.onAud_image (c : Crown) (f : AuditService → AuditService) : (c.onAud f).image = c.image := rfl
@[simp] theorem Crown.onAud_ports (c : Crown) (f : AuditService → AuditService) : (c.onAud f).ports = c.ports := rfl

@[simp] theorem Crown.onKeep_toNode (c : Crown) (f : Keeping → Keeping) : (c.onKeep f).toNode = c.toNode := rfl
@[simp] theorem Crown.onKeep_red (c : Crown) (f : Keeping → Keeping) : (c.onKeep f).red = c.red := rfl
@[simp] theorem Crown.onKeep_hbm (c : Crown) (f : Keeping → Keeping) : (c.onKeep f).hbm = c.hbm := rfl
@[simp] theorem Crown.onKeep_stray (c : Crown) (f : Keeping → Keeping) : (c.onKeep f).stray = c.stray := rfl
@[simp] theorem Crown.onKeep_eng (c : Crown) (f : Keeping → Keeping) : (c.onKeep f).eng = c.eng := rfl
@[simp] theorem Crown.onKeep_tree (c : Crown) (f : Keeping → Keeping) : (c.onKeep f).tree = c.tree := rfl
@[simp] theorem Crown.onKeep_win (c : Crown) (f : Keeping → Keeping) : (c.onKeep f).win = c.win := rfl
@[simp] theorem Crown.onKeep_grove (c : Crown) (f : Keeping → Keeping) : (c.onKeep f).grove = c.grove := rfl
@[simp] theorem Crown.onKeep_age (c : Crown) (f : Keeping → Keeping) : (c.onKeep f).age = c.age := rfl
@[simp] theorem Crown.onKeep_aud (c : Crown) (f : Keeping → Keeping) : (c.onKeep f).aud = c.aud := rfl
@[simp] theorem Crown.onKeep_keep (c : Crown) (f : Keeping → Keeping) : (c.onKeep f).keep = f c.keep := rfl
@[simp] theorem Crown.onKeep_bring (c : Crown) (f : Keeping → Keeping) : (c.onKeep f).bring = c.bring := rfl
@[simp] theorem Crown.onKeep_self (c : Crown) (f : Keeping → Keeping) : (c.onKeep f).self = c.self := rfl
@[simp] theorem Crown.onKeep_image (c : Crown) (f : Keeping → Keeping) : (c.onKeep f).image = c.image := rfl
@[simp] theorem Crown.onKeep_ports (c : Crown) (f : Keeping → Keeping) : (c.onKeep f).ports = c.ports := rfl

@[simp] theorem Crown.onBoot_toNode (c : Crown) (f : CrownBoot → CrownBoot) : (c.onBoot f).toNode = c.toNode := rfl
@[simp] theorem Crown.onBoot_red (c : Crown) (f : CrownBoot → CrownBoot) : (c.onBoot f).red = c.red := rfl
@[simp] theorem Crown.onBoot_hbm (c : Crown) (f : CrownBoot → CrownBoot) : (c.onBoot f).hbm = c.hbm := rfl
@[simp] theorem Crown.onBoot_stray (c : Crown) (f : CrownBoot → CrownBoot) : (c.onBoot f).stray = c.stray := rfl
@[simp] theorem Crown.onBoot_eng (c : Crown) (f : CrownBoot → CrownBoot) : (c.onBoot f).eng = c.eng := rfl
@[simp] theorem Crown.onBoot_tree (c : Crown) (f : CrownBoot → CrownBoot) : (c.onBoot f).tree = c.tree := rfl
@[simp] theorem Crown.onBoot_win (c : Crown) (f : CrownBoot → CrownBoot) : (c.onBoot f).win = c.win := rfl
@[simp] theorem Crown.onBoot_grove (c : Crown) (f : CrownBoot → CrownBoot) : (c.onBoot f).grove = c.grove := rfl
@[simp] theorem Crown.onBoot_age (c : Crown) (f : CrownBoot → CrownBoot) : (c.onBoot f).age = c.age := rfl
@[simp] theorem Crown.onBoot_aud (c : Crown) (f : CrownBoot → CrownBoot) : (c.onBoot f).aud = c.aud := rfl
@[simp] theorem Crown.onBoot_keep (c : Crown) (f : CrownBoot → CrownBoot) : (c.onBoot f).keep = c.keep := rfl
@[simp] theorem Crown.onBoot_bring (c : Crown) (f : CrownBoot → CrownBoot) : (c.onBoot f).bring = { c.bring with boot := f c.bring.boot } := rfl
@[simp] theorem Crown.onBoot_self (c : Crown) (f : CrownBoot → CrownBoot) : (c.onBoot f).self = c.self := rfl
@[simp] theorem Crown.onBoot_image (c : Crown) (f : CrownBoot → CrownBoot) : (c.onBoot f).image = c.image := rfl
@[simp] theorem Crown.onBoot_ports (c : Crown) (f : CrownBoot → CrownBoot) : (c.onBoot f).ports = c.ports := rfl

@[simp] theorem Crown.onModes_toNode (c : Crown) (f : Modes → Modes) : (c.onModes f).toNode = c.toNode := rfl
@[simp] theorem Crown.onModes_red (c : Crown) (f : Modes → Modes) : (c.onModes f).red = c.red := rfl
@[simp] theorem Crown.onModes_hbm (c : Crown) (f : Modes → Modes) : (c.onModes f).hbm = c.hbm := rfl
@[simp] theorem Crown.onModes_stray (c : Crown) (f : Modes → Modes) : (c.onModes f).stray = c.stray := rfl
@[simp] theorem Crown.onModes_eng (c : Crown) (f : Modes → Modes) : (c.onModes f).eng = c.eng := rfl
@[simp] theorem Crown.onModes_tree (c : Crown) (f : Modes → Modes) : (c.onModes f).tree = c.tree := rfl
@[simp] theorem Crown.onModes_win (c : Crown) (f : Modes → Modes) : (c.onModes f).win = c.win := rfl
@[simp] theorem Crown.onModes_grove (c : Crown) (f : Modes → Modes) : (c.onModes f).grove = c.grove := rfl
@[simp] theorem Crown.onModes_age (c : Crown) (f : Modes → Modes) : (c.onModes f).age = c.age := rfl
@[simp] theorem Crown.onModes_aud (c : Crown) (f : Modes → Modes) : (c.onModes f).aud = c.aud := rfl
@[simp] theorem Crown.onModes_keep (c : Crown) (f : Modes → Modes) : (c.onModes f).keep = c.keep := rfl
@[simp] theorem Crown.onModes_bring (c : Crown) (f : Modes → Modes) : (c.onModes f).bring = { c.bring with modes := f c.bring.modes } := rfl
@[simp] theorem Crown.onModes_self (c : Crown) (f : Modes → Modes) : (c.onModes f).self = c.self := rfl
@[simp] theorem Crown.onModes_image (c : Crown) (f : Modes → Modes) : (c.onModes f).image = c.image := rfl
@[simp] theorem Crown.onModes_ports (c : Crown) (f : Modes → Modes) : (c.onModes f).ports = c.ports := rfl

@[simp] theorem Crown.onClk_toNode (c : Crown) (f : Clocks → Clocks) : (c.onClk f).toNode = c.toNode := rfl
@[simp] theorem Crown.onClk_red (c : Crown) (f : Clocks → Clocks) : (c.onClk f).red = c.red := rfl
@[simp] theorem Crown.onClk_hbm (c : Crown) (f : Clocks → Clocks) : (c.onClk f).hbm = c.hbm := rfl
@[simp] theorem Crown.onClk_stray (c : Crown) (f : Clocks → Clocks) : (c.onClk f).stray = c.stray := rfl
@[simp] theorem Crown.onClk_eng (c : Crown) (f : Clocks → Clocks) : (c.onClk f).eng = c.eng := rfl
@[simp] theorem Crown.onClk_tree (c : Crown) (f : Clocks → Clocks) : (c.onClk f).tree = c.tree := rfl
@[simp] theorem Crown.onClk_win (c : Crown) (f : Clocks → Clocks) : (c.onClk f).win = c.win := rfl
@[simp] theorem Crown.onClk_grove (c : Crown) (f : Clocks → Clocks) : (c.onClk f).grove = c.grove := rfl
@[simp] theorem Crown.onClk_age (c : Crown) (f : Clocks → Clocks) : (c.onClk f).age = c.age := rfl
@[simp] theorem Crown.onClk_aud (c : Crown) (f : Clocks → Clocks) : (c.onClk f).aud = c.aud := rfl
@[simp] theorem Crown.onClk_keep (c : Crown) (f : Clocks → Clocks) : (c.onClk f).keep = c.keep := rfl
@[simp] theorem Crown.onClk_bring (c : Crown) (f : Clocks → Clocks) : (c.onClk f).bring = { c.bring with clk := f c.bring.clk } := rfl
@[simp] theorem Crown.onClk_self (c : Crown) (f : Clocks → Clocks) : (c.onClk f).self = c.self := rfl
@[simp] theorem Crown.onClk_image (c : Crown) (f : Clocks → Clocks) : (c.onClk f).image = c.image := rfl
@[simp] theorem Crown.onClk_ports (c : Crown) (f : Clocks → Clocks) : (c.onClk f).ports = c.ports := rfl

@[simp] theorem Crown.onHost_toNode (c : Crown) (f : HostIf → HostIf) : (c.onHost f).toNode = c.toNode := rfl
@[simp] theorem Crown.onHost_red (c : Crown) (f : HostIf → HostIf) : (c.onHost f).red = c.red := rfl
@[simp] theorem Crown.onHost_hbm (c : Crown) (f : HostIf → HostIf) : (c.onHost f).hbm = c.hbm := rfl
@[simp] theorem Crown.onHost_stray (c : Crown) (f : HostIf → HostIf) : (c.onHost f).stray = c.stray := rfl
@[simp] theorem Crown.onHost_eng (c : Crown) (f : HostIf → HostIf) : (c.onHost f).eng = c.eng := rfl
@[simp] theorem Crown.onHost_tree (c : Crown) (f : HostIf → HostIf) : (c.onHost f).tree = c.tree := rfl
@[simp] theorem Crown.onHost_win (c : Crown) (f : HostIf → HostIf) : (c.onHost f).win = c.win := rfl
@[simp] theorem Crown.onHost_grove (c : Crown) (f : HostIf → HostIf) : (c.onHost f).grove = c.grove := rfl
@[simp] theorem Crown.onHost_age (c : Crown) (f : HostIf → HostIf) : (c.onHost f).age = c.age := rfl
@[simp] theorem Crown.onHost_aud (c : Crown) (f : HostIf → HostIf) : (c.onHost f).aud = c.aud := rfl
@[simp] theorem Crown.onHost_keep (c : Crown) (f : HostIf → HostIf) : (c.onHost f).keep = c.keep := rfl
@[simp] theorem Crown.onHost_bring (c : Crown) (f : HostIf → HostIf) : (c.onHost f).bring = { c.bring with host := f c.bring.host } := rfl
@[simp] theorem Crown.onHost_self (c : Crown) (f : HostIf → HostIf) : (c.onHost f).self = c.self := rfl
@[simp] theorem Crown.onHost_image (c : Crown) (f : HostIf → HostIf) : (c.onHost f).image = c.image := rfl
@[simp] theorem Crown.onHost_ports (c : Crown) (f : HostIf → HostIf) : (c.onHost f).ports = c.ports := rfl

/-! ### The machine -/

@[simp] theorem State.onLeaf_die_leaf (s : State) (f : Leaf → Leaf) : (s.onLeaf .die f).leaf = f s.leaf := rfl
@[simp] theorem State.onLeaf_die_crown (s : State) (f : Leaf → Leaf) : (s.onLeaf .die f).crown = s.crown := rfl
@[simp] theorem State.onLeaf_own_leaf (s : State) (f : Leaf → Leaf) : (s.onLeaf .own f).leaf = s.leaf := rfl
@[simp] theorem State.onLeaf_own_toNode (s : State) (f : Leaf → Leaf) : (s.onLeaf .own f).crown.toNode = s.crown.toNode := rfl
@[simp] theorem State.onLeaf_own_red (s : State) (f : Leaf → Leaf) : (s.onLeaf .own f).crown.red = s.crown.red := rfl
@[simp] theorem State.onLeaf_own_hbm (s : State) (f : Leaf → Leaf) : (s.onLeaf .own f).crown.hbm = s.crown.hbm := rfl
@[simp] theorem State.onLeaf_own_stray (s : State) (f : Leaf → Leaf) : (s.onLeaf .own f).crown.stray = s.crown.stray := rfl
@[simp] theorem State.onLeaf_own_eng (s : State) (f : Leaf → Leaf) : (s.onLeaf .own f).crown.eng = s.crown.eng := rfl
@[simp] theorem State.onLeaf_own_tree (s : State) (f : Leaf → Leaf) : (s.onLeaf .own f).crown.tree = s.crown.tree := rfl
@[simp] theorem State.onLeaf_own_win (s : State) (f : Leaf → Leaf) : (s.onLeaf .own f).crown.win = s.crown.win := rfl
@[simp] theorem State.onLeaf_own_grove (s : State) (f : Leaf → Leaf) : (s.onLeaf .own f).crown.grove = s.crown.grove := rfl
@[simp] theorem State.onLeaf_own_age (s : State) (f : Leaf → Leaf) : (s.onLeaf .own f).crown.age = s.crown.age := rfl
@[simp] theorem State.onLeaf_own_aud (s : State) (f : Leaf → Leaf) : (s.onLeaf .own f).crown.aud = s.crown.aud := rfl
@[simp] theorem State.onLeaf_own_keep (s : State) (f : Leaf → Leaf) : (s.onLeaf .own f).crown.keep = s.crown.keep := rfl
@[simp] theorem State.onLeaf_own_bring (s : State) (f : Leaf → Leaf) : (s.onLeaf .own f).crown.bring = s.crown.bring := rfl
@[simp] theorem State.onLeaf_own_self (s : State) (f : Leaf → Leaf) : (s.onLeaf .own f).crown.self = f s.crown.self := rfl
@[simp] theorem State.onLeaf_own_image (s : State) (f : Leaf → Leaf) : (s.onLeaf .own f).crown.image = s.crown.image := rfl
@[simp] theorem State.onLeaf_own_ports (s : State) (f : Leaf → Leaf) : (s.onLeaf .own f).crown.ports = s.crown.ports := rfl
@[simp] theorem State.onLeaf_pending (s : State) (w : LeafSel) (f : Leaf → Leaf) : (s.onLeaf w f).pending = s.pending := by cases w <;> rfl

end Sys2Proof.Machine
end

