-- ==== Sys2Proof/Laws/State.lean ====
section
/-! SUPPORT. What the tables of the state read after an update, and what the shared forms of a command's answer can be. The lemmas of the
fields are in Laws/Updates.lean. -/

namespace Sys2Proof.Machine

/-! ### Leaf and crown -/

/-- A Twig replaced is the one read, what its loop holds for reads on their way apart. -/
theorem Leaf.twig_setTwig_self (l : Leaf) (t : Nat) (w : Twig) : ∃ p, (l.setTwig t w).twig t = { w with past := p } :=
  ⟨_, (Tab.get_set _ _ _ _ _).trans (if_pos rfl)⟩

theorem Leaf.twig_setTwig_ne (l : Leaf) (t u : Nat) (w : Twig) (h : u ≠ t) : (l.setTwig t w).twig u = l.twig u :=
  (Tab.get_set _ _ _ _ _).trans (if_neg h)

@[simp] theorem Crown.onBoot_boot (c : Crown) (f : CrownBoot → CrownBoot) : (c.onBoot f).bring.boot = f c.bring.boot := rfl
@[simp] theorem Crown.onHost_host (c : Crown) (f : HostIf → HostIf) : (c.onHost f).bring.host = f c.bring.host := rfl

/-! ### Node -/

theorem Node.lane_setLane (n : Node) (k j : Nat) (x : Lane) : (n.setLane k x).lane j = if j = k then x else n.lane j := Tab.get_set _ _ _ _ _
theorem Node.q_setQ (n : Node) (k j : Nat) (x : ClassQ) : (n.setQ k x).q j = if j = k then x else n.q j := Tab.get_set _ _ _ _ _

/-! ### Answers: all that a command of each form can do -/

theorem State.byLeaf_next (s t : State) (w : LeafSel) (f : Leaf → Leaf) : s.byLeaf w f = .next t ↔ t = s.onLeaf w f := by
  simp only [State.byLeaf, Host.Outcome.next.injEq]; exact eq_comm

theorem State.byCrown_next (s t : State) (f : Crown → Crown) : s.byCrown f = .next t ↔ t = { s with crown := f s.crown } := by
  simp only [State.byCrown, Host.Outcome.next.injEq]; exact eq_comm

/-- A command that may access HBM changes the crown alone, or faults where it strayed. -/
theorem State.byHbm_cases (s : State) (f : Crown → Crown) :
    ((f s.crown).stray = false ∧ s.byHbm f = .next { s with crown := f s.crown }) ∨ ((f s.crown).stray = true ∧ s.byHbm f = .fault .hbmAddress) := by
  unfold State.byHbm
  cases h : (f s.crown).stray <;> simp

/-- A command on any block that accesses no HBM answers a next state and leaves the queue alone. -/
theorem State.byBlock_next (s : State) (b : Block) (fl : Leaf → Leaf) (fc : Crown → Crown) :
    ∃ t, s.byBlock b fl fc = .next t ∧ t.pending = s.pending := by
  cases b <;> exact ⟨_, rfl, by simp⟩

theorem Leaf.unless_alive (l : Leaf) (f : Leaf → Leaf) : l.unless false f = f l := rfl

theorem Leaf.unless_dead (l : Leaf) (f : Leaf → Leaf) : l.unless true f = l := rfl

/-- A step takes the command at the front. -/
theorem step_cons (s : State) (c : Instr) (q : List Instr) (h : s.pending = c :: q) : step s = exec c { s with pending := q } := by
  simp [step, h, State.rest]

/-- With nothing waiting a step is the tick, or a fault where the tick strayed beyond HBM. -/
theorem step_nil (s : State) (h : s.pending = []) :
    (s.tick.crown.stray = false ∧ step s = .next s.tick) ∨ (s.tick.crown.stray = true ∧ step s = .fault .hbmAddress) := by
  simp only [step, h, State.idle]
  cases hs : s.tick.crown.stray <;> simp

end Sys2Proof.Machine
end

