-- ==== Sys2Proof/Machine/SigText.lean ====
section
/-! DEFINITION. The text form of a failure signature (spec/13_audit.md R344, Table 13.12; the written forms of spec/00_scope.md). -/

namespace Sys2Proof.Machine

/-- A number in decimal. -/
def decText (n : Nat) : String := String.ofList (Nat.toDigits 10 n)

/-- A number in decimal with leading zeros to `w` digits. -/
def decPad (w n : Nat) : String :=
  let d := Nat.toDigits 10 n
  String.ofList (List.replicate (w - d.length) '0' ++ d)

/-- A digit of a hexadecimal number. -/
def hexDigit (n : Nat) : Char := "0123456789ABCDEF".toList.getD n '0'

/-- `4 * g` hexadecimal digits, with an underscore every four digits. -/
def hexGroups (g n : Nat) : String :=
  "0x" ++ String.intercalate "_" ((List.range g).reverse.map (fun i => String.ofList ((List.range 4).reverse.map (fun j => hexDigit (n / 16 ^ (4 * i + j) % 16)))))

/-- One byte in hexadecimal. -/
def hexByte (n : Nat) : String := "0x" ++ String.ofList [hexDigit (n / 16 % 16), hexDigit (n % 16)]

/-- A node word as the canopy address or crown it names (spec/00_scope.md, R16). -/
def nodeText (w : Nat) : String :=
  let pod := decText (bitsOf w 17 12)
  let tray := decText (bitsOf w 11 6)
  match bitsOf w 31 30 with
  | 0 => pod ++ "." ++ tray ++ "." ++ decText (bitsOf w 5 0)
  | 1 => pod ++ "." ++ tray
  | 2 => pod
  | _ => "root " ++ decText (bitsOf w 28 28)

/-- A time word as SEC.NSEC. -/
def timeText (l : List Byte) : String := decText (field l 8 8) ++ "." ++ decPad 9 (field l 4 4)

/-- A field in decimal, or a dash for its value of all ones. -/
def dashText (none_ n : Nat) : String := if n = none_ then "-" else decText n

/-- ERR with 4 digits after the point, to nearest, a tie to the even last digit; none when it is not finite, for which the spec gives no text
(log entry 86). -/
def errText (bits : Nat) : Option String :=
  let e := bitsOf bits 62 52
  let m := bitsOf bits 51 0
  if e = 2047 then none
  else
    let num := 10000 * ((if e = 0 then m else m + 2 ^ 52) * 2 ^ (if e = 0 then 1 else e))
    let q := num / 2 ^ 1075
    let r := num % 2 ^ 1075
    let t := if 2 * r > 2 ^ 1075 ∨ (2 * r = 2 ^ 1075 ∧ q % 2 = 1) then q + 1 else q
    some (decText (t / 10000) ++ "." ++ decPad 4 (t % 10000))

/-- The flags of a signature. -/
def sigFlags (b : Nat) : String :=
  let s := (if bitOf b 0 then "r" else "") ++ (if bitOf b 1 then "h" else "") ++ (if bitOf b 2 then "v" else "") ++ (if bitOf b 3 then "p" else "")
  if s.isEmpty then "-" else s

/-- The text form of a signature from its binary form (Tables 13.11 and 13.12). -/
def signatureText (s : List Byte) : Option String :=
  (errText (field s 88 8)).map (fun err =>
    let kinds := ["TRANSIENT", "PERMANENT", "UNKNOWN", "WEIGHT"]
    let items : List String := ["SIG1",
      "node=" ++ nodeText (field s 4 4), "origin=" ++ nodeText (field s 8 4), "sig=" ++ decText (field s 12 4),
      "class=" ++ ["A", "B", "W"].getD (field s 1 1) "W", "kind=" ++ kinds.getD (field s 2 1 - 1) "WEIGHT", "flags=" ++ sigFlags (field s 3 1),
      "tdesc=" ++ timeText ((s.drop 16).take 16), "tver=" ++ timeText ((s.drop 32).take 16), "eng=" ++ dashText 0xFF (field s 48 1),
      "fmt=" ++ String.intercalate "," [hexByte (field s 49 1), hexByte (field s 50 1), hexByte (field s 51 1)],
      "mnk=" ++ String.intercalate "x" [decText (field s 52 2), decText (field s 54 2), decText (field s 56 4)],
      "tile=" ++ hexGroups 2 (field s 60 4), "tag=" ++ hexGroups 2 (field s 64 4), "tenant=" ++ dashText 0xFFFF (field s 68 2),
      "req=" ++ hexGroups 4 (field s 72 8), "row=" ++ dashText 0xFFFF (field s 80 2), "col=" ++ dashText 0xFFFF (field s 82 2),
      "nrow=" ++ decText (field s 84 2), "ncol=" ++ decText (field s 86 2), "err=" ++ err,
      "die=" ++ hexGroups 4 (field s 96 8), "ref=" ++ hexGroups 4 (field s 104 8), "steps=" ++ decText (field s 112 2), "temp=" ++ decText (field s 114 2)]
    String.intercalate " " items ++ "\n")

end Sys2Proof.Machine
end

