-- ==== Sys2Proof/Tests/Slice0.lean ====
section
/-! SUPPORT. Tests: the well-formedness checks, a state that meets the hypotheses of each statement, and single commands with results that the spec gives. -/

namespace Sys2Proof.Tests

open Sys2Proof Sys2Proof.Machine

set_option maxRecDepth 20000

/-- The state after reset with every domain of the crown released. -/
def up : State := { State.reset with crown := State.reset.crown.s BZ_RST_STAT_IN_RESET 0 }

/-- That state with its crown changed. -/
def upWith (f : Crown → Crown) : State := { up with crown := f up.crown }

/-- The state after reset with its die's leaf changed. -/
def dieWith (f : Leaf → Leaf) : State := State.reset.onLeaf .die f

/-- A die with two lanes (R180). -/
def twoLanes : State := dieWith (·.s TZ_BK_CFG_LANES2 1)

def goodFuses : Fuses := { digests := [zeros 48], revoked := 15, rollback := 3, badCells := [0, 575] }
def goodPins : CrownPins := ⟨goodFuses, ⟨255, false, false⟩⟩
def goodLeafPins : LeafPins := ⟨.die, ⟨255, true, true⟩⟩
def goodTwig : TwigIn := ⟨7, true, 2 ^ 32 - 1, 3, 15, 255, false, [63], some (3, 65535, 2 ^ 48 - 1, 7, 64)⟩
def goodTrc : TrcIn := ⟨7, 2 ^ 64 - 1, false, 3, 63, none⟩
def goodTrcData : TrcData := ⟨true, 3, 3, 2 ^ 64 - 1, 2 ^ 64 - 1⟩
def goodCodeword : CodewordHeard := ⟨List.replicate 544 0, none, []⟩

/-! ### WellFormed -/

theorem test_wellFormed_refuses_0 : ([
    .aonResetRelease 4 true goodPins, .aonResetRelease 0 true { goodPins with fuses := { goodFuses with digests := List.replicate 5 (zeros 48) } },
    .aonResetRelease 0 true { goodPins with fuses := { goodFuses with digests := [zeros 47] } },
    .aonResetRelease 0 true { goodPins with fuses := { goodFuses with revoked := 16 } },
    .aonResetRelease 0 true { goodPins with fuses := { goodFuses with badCells := [576] } },
    .aonResetRelease 0 true { goodPins with self := ⟨256, false, false⟩ }, .lAonResetRelease ⟨.own, ⟨256, true, true⟩⟩, .resetAssert .die 6,
    .resetAssert .own 6, .resetAssert .crown 18, .twigResetAssert .die 256, .twigResetRelease .die 256, .traceCoreReset 4,
    .registerWrite .die ⟨65536, 15⟩ 0 0 0 true, .registerWrite .own ⟨65536, 15⟩ 0 0 0 true, .registerWrite .crown ⟨2 ^ 24, 15⟩ 0 0 0 true,
    .registerWrite .die ⟨0, 2 ^ 64⟩ 0 0 0 true, .registerWrite .die ⟨0, 15⟩ (2 ^ 32) 0 0 true, .registerWrite .die ⟨0, 15⟩ 0 4 0 true,
    .registerWrite .die ⟨0, 15⟩ 0 0 65536 true, .rcRead .die ⟨65536, 15⟩ 0 0 true, .rcRead .own ⟨65536, 15⟩ 0 0 true,
    .rcRead .crown ⟨2 ^ 24, 15⟩ 0 0 true, .rcRead .die ⟨0, 2 ^ 64⟩ 0 0 true, .rcRead .die ⟨0, 15⟩ 4 0 true, .rcRead .die ⟨0, 15⟩ 0 65536 true,
    .registerPortRequest true 65536 0 0 0 0, .registerPortRequest true 0 16 0 0 0, .registerPortRequest true 0 0 (2 ^ 32) 0 0,
    .registerPortRequest true 0 0 0 4 0, .registerPortRequest true 0 0 0 0 65536, .timeNowCapture .die 4, .exchangeStart 73 0, .exchangeStart 0 73,
    .tsync .die 2 [] none true true, .tsync .own 2 [] none true true, .tsync .crown 73 [] none true true, .tsync .die 0 [] (some ⟨0, 64⟩) true true,
    .tdelay 73 [] ⟨none, false, false⟩, .tdelay 0 [] ⟨some ⟨0, 64⟩, false, false⟩, .tresp .die 2 [] true, .tresp .own 2 [] true,
    .tresp .crown 73 [] true, .todMessage (List.replicate 17 0), .captureEdge .die 8 true, .capturePop .die 8, .pulseArm .die 4,
    .pulseTakeover .die 4, .pulseEdge .die 4, .pulseEnableWrite .die 4 true, .enumReturn .die 257 0 [], .enumReturn .die 0 65536 [],
    .enumReturn .die 0 0 [⟨0, 0, false⟩], .enumReturn .die 1 0 [], .enumReturn .die 1 0 [⟨511, 0, true⟩], .enumReturn .die 1 0 [⟨510, 16, false⟩],
    .twigHostCycle .die 256 goodTwig, .twigHostCycle .die 0 { goodTwig with state := 8 }, .twigHostCycle .die 0 { goodTwig with tag := 2 ^ 32 },
    .twigHostCycle .die 0 { goodTwig with priv := 4 }] : List Instr).all (fun i => !i.wellFormed) = true := by decide

theorem test_wellFormed_refuses_1 : ([
    .twigHostCycle .die 0 { goodTwig with nIssue := 16 }, .twigHostCycle .die 0 { goodTwig with nFlush := 256 },
    .twigHostCycle .die 0 { goodTwig with ext := List.replicate 33 0 }, .twigHostCycle .die 0 { goodTwig with ext := [64] },
    .twigHostCycle .die 0 { goodTwig with txn := some (4, 0, 0, 0, 0) }, .twigHostCycle .die 0 { goodTwig with txn := some (0, 65536, 0, 0, 0) },
    .twigHostCycle .die 0 { goodTwig with txn := some (0, 0, 2 ^ 48, 0, 0) }, .twigHostCycle .die 0 { goodTwig with txn := some (0, 0, 0, 8, 0) },
    .twigHostCycle .die 0 { goodTwig with txn := some (0, 0, 0, 0, 65) }, .twigCfgApply .die 256, .flushResume .die 256, .marker .die 8 0 0 0,
    .marker .die 0 (2 ^ 32) 0 0, .marker .die 0 0 4 0, .marker .die 0 0 0 65536, .sweepDue .die 8, .counterWindowRead .die 4096 0,
    .counterWindowRead .die 0 4, .twigCfgGo .die true 256 0, .twigCfgGo .die true 0 (2 ^ 32), .eventBeat .die 256, .sensorSample .die 64 0,
    .sensorSample .die 0 65536, .watchUnitWrite .die 32 0 0, .watchUnitWrite .die 0 3 0, .watchUnitWrite .die 0 0 (2 ^ 32),
    .guardInject .die true 32 0, .guardInject .die true 0 4, .fenceClr .die (2 ^ 32) 0, .fenceClr .die 0 4, .wclassChange .die 8 true,
    .holdoffExpire .die 32, .vfResponse .die (2 ^ 32), .vfTimeout .die 8, .vfReq .die (2 ^ 32), .margin .die 8 0, .margin .die 0 256,
    .ageingPoint 65 0 0 0 [], .ageingPoint 0 64 0 0 [], .ageingPoint 0 0 (2 ^ 32) 0 [], .ageingPoint 0 0 0 576 [], .ageingPoint 0 0 0 0 [(64, 0)],
    .ageingPoint 0 0 0 0 [(0, 256)], .traceRetire 4 goodTrc, .traceRetire 0 { goodTrc with n := 8 }, .traceRetire 0 { goodTrc with pc := 2 ^ 64 },
    .traceRetire 0 { goodTrc with kind := 4 }, .traceRetire 0 { goodTrc with cause := 64 },
    .traceRetire 0 { goodTrc with data := some { goodTrcData with size := 4 } },
    .traceRetire 0 { goodTrc with data := some { goodTrcData with pos := 4 } },
    .traceRetire 0 { goodTrc with data := some { goodTrcData with addr := 2 ^ 64 } },
    .traceRetire 0 { goodTrc with data := some { goodTrcData with value := 2 ^ 64 } }, .loss 4, .lpEnter 4, .traceLpExit 4, .traceCtrlWrite .die 4 0,
    .traceCtrlWrite .die 0 (2 ^ 32), .recordEnqueue .die 2 0 0 [], .recordEnqueue .own 2 0 0 [], .recordEnqueue .crown 73 0 0 []] : List Instr).all (fun i => !i.wellFormed) = true := by decide

theorem test_wellFormed_refuses_2 : ([
    .recordEnqueue .die 0 256 0 [], .recordEnqueue .die 0 0 8 [], .frameClose .die 2 0, .frameClose .own 2 0, .frameClose .crown 73 0,
    .frameClose .die 0 8, .frameSelect .die 2, .frameSelect .own 2, .frameSelect .crown 73, .replayStart .die 2 0, .replayStart .own 2 0,
    .replayStart .crown 73 0, .replayStart .die 0 8, .frameReceive .die 2 [], .frameReceive .own 2 [], .frameReceive .crown 73 [], .dead 73 0,
    .dead 0 8, .levelRise .die 2 0, .levelRise .own 2 0, .levelRise .crown 73 0, .levelRise .die 0 8, .levelFall .die 2 0, .levelFall .own 2 0,
    .levelFall .crown 73 0, .levelFall .die 0 8, .qsizeWrite .die 8 0, .qsizeWrite .die 0 (2 ^ 32), .start .die 4, .crcData .die 4 0,
    .crcData .die 0 (2 ^ 32), .restore .die (2 ^ 40) 0, .restore .die 0 (2 ^ 24), .powerUp 64 0, .powerUp 0 8, .rlogRstPort (2 ^ 32),
    .mirrorRecord 66 [], .mirrorAck .die 66 0, .mirrorAck .die 0 (2 ^ 32), .rlogRead .die (2 ^ 32) 0, .rlogRead .die 0 4, .read .die (2 ^ 32) 0,
    .read .die 0 (2 ^ 32), .data 66 [], .mirrorRead (2 ^ 32) 0 0, .mirrorRead 0 (2 ^ 32) 0, .mirrorRead 0 0 (2 ^ 32),
    .rlogClear .die (2 ^ 32) 0 0 (zeros 16), .rlogClear .die 0 (2 ^ 24) 0 (zeros 16), .rlogClear .die 0 0 (2 ^ 64) (zeros 16),
    .rlogClear .die 0 0 0 (List.replicate 15 0), .laneEnWrite .die 2 true, .laneEnWrite .own 2 true, .laneEnWrite .crown 73 true,
    .retrainWrite .die 2, .retrainWrite .own 2, .retrainWrite .crown 73, .retrain .die 2, .retrain .own 2, .retrain .crown 73] : List Instr).all (fun i => !i.wellFormed) = true := by decide

theorem test_wellFormed_refuses_3 : ([
    .trainStepEnd .die 2 [], .trainStepEnd .own 2 [], .trainStepEnd .crown 73 [], .trainStepEnd .die 0 [2 ^ 224 * 2 ^ 224], .probeHeard .die 2 0 0,
    .probeHeard .own 2 0 0, .probeHeard .crown 73 0 0, .probeHeard .die 0 (2 ^ 32) 0, .probeHeard .die 0 0 16384,
    .trainingFrame .die 2 ⟨zeros 128, []⟩, .trainingFrame .own 2 ⟨zeros 128, []⟩, .trainingFrame .crown 73 ⟨zeros 128, []⟩,
    .trainingFrame .die 0 ⟨zeros 127, []⟩, .trainingFrame .die 0 ⟨zeros 128, [2 ^ 224 * 2 ^ 224]⟩, .trialVerdict .die 2, .trialVerdict .own 2,
    .trialVerdict .crown 73, .retry .die 2, .retry .own 2, .retry .crown 73, .laneDown .die 2 0, .laneDown .own 2 0, .laneDown .crown 73 0,
    .laneDown .die 0 3, .silentEnd .die 2, .silentEnd .own 2, .silentEnd .crown 73, .codewordReceive .die 2 goodCodeword,
    .codewordReceive .own 2 goodCodeword, .codewordReceive .crown 73 goodCodeword,
    .codewordReceive .die 0 { goodCodeword with symbols := List.replicate 543 0 },
    .codewordReceive .die 0 { goodCodeword with symbols := 1024 :: List.replicate 543 0 },
    .codewordReceive .die 0 { goodCodeword with marker := some ⟨0, 64⟩ }, .codewordReceive .die 0 { goodCodeword with adc := [2 ^ 224 * 2 ^ 224] },
    .keepaliveSend .die 2 0 1, .keepaliveSend .own 2 0 1, .keepaliveSend .crown 73 0 1, .keepaliveSend .die 0 0 0, .keepalive .die 2 (zeros 64),
    .keepalive .own 2 (zeros 64), .keepalive .crown 73 (zeros 64), .keepalive .die 0 (List.replicate 63 0), .lqWindowEnd .die 2 0 1 [],
    .lqWindowEnd .own 2 0 1 [], .lqWindowEnd .crown 73 0 1 [], .lqWindowEnd .die 0 0 0 [], .lqWindowEnd .die 0 0 1 [2 ^ 224 * 2 ^ 224],
    .modeReq .die 2 none, .modeReq .own 2 none, .modeReq .crown 73 none, .modeReq .die 0 (some 8), .modeAck .die 2 0, .modeAck .own 2 0,
    .modeAck .crown 73 0, .modeAck .die 0 8, .modeGo .die 2 0, .modeGo .own 2 0, .modeGo .crown 73 0, .modeGo .die 0 8, .modeChangeTimeout .die 2] : List Instr).all (fun i => !i.wellFormed) = true := by decide

theorem test_wellFormed_refuses_4 : ([
    .modeChangeTimeout .own 2, .modeChangeTimeout .crown 73, .windowClose 256, .agg 73 [], .raw 73 [], .shift 73 [], .load 73 [], .req 4, .go 73,
    .gateTakeover 73, .nsampRead 73 0 0 0, .nsampRead 0 8 0 0, .nsampRead 0 0 4 0, .nsampRead 0 0 0 65536, .strictDiscard 73, .remap 4 0 0,
    .remap 0 128 0, .remap 0 0 256, .retire 4 ⟨0, 0⟩, .retire 0 ⟨128, 0⟩, .retire 0 ⟨0, 256⟩, .queueTailWrite (.engine 8) 0,
    .queueTailWrite (.tree 4) 0, .queueTailWrite (.grove 4) 0, .queueTailWrite (.view 64 0) 0, .queueTailWrite (.view 0 3) 0,
    .queueTailWrite (.engine 0) (2 ^ 32), .cplHeadWrite (.engine 8) 0, .cplHeadWrite (.tree 4) 0, .cplHeadWrite (.grove 4) 0,
    .cplHeadWrite (.view 64 0) 0, .cplHeadWrite (.view 0 3) 0, .cplHeadWrite (.engine 0) (2 ^ 32), .jobStart 8, .jobComplete 8, .engineFault 8 0 0,
    .engineFault 0 9 0, .engineFault 0 0 576, .engineFault 0 0 0x3FE, .engineFault 0 0 0x400, .abortQueue true 8, .hbmTrained 8 true,
    .vectorForm 256, .loadEnsemble 16 0, .loadEnsemble 0 (2 ^ 32), .ensembleLoaded 16 true, .unload 16, .treeJobStart 4, .treeJobComplete 4,
    .treeFault 4 0, .treeFault 0 3, .refitComplete 8 true, .budgetHourEnd 256, .rebase 256, .resetRuns 256, .fetchResponse 65536 [] true,
    .config (2 ^ 32) 0, .config 0 (2 ^ 64), .boost 256 0 0, .boost 0 (2 ^ 32) 0] : List Instr).all (fun i => !i.wellFormed) = true := by decide

theorem test_wellFormed_refuses_5 : ([
    .boost 0 0 (2 ^ 32), .sampleComplete 64 0, .sampleComplete 0 (2 ^ 32), .replay (2 ^ 32), .replayResult 65 0, .replayResult 0 (2 ^ 32),
    .engClear 64 0, .engClear 0 256, .wdigest 16, .rehearse 64 0, .rehearse 0 256, .healthInput 64 0 [], .healthInput 0 256 [], .gradeRise 64,
    .place 4, .releaseJob 4, .deadFailTimeout 64, .vacancyFill 16, .hold 64, .unhold 64, .fail 64, .reinstate 64, .standIn 4096 true,
    .hwTagCycle 256 0 true 0 0 0, .hwTagCycle 0 8 true 0 0 0, .hwTagCycle 0 0 true 65536 0 0, .hwTagCycle 0 0 true 0 (2 ^ 64) 0, .requestEnd 65536 0,
    .requestEnd 0 (2 ^ 64), .powerSample 65536 0, .powerSample 0 65536, .hwRelease (2 ^ 32), .tamper 256, .attest (List.replicate 15 0),
    .readLog (2 ^ 32), .setConfig (2 ^ 32) [] (zeros 64), .setConfig 0 [] (List.replicate 63 0), .heartSeal (2 ^ 32) (zeros 64),
    .heartSeal 0 (List.replicate 63 0), .heartUnseal (2 ^ 32) (zeros 64), .heartUnseal 0 (List.replicate 63 0), .clearTamper (2 ^ 32) (zeros 64),
    .clearTamper 0 (List.replicate 63 0), .meterRelayRestore 64, .bist [576], .assign .die (2 ^ 32) 0, .assign .die 0 (2 ^ 32), .assignAck 64 0 0,
    .assignAck 0 256 0, .assignAck 0 0 (2 ^ 32), .regWrite .die (2 ^ 32) [], .regWrite .die 0 [(65536, 0)], .regWrite .die 0 [(0, 2 ^ 32)],
    .regDone 64 0, .regDone 0 256, .bcastReq 73 [], .ackSend 2, .ackByExpire 2, .commit (2 ^ 32) 0, .commit 0 (2 ^ 128)] : List Instr).all (fun i => !i.wellFormed) = true := by decide

theorem test_wellFormed_refuses_6 : ([
    .abortBroadcast (2 ^ 32), .broadcastDiscard 2, .jobAck (some (72, [])), .jobFifoPop .die 4, .clockFail .die 9, .clockFail .own 9,
    .clockFail .crown 20, .clockReturn .die 9, .clockReturn .own 9, .clockReturn .crown 20, .pllLock 18, .clkCtrlWrite 18 0,
    .clkCtrlWrite 0 (2 ^ 32), .clockSwitchDone 18, .pllLockTimeout 18, .rstCmd (2 ^ 32), .fwLoadData (2 ^ 32) 0, .fwLoadData 0 65536,
    .wdogKick (2 ^ 32) 0, .wdogKick 0 65536, .viewRingEnable 64 0 0, .viewRingEnable 0 3 0, .viewRingEnable 0 0 (2 ^ 32), .viewCompletion 3,
    .viewDmaGo 64 true, .lLinkResetRelease .die 2, .pmbusAlert [65536], .dfiPhyRequest 8 true, .modeSwitch .die 2 true, .modeSwitch .own 2 true,
    .modeSwitch .crown 73 true, .modeLocked .die 2, .modeLocked .own 2, .modeLocked .crown 73, .viewDmaDone 64 []] : List Instr).all (fun i => !i.wellFormed) = true := by decide

theorem test_wellFormed_accepts_0 : ([
    .aonResetRelease 0 true goodPins, .lAonResetRelease goodLeafPins, .resetAssert .die 0, .timeResetRelease .die, .lSapResetRelease .die,
    .twigResetAssert .die 0, .twigResetRelease .die 0, .traceCoreReset 0, .registerWrite .die ⟨0, 15⟩ 0 0 0 true, .rcRead .die ⟨0, 15⟩ 0 0 true,
    .registerPortRequest true 0 0 0 0 0, .rehomeStart, .rehomeReturn, .root1Activate, .timeNowCapture .die 0, .exchangeStart 0 0,
    .tsync .die 0 [] none true true, .tdelay 0 [] ⟨none, false, false⟩, .tresp .die 0 [] true, .holdoverEnter .die, .boundHoldoverUpdate .die,
    .ppsEdge, .todMessage (zeros 18), .timeSetGo, .captureEdge .die 0 true, .capturePop .die 0, .pulseArm .die 0, .pulseTakeover .die 0,
    .pulseEdge .die 0, .pulseEnableWrite .die 0 true, .enumReturn .die 0 0 [], .readTimeout .die, .twigHostCycle .die 0 goodTwig,
    .twigCfgApply .die 0, .flushBins .die, .flushResume .die 0, .marker .die 0 0 0 0, .sweepDue .die 0, .sweepStart .die, .readResponse .die,
    .sweepComplete .die, .groupCfgApply .die, .sapEnWrite .die true, .counterWindowRead .die 0 0, .twigCfgGo .die true 0 0, .cresp .die true,
    .twigCfgTimeout .die, .eventBeat .die 0, .sensorSample .die 0 0, .rateWindowEnd .die, .watchUnitWrite .die 0 0 0, .guardInject .die true 0 0,
    .fenceClr .die 0 0, .wclassChange .die 0 true, .holdoffExpire .die 0, .vfRequest .die, .vfResponse .die 0, .vfTimeout .die 0, .vfReq .die 0,
    .margin .die 0 0, .ageingPoint 0 0 0 0 [], .traceRetire 0 goodTrc, .loss 0, .lpEnter 0, .traceLpExit 0, .traceCtrlWrite .die 0 0,
    .traceDrain .die, .recordEnqueue .die 0 0 0 [], .frameClose .die 0 0, .frameSelect .die 0, .alivePeriodEnd .die, .replayStart .die 0 0,
    .frameReceive .die 0 [], .dead 0 0, .tstatusPeriodic .die, .levelRise .die 0 0, .levelFall .die 0 0, .qsizeWrite .die 0 0, .start .die 0,
    .crcData .die 0 0, .restore .die 0 0, .powerUp 0 0, .opsecSave, .rlogRstPort 0, .mirrorRecord 0 [], .mirrorAck .die 0 0, .rlogRead .die 0 0,
    .read .die 0 0, .data 0 [], .mirrorRead 0 0 0, .clearTicket [], .rlogClear .die 0 0 0 (zeros 16), .laneEnWrite .die 0 true, .retrainWrite .die 0,
    .retrain .die 0, .trainStepEnd .die 0 [], .probeHeard .die 0 0 0, .trainingFrame .die 0 ⟨zeros 128, []⟩, .trialVerdict .die 0, .retry .die 0] : List Instr).all Instr.wellFormed = true := by decide

theorem test_wellFormed_accepts_1 : ([
    .echoEngineGrant, .downlinkPassStart, .batchStart, .laneDown .die 0 0, .silentEnd .die 0, .codewordReceive .die 0 goodCodeword,
    .keepaliveSend .die 0 0 1, .keepalive .die 0 (zeros 64), .lqWindowEnd .die 0 0 1 [], .modeReq .die 0 none, .modeAck .die 0 0, .modeGo .die 0 0,
    .modeChangeTimeout .die 0, .windowClose 0, .agg 0 [], .raw 0 [], .loadInterval true, .shift 0 [], .load 0 [], .req 0, .grant [], .deny [],
    .flexTimeout, .release, .shaperRefill, .go 0, .gateTakeover 0, .queueSample, .nsampRead 0 0 0 0, .strictDiscard 0, .remap 0 0 0,
    .retire 0 ⟨0, 0⟩, .cmapDone, .queueTailWrite (.engine 0) 0, .cplHeadWrite (.engine 0) 0, .jobStart 0, .jobComplete 0, .engineFault 0 0 0,
    .abortQueue true 0, .hbmTrained 0 true, .vectorForm 0, .loadEnsemble 0 0, .ensembleLoaded 0 true, .unload 0, .treeJobStart 0, .treeJobComplete 0,
    .treeFault 0 0, .windowProcess, .refitComplete 0 true, .budgetHourEnd 0, .rebase 0, .resetRuns 0, .auditDescriptor [] [], .fetchIssue,
    .fetchResponse 0 [] true, .retentionExpire, .result, .config 0 0, .boost 0 0 0, .lock, .sampleComplete 0 0, .recomputeComplete, .replay 0,
    .replayDone true, .replayResult 0 0, .engClear 0 0, .reseed, .wdigest 0, .weightRoundEnd, .rehearse 0 0, .healthInput 0 0 [], .gradeRise 0,
    .place 0, .releaseJob 0, .resp [], .summary, .groveStale, .deadFailTimeout 0, .vacancyFill 0, .hold 0, .unhold 0, .fail 0, .reinstate 0,
    .standIn 0 true, .hwResetRelease true, .hwTagCycle 0 0 true 0 0 0, .requestEnd 0 0, .powerSample 0 0, .subintervalEnd, .hwIntervalEnd,
    .hwRelease 0, .tamper 0, .oscFault true, .getId, .attest (zeros 16), .hwRestore [], .readLog 0, .setConfig 0 [] (zeros 64),
    .heartSeal 0 (zeros 64), .heartUnseal 0 (zeros 64)] : List Instr).all Instr.wellFormed = true := by decide

theorem test_wellFormed_accepts_2 : ([
    .clearTamper 0 (zeros 64), .cmdReject [], .meterRelayRestore 0, .romBoot none none, .bist [], .admissionCheck, .ready, .nvmRead .die [],
    .assign .die 0 0, .assignAck 0 0 0, .regWrite .die 0 [], .regDone 0 0, .warm, .topologyCheck, .offer true [], .chunk [], .bcastReq 0 [], .ack [],
    .ackSend 0, .ackByExpire 0, .commit 0 0, .broadcastApply, .abortBroadcast 0, .broadcastDiscard 0, .jobArm .die [], .jobAck none, .jobGo .die [],
    .jobCancel .die [], .jobTGo .die, .jobReport none, .jobFifoPop .die 0, .modeEnter, .modeExit, .rehearsalDue, .rehearsalDetectTimeout,
    .rehearsalPass, .rehearsalAbort, .laneHoldEnd, .clockFail .die 0, .clockReturn .die 0, .pllLock 0, .clkCtrlWrite 0 0, .clockSwitchDone 0,
    .pllLockTimeout 0, .rstCmd 0, .fwLoadData 0 0, .fwLoadGo, .wdogKick 0 0, .wdogExpire, .features [], .hostEnter [], .hostExit [],
    .pcieLinkDownTimeout, .move [], .configCommand [], .jobStartCommand [], .viewCreate [], .viewDestroy [], .viewFreeze [], .viewThaw [],
    .viewSave [] [], .viewRestore [] [], .viewRingEnable 0 0 0, .viewDispatch 0, .viewCompletion 0, .viewDmaGo 0 true, .replayExpire, .nohbmDeadline,
    .lLinkResetRelease .die 0, .lHostResetRelease .die, .pmbusAlert [], .dfiPhyRequest 0 true, .modeSwitch .die 0 true, .modeLocked .die 0,
    .viewDmaDone 0 [], .moveDone [], .jobStartDone] : List Instr).all Instr.wellFormed = true := by decide

/-! ### Witnesses of the completion statements -/

/-- Hypotheses of the completion statements that a leaf's unit is not stopped: on the die and in the self leaf, at both bounds. -/
theorem witness_leaf_units_run :
    free State.reset.leaf = false ∧
    State.reset.leaf.sapHeld = false ∧ State.reset.crown.self.sapHeld = false ∧
    State.reset.leaf.timeDead = false ∧ State.reset.crown.self.timeDead = false ∧
    State.reset.leaf.guardDead = false ∧ State.reset.crown.self.guardDead = false ∧
    State.reset.leaf.aonDead = false ∧ State.reset.crown.self.aonDead = false ∧ State.reset.leaf.hostDead = false ∧
    State.reset.leaf.laneDead 0 = false ∧ twoLanes.leaf.laneDead 1 = false ∧ State.reset.crown.self.laneDead 0 = false ∧
    State.reset.leaf.trcDead 0 = false ∧ State.reset.leaf.trcDead 3 = false := by decide

/-- Hypotheses of the completion statements that a crown's unit is not stopped. -/
theorem witness_crown_units_run :
    free up.crown = false ∧ up.crown.timeDead = false ∧ up.crown.laneDead 0 = false ∧ up.crown.laneDead 31 = false ∧ up.crown.laneDead 32 = false ∧
    up.crown.laneDead 63 = false ∧ up.crown.laneDead 64 = false ∧ up.crown.laneDead 71 = false ∧ up.crown.laneDead 72 = false := by decide

/-- No HBM address that does not exist is accessed by the Reset commands named at an idle crown, at the bounds of their operands. -/
theorem witness_ResetCommandsComplete_hbm : ([
    (up.crown.assertDomain 0),
    (up.crown.assertDomain 17),
    (up.crown.unless (!wholeWord (⟨0, 15⟩ : Place).off (⟨0, 15⟩ : Place).be) (fun c => (c.noteDefer (⟨0, 15⟩ : Place).off 0 false).busWrite (⟨0, 15⟩ : Place).off 0 0 0)),
    (up.crown.unless (!wholeWord (⟨0xFFFFFC, 15⟩ : Place).off (⟨0xFFFFFC, 15⟩ : Place).be) (fun c => (c.noteDefer (⟨0xFFFFFC, 15⟩ : Place).off 0xFFFF true).busWrite (⟨0xFFFFFC, 15⟩ : Place).off 0xFFFFFFFF 3 0xFFFF)),
    (Crown.modeEnter up.crown),
    (Crown.modeExit up.crown),
    (up.crown.clockReturn 0),
    (up.crown.clockReturn 17),
    (up.crown.rstCmd 0)] : List Crown).all (fun c => !c.stray) = true := by decide

/-- No HBM address that does not exist is accessed by the Guard commands named at an idle crown, at the bounds of their operands. -/
theorem witness_GuardCommandsComplete_hbm : ([
    (up.crown.ageingPoint 0 0 0 0 ([])),
    (up.crown.ageingPoint 63 63 0xFFFFFFFF 575 ([(63, 255)]))] : List Crown).all (fun c => !c.stray) = true := by decide

/-- No HBM address that does not exist is accessed by the Sap commands named at an idle crown, at the bounds of their operands. -/
theorem witness_SapCommandsComplete_hbm : ([
    (Crown.selfSelect up.crown),
    (up.crown.frameSelect 0),
    (up.crown.frameSelect 72),
    ((up.crown.frameReceive 0 ([])).flexMove),
    ((up.crown.frameReceive 72 ([0xFF, 1, 2])).flexMove),
    (up.crown.deadCheck 0 0),
    (up.crown.deadCheck 72 7)] : List Crown).all (fun c => !c.stray) = true := by decide

/-- No HBM address that does not exist is accessed by the Traffic commands named at an idle crown, at the bounds of their operands. -/
theorem witness_TrafficCommandsComplete_hbm : ([
    (up.crown.remap 0 0 0),
    (up.crown.ringRegister (.engine 0) (ringOf (.engine 0)).tail.off 0),
    (up.crown.ringRegister (.view 63 2) (ringOf (.view 63 2)).tail.off 0xFFFFFFFF),
    (up.crown.ringRegister (.engine 0) (ringOf (.engine 0)).cplHead.off 0),
    (up.crown.ringRegister (.view 63 2) (ringOf (.view 63 2)).cplHead.off 0xFFFFFFFF),
    (up.crown.engineStart 0),
    (up.crown.engineStart 7),
    (up.crown.engineFinish 0),
    (up.crown.engineFinish 7),
    (up.crown.engineFault 0 0 0),
    (up.crown.engineFault 7 8 575),
    (up.crown.abortRing false 0),
    (up.crown.abortRing true 7)] : List Crown).all (fun c => !c.stray) = true := by decide

/-- No HBM address that does not exist is accessed by the Tree commands named at an idle crown, at the bounds of their operands. -/
theorem witness_TreeCommandsComplete_hbm : ([
    (up.crown.vectorForm 0),
    (up.crown.vectorForm 255),
    (up.crown.ensLoaded 0 false),
    (up.crown.ensLoaded 15 true),
    (up.crown.treeBegin 0),
    (up.crown.treeBegin 3),
    (up.crown.treeFinish 0),
    (up.crown.treeFinish 3),
    (up.crown.treeFault 0 0),
    (up.crown.treeFault 3 2),
    (Crown.windowStep up.crown),
    (up.crown.refitComplete 0 false),
    (up.crown.refitComplete 3 true),
    (up.crown.rebase 0),
    (up.crown.rebase 255)] : List Crown).all (fun c => !c.stray) = true := by decide

/-- No HBM address that does not exist is accessed by the Audit commands named at an idle crown, at the bounds of their operands. -/
theorem witness_AuditCommandsComplete_hbm : ([
    (up.crown.sampleComplete 0 0),
    (up.crown.sampleComplete 63 0xFFFFFFFF),
    (Crown.recomputeComplete up.crown),
    (up.crown.replayResult 0 0),
    (up.crown.replayResult 63 0xFFFFFFFF),
    (Crown.weightRoundEnd up.crown),
    (up.crown.healthInput 0 0 ([])),
    (up.crown.healthInput 63 255 ([0xFF, 1, 2])),
    (up.crown.groveServe 0 false),
    (up.crown.groveServe 3 false),
    (up.crown.groveServe 0 true),
    (up.crown.groveServe 3 true),
    (up.crown.takeResp ([])),
    (up.crown.takeResp ([0xFF, 1, 2])),
    (up.crown.deadFail 0),
    (up.crown.deadFail 63),
    (up.crown.vacancyFill 0),
    (up.crown.vacancyFill 15),
    (up.crown.portCommand 0 0),
    (up.crown.portCommand 0 63),
    (up.crown.portCommand 1 0),
    (up.crown.portCommand 1 63),
    (up.crown.portCommand 2 0),
    (up.crown.portCommand 2 63),
    (up.crown.portCommand 3 0),
    (up.crown.portCommand 3 63)] : List Crown).all (fun c => !c.stray) = true := by decide

/-- No HBM address that does not exist is accessed by the BringUp commands named at an idle crown, at the bounds of their operands. -/
theorem witness_BringUpCommandsComplete_hbm : ([
    (up.crown.boot (none : Option (List Byte)) (none : Option (List Byte))),
    (up.crown.boot ((some [1]) : Option (List Byte)) ((some []) : Option (List Byte))),
    (Crown.admission up.crown),
    (Crown.nohbm up.crown),
    (Crown.warm up.crown),
    (up.crown.chunk ([])),
    (up.crown.chunk ([0xFF, 1, 2])),
    (Crown.bcApply up.crown)] : List Crown).all (fun c => !c.stray) = true := by decide

/-- No HBM address that does not exist is accessed by the Host commands named at an idle crown, at the bounds of their operands. -/
theorem witness_HostCommandsComplete_hbm : ([
    (up.crown.busWrite BZ_FW_LOAD_DATA 0 3 0),
    (up.crown.busWrite BZ_FW_LOAD_DATA 0xFFFFFFFF 3 0xFFFF),
    (Crown.fwLoadGo up.crown),
    (up.crown.busWrite BZ_WDOG_KICK 0 3 0),
    (up.crown.busWrite BZ_WDOG_KICK 0xFFFFFFFF 3 0xFFFF),
    (Crown.wdogExpire up.crown),
    (up.crown.mailbox 1 ([])),
    (up.crown.mailbox 1 ([0xFF, 1, 2])),
    (up.crown.mailbox 2 ([])),
    (up.crown.mailbox 2 ([0xFF, 1, 2])),
    (up.crown.mailbox 3 ([])),
    (up.crown.mailbox 3 ([0xFF, 1, 2])),
    (Crown.linkDown up.crown),
    (up.crown.mailbox 4 ([])),
    (up.crown.mailbox 4 ([0xFF, 1, 2])),
    (up.crown.moveDone ([])),
    (up.crown.moveDone ([0xFF, 1, 2])),
    (up.crown.mailbox 5 ([])),
    (up.crown.mailbox 5 ([0xFF, 1, 2])),
    (up.crown.mailbox 6 ([])),
    (up.crown.mailbox 6 ([0xFF, 1, 2])),
    (up.crown.mailbox 0x10 ([])),
    (up.crown.mailbox 0x10 ([0xFF, 1, 2])),
    (up.crown.mailbox 0x11 ([])),
    (up.crown.mailbox 0x11 ([0xFF, 1, 2])),
    (up.crown.mailbox 0x12 ([])),
    (up.crown.mailbox 0x12 ([0xFF, 1, 2])),
    (up.crown.mailbox 0x13 ([])),
    (up.crown.mailbox 0x13 ([0xFF, 1, 2])),
    (up.crown.viewSaveCommand ([]) ([])),
    (up.crown.viewSaveCommand ([0xFF, 1, 2]) ([0xFF, 1, 2])),
    (up.crown.viewRestoreCommand ([]) ([])),
    (up.crown.viewRestoreCommand ([0xFF, 1, 2]) ([0xFF, 1, 2])),
    (State.reset.crown.viewTurn 0),
    (up.crown.viewCompletion 0),
    (up.crown.viewCompletion 2),
    (up.crown.dmaDone 0 ([])),
    (up.crown.dmaDone 63 ([0xFF, 1, 2]))] : List Crown).all (fun c => !c.stray) = true := by decide

/-! ### Witnesses of the other statements -/

/-- The tick of the reset state accesses no HBM address that does not exist. -/
theorem reset_tick_near : State.reset.tick.crown.stray = false := by decide

/-- A job that runs on quadrant 0, fenced, with its completion ring beyond HBM. -/
def fencedJob : State := upWith (fun c =>
  ({ c.s (BZ_EQk_CPL_BASE_PAGE 0) (2 ^ 28 - 1) with self := c.self.s (TZ_GRDg_STAT_FENCE 0) 1 } : Crown).setEngJob 0
    (some (EngJob.begin [byte 1 ++ zeros 21 ++ le 2 1 ++ zeros 72] ⟨0, .locked⟩ 0 0)))

theorem witness_EmptyQueueTicks : (State.reset.pending = [] ∧ State.reset.tick.crown.stray = false) ∧ (fencedJob.pending = [] ∧ fencedJob.tick.crown.stray = true) ∧
    (State.reset.crown.grove.claims = [] ∧ (∀ k, k < 8 → State.reset.crown.engJob k = none) ∧ State.reset.crown.stray = false) :=
  ⟨⟨rfl, reset_tick_near⟩, by decide, by decide⟩

theorem witness_PartWordAccess : bitOf State.reset.leaf.boot.held 3 = false ∧ bitOf State.reset.leaf.boot.held 0 = false ∧
    ((1 % 4 ≠ 0 ∨ 0xF ≠ 0xF ∨ 0 = 0xFFFF) ∧ (0 % 4 ≠ 0 ∨ 7 ≠ 0xF ∨ 0 = 0xFFFF) ∧ (0 % 4 ≠ 0 ∨ 0xF ≠ 0xF ∨ 0xFFFF = 0xFFFF)) ∧
    (⟨0xFFFF, 0xF⟩ : Place).off % 4 ≠ 0 ∧ (⟨0, 7⟩ : Place).be ≠ 0xF ∧ State.reset.crown.stray = false := by decide

theorem witness_UnmappedLeafOffset : (findReg leafTable 0x3FC).isNone = true ∧ (findReg leafTable 0xFFFF).isNone = true ∧
    (findReg leafTable 1).isNone = true := by decide

theorem witness_DieResetsSpareHeartwood : (0 < 6 ∧ 5 < 6) ∧ (0xC000 ≤ 0xC000 ∧ 0xC000 < 0x10000) ∧ (0xC000 ≤ 0xFFFF ∧ 0xFFFF < 0x10000) := by decide

theorem witness_TwigReleased : 0 < 16 ∧ 15 < 16 := by decide

/-- Domains 2 and 17: on the PLL with MULT, DIV or PLL_EN changed, switching with SEL changed, a switch that can complete and one that cannot. -/
theorem witness_ClockSwitch :
    (let c := (upWith (·.s (BZ_CLKd_STAT_ON_PLL 2) 1)).crown;
      bitsOf 0 30 30 ≠ c.g (BZ_CLKd_CTRL_PLL_EN 2) ∧ c.flag (BZ_CLKd_STAT_ON_PLL 2) = true) ∧
    (let c := (upWith (·.s (BZ_CLKd_STAT_SWITCHING 17) 1)).crown;
      bitOf 0 31 ≠ c.flag (BZ_CLKd_CTRL_SEL 17) ∧ c.flag (BZ_CLKd_STAT_SWITCHING 17) = true) ∧
    (let c := (upWith (fun c => (c.s (BZ_CLKd_STAT_SWITCHING 17) 1).s (BZ_CLKd_CTRL_PLL_EN 17) 1)).crown;
      (c.flag (BZ_CLKd_STAT_SWITCHING 17) && !c.clockFailed 17 && !c.clockFailed (refOfDomain 17) && c.flag (BZ_CLKd_CTRL_PLL_EN 17)) = true) ∧
    (let c := (upWith (fun c => (c.s (BZ_CLKd_STAT_SWITCHING 2) 1).s (BZ_CLKd_CTRL_PLL_EN 2) 1)).crown;
      (c.flag (BZ_CLKd_STAT_SWITCHING 2) && !c.clockFailed 2 && !c.clockFailed (refOfDomain 2) && c.flag (BZ_CLKd_CTRL_PLL_EN 2)) = true) ∧
    up.crown.flag (BZ_CLKd_STAT_SWITCHING 2) = false := by decide

theorem witness_TimeWordAdvances : State.reset.pending = [] ∧ State.reset.leaf.timeDead = false ∧ State.reset.tick.crown.stray = false :=
  ⟨rfl, by decide, reset_tick_near⟩

theorem witness_TimeLatched : (1 ≤ 1 ∧ 1 ≤ 3) ∧ (1 ≤ 3 ∧ 3 ≤ 3) ∧ 0 ≠ 3 := by decide

/-- The die with every capture input on, at the level 0, input `i` holding `n` entries. -/
def capState (i n : Nat) : State := dieWith (fun l =>
  { l.s (TIME_CAP_CTRL_EN l.toNode.tb) 0xFF with time := { l.time with
      level := l.time.level.set (fun _ => none) i (some false), fifo := l.time.fifo.set (fun _ => []) i (List.replicate n ⟨⟨0, .locked⟩, false⟩) } })

/-- Inputs 0 and 7, with a FIFO of 15 entries and a full one. -/
theorem witness_CaptureFifo : [(0, 15), (7, 16)].all (fun e =>
    let l := (capState e.1 e.2).leaf;
    decide (e.1 < 8) && !l.timeDead && bitOf (l.toNode.g (TIME_CAP_CTRL_EN l.toNode.tb)) e.1 &&
      l.time.level.get (fun _ => none) e.1 == some (!true) && bitOf (l.toNode.g (TIME_CAP_CTRL_FALL l.toNode.tb)) e.1 == !true &&
      (l.toNode.capFifo e.1).length == e.2) = true := by decide

theorem witness_SoloTimeSet : up.crown.timeDead = false ∧ up.crown.red.waiting = [] ∧ up.crown.role = 0 ∧ up.crown.toNode.stepped = false ∧
    (let c := (upWith (·.s BZ_STRAP_ROLE 3)).crown;
      c.timeDead = false ∧ c.red.waiting = [] ∧ c.role ≠ 0) := by decide

theorem witness_CyclesCounter : 0 < 16 ∧
    (let l := (dieWith (·.twigAssert 255)).leaf;
      l.sapHeld = false ∧ (l.twig 255).inReset = true) ∧
    (let l := State.reset.leaf;
      l.sapHeld = false ∧ (l.twig 0).inReset = false ∧ (l.twig 0).starts = [] ∧ bitsOf ((l.twig 0).raw (16 + 0)) 27 25 = 0) ∧
    (let l := (dieWith (fun l => l.setTwig 255 { l.twig 255 with cfg := [(31, 0xF000)] })).leaf;
      l.sapHeld = false ∧ (l.twig 255).inReset = false ∧ (l.twig 255).starts = [] ∧ 15 < 16 ∧ bitsOf ((l.twig 255).raw (16 + 15)) 27 25 = 0) := by decide

theorem witness_AbsentTwigAccess : State.reset.leaf.sapHeld = false ∧ State.reset.leaf.toNode.flag TZ_TWIG_CFG_ADDR_GO = false ∧
    0 % 256 ≥ State.reset.leaf.ntwig ∧ twigDefined (63 % 64) = false := by decide

theorem witness_CounterWindow : (let l := (dieWith (·.s TZ_SAP_STATUS_NTWIG 256)).leaf;
    l.sapHeld = false ∧ bitOf (l.toNode.g TZ_SAP_CTRL_WIN_PRIV) 0 = true ∧ 0 < 16 * l.ntwig ∧ 4095 < 16 * l.ntwig ∧
      bitOf (l.toNode.g TZ_SAP_CTRL_WIN_PRIV) 3 = false) := by decide

theorem witness_MarkerRefused : State.reset.leaf.sapHeld = false ∧ bitOf (State.reset.leaf.toNode.g (TZ_MARKn_CTRL_PRIV 0)) 1 = false ∧
    bitOf (State.reset.leaf.toNode.g (TZ_MARKn_CTRL_PRIV 7)) 3 = false := by decide

theorem witness_GuardPrivilege : (let l := (dieWith (·.s TZ_GRD_PRIV_LEVEL 3)).leaf;
    l.guardDead = false ∧ 2 < l.toNode.g TZ_GRD_PRIV_LEVEL) ∧ State.reset.leaf.toNode.g TZ_GRD_PRIV_LEVEL ≤ 0 ∧
    (State.reset.leaf.watch 0).en = false ∧ (dieWith (·.s (TZ_WUw_STAT_TRIPPED 31) 1)).leaf.tripped 31 = true := by decide

theorem witness_MarginSetsTarget : State.reset.leaf.aonDead = false ∧ 0 < 8 ∧ 7 < 8 := by decide

theorem witness_TraceLowPower : State.reset.leaf.trcDead 0 = false ∧
    (let l := (dieWith (fun l => l.setCore 3 { l.core 3 with lp := true })).leaf;
      l.trcDead 3 = false ∧ (l.core 3).lp = true) := by decide

theorem witness_CrcOfEveryByte : State.reset.leaf.sapHeld = false := by decide

/-- Class 3 with a queue of 4 KiB filled to three quarters, a millisecond after reset; class 7, which is empty. -/
theorem witness_LevelRises : (let l := (dieWith (fun l => { (l.s (TZ_SAPQk_CTRL_QSIZE 3) 1) with
      ns := 1000000, pack := l.pack.set (fun _ => ClassQ.empty) 3 { l.toNode.q 3 with rest := List.replicate 3072 0, levelAt := 0 } })).leaf;
    l.sapHeld = false ∧ l.crown = false ∧ 3 * l.toNode.qSize 3 ≤ 4 * (l.toNode.q 3).fill ∧ (l.toNode.q 3).levelAt + 1000000 ≤ l.ns ∧
      (l.toNode.q 3).level < 7 ∧ ¬ 3 * l.toNode.qSize 7 ≤ 4 * (l.toNode.q 7).fill) := by decide

theorem witness_BadFrameDiscarded : State.reset.leaf.sapHeld = false ∧ fchkGood [] = false ∧ fchkGood (zeros 28) = false := by decide

theorem witness_ClearRefused : State.reset.leaf.sapHeld = false ∧ 1 ≠ State.reset.leaf.ring.pcc ∧ State.reset.leaf.ring.head ≤ 0 := by decide

theorem witness_LaneSilenced : State.reset.leaf.laneDead 0 = false ∧ twoLanes.leaf.laneDead 1 = false ∧ 0 < 2 ∧ 1 < 2 := by decide

theorem witness_GateGoRefused : (up.crown.gates 0).pend = none ∧ up.crown.takeTime 0 < up.crown.toNode.now + usTime 10 ∧
    (upWith (·.s (BZ_SCHl_GATE_CTRL_LEN 72) 0)).crown.g (BZ_SCHl_GATE_CTRL_LEN 72) = 0 ∧
    256 < (upWith (·.s (BZ_SCHl_GATE_CTRL_LEN 72) 257)).crown.g (BZ_SCHl_GATE_CTRL_LEN 72) := by decide

/-- Busy; beyond the cells; a bad cell; a cell in use by another; a vacant cell. -/
theorem witness_MapCommandRefused : up.crown.stray = false ∧ (upWith (·.s BZ_CMAP_STAT_BUSY 1)).crown.flag BZ_CMAP_STAT_BUSY = true ∧
    up.crown.flag BZ_CMAP_STAT_BUSY = false ∧ 143 < 144 ∧
    (143 ≤ 143 ∧ (upWith (·.s (BZ_CBADq_w_BAD 3 4) (2 ^ 15))).crown.cellBad 3 143 = true) ∧
    (up.crown.cellBad 0 0 = false ∧ up.crown.cellUser 0 0 = some 0 ∧ 0 ≠ 1) ∧ (upWith (·.s (BZ_CMAPq_l_VALID 3 127) 0)).crown.cellValid 3 127 = false := by decide

theorem witness_RemapMaps : up.crown.stray = false ∧ 3 < 4 ∧ 127 < 128 ∧ 143 < 144 ∧ up.crown.flag BZ_CMAP_STAT_BUSY = false ∧
    up.crown.cellBad 3 143 = false ∧ up.crown.cellUser 3 143 = none ∧ up.crown.holders (128 * 3 + 127) = [] ∧
    up.crown.cellBad 0 0 = false ∧ up.crown.cellUser 0 0 = some 0 ∧ up.crown.holders (128 * 0 + 0) = [] := by decide

theorem witness_UnloadFreesSlot : (0 < 16 ∧ up.crown.ensInUse 0 = false) ∧
    (let c := (upWith (·.s (BZ_ENSe_STAT_STATE 15) 2)).crown;
      15 < 16 ∧ c.ensInUse 15 = false ∧ c.ensState 15 ≠ 0) := by decide

/-- A running window plan without series. -/
def quietPlan : WinPlan := ⟨[], 0, [], [], false, false, false, 0, 0, 0, 0, 0⟩

theorem witness_RunsReset : (upWith (·.setWin 0 quietPlan)).crown.winPlan 0 = some quietPlan ∧
    (upWith (·.setWin 255 quietPlan)).crown.winPlan 255 = some quietPlan := by decide

theorem witness_AuditLock : State.reset.leaf.aonDead = false ∧
    (let l := (dieWith (·.s TZ_AUD_CTRL_LOCK 1)).leaf;
      l.aonDead = false ∧ l.toNode.flag TZ_AUD_CTRL_LOCK = true) := by decide

theorem witness_ClearNeedsFenced : (up.crown.audEng 0 0).state ≠ 3 ∧ (up.crown.audEng 63 255).state ≠ 3 := by decide

/-- A seed image whose topology names, for the crown's node word, ports 0 and 63 as logical and no other (Tables 16.2 and 16.3). -/
def tinyImage (node : Nat) : List Byte :=
  zeros 6 ++ le 2 1 ++ zeros 152 ++ le 4 2 ++ le 4 176 ++ le 4 264 ++ le 4 0 ++
    le 4 node ++ zeros 4 ++ le 4 0x40000000 ++ zeros 248 ++ le 4 0x40000001

theorem witness_PortCommandRefused : up.crown.stray = false ∧
    (upWith (·.s BZ_MODE_STAT_MODE 2)).crown.basic = true ∧ up.crown.basic = false ∧ (topoPort up.crown.image up.crown.node 0).kind = 0 ∧
    (let c := (upWith (fun c => { c with image := tinyImage c.node })).crown;
      (topoPort c.image c.node 0).kind = 1 ∧ (topoPort c.image c.node 63).kind = 1 ∧ (topoPort c.image c.node 1).kind = 0 ∧
        (c.die 0).pstate ≠ 0 ∧ (c.die 63).pstate ≠ 2) := by decide

/-- The die with Heartwood running, in a seal state, with some TAMPER fuses burned. -/
def heartAt (sealState fuses : Nat) : State := dieWith (·.onHeart (fun h => { h with up := true, sealed := sealState, tamperCnt := fuses }))

theorem witness_TamperEvent : (heartAt 1 31).leaf.heart.up = true ∧ (heartAt 1 31).leaf.heart.sealed = 1 ∧ (heartAt 1 31).leaf.heart.tamperCnt < 32 ∧
    (heartAt 1 32).leaf.heart.up = true ∧ ¬ (heartAt 1 32).leaf.heart.tamperCnt < 32 ∧ (heartAt 0 0).leaf.heart.sealed ≠ 1 := by decide

theorem witness_PowerPairEnergy : (heartAt 0 0).leaf.heart.up = true ∧ (heartAt 0 0).leaf.heart.pairAt = none ∧
    (dieWith (·.onHeart (fun h => { h with up := true, pairAt := some 0 }))).leaf.heart.pairAt = some 0 := by decide

/-- The step of the reset state answers a next state, and the reset state meets the invariant. -/
theorem witness_FusesWithinOtp : step State.reset = .next State.reset.tick ∧ State.reset.leaf.heart.sealCnt ≤ 32 ∧ State.reset.leaf.heart.unsealCnt ≤ 32 ∧
    State.reset.leaf.heart.tamperCnt ≤ 32 ∧ State.reset.leaf.heart.clearCnt ≤ 32 ∧ State.reset.leaf.heart.slots.length ≤ 8 ∧ State.reset.leaf.heart.sealed ≤ 2 :=
  ⟨by simp [step, State.idle, show State.reset.pending = [] from rfl, reset_tick_near], by decide⟩

theorem witness_FusesNeverUnburn : step { heartAt 1 0 with pending := [.tamper 1] } = .next ({ heartAt 1 0 with pending := [] }.onLeaf .die (·.tamper 1)) := rfl

theorem witness_AssignSetsNode : State.reset.leaf.sapHeld = false ∧ (0 : Nat) ≠ nodeNone := by decide

theorem witness_JobArmed : State.reset.leaf.sapHeld = false ∧ State.reset.crown.self.sapHeld = false := by decide

/-- A job armed for the time 0, with its GO and without, before an empty FIFO and a full one. -/
theorem witness_JobStarts : [(true, 3), (true, 4), (false, 0)].all (fun e =>
    let a : Armed := ⟨1, 0, 0, [], e.1⟩
    let l := (dieWith (·.onBoot (fun b => { b with armed := [a], fifo := List.replicate e.2 ⟨0, [], 0⟩ }))).leaf;
    !l.timeDead && l.boot.armed == [a] && decide (a.tgo ≤ l.toNode.now) && l.boot.fifo.length == e.2) = true := by decide

theorem witness_JobGoAndCancel : State.reset.leaf.sapHeld = false ∧ State.reset.crown.self.sapHeld = false := by decide

/-- No cause of basic mode; and causes 4 and 5 with another. -/
theorem witness_ExitClearsTwoCauses : up.crown.modeExit.stray = false ∧ (upWith (·.onModes (fun m => { m with causes := 0x32 }))).crown.modeExit.stray = false := by
  decide

theorem witness_WatchdogKick : up.crown.stray = false ∧ up.crown.live 17 = true ∧ up.crown.regHeld BZ_WDOG_KICK = false ∧ (0 ≠ 1 ∧ 0 < 0x40) ∧
    (0x3F ≠ 1 ∧ 0x3F < 0x40) := by decide

theorem witness_LoaderRefuses : up.crown.stray = false ∧ (upWith (·.s BZ_STRAP_ROLE 3)).crown.role ≠ 0 ∧
    (upWith (·.s BZ_FW_LOAD_CTRL_BUSY 1)).crown.flag BZ_FW_LOAD_CTRL_BUSY = true ∧ up.crown.role = 0 ∧ up.crown.flag BZ_FW_LOAD_CTRL_BUSY = false ∧
    up.crown.hbmReady = false := by decide

/-- Engine queue 0 with a descriptor of zeros at its head and its completion ring at the last page that BASE can name, beyond HBM. -/
def strayRing : State := upWith (fun c =>
  (((c.s (BZ_EQk_CTRL_EN 0) 1).s (BZ_EQk_CTRL_SIZE_LOG 0) 4).s (BZ_EQk_CPL_BASE_PAGE 0) (2 ^ 28 - 1)).s (BZ_EQk_TAIL_TAIL 0) 1)

theorem witness_OnlyHbmFaults : ∃ f, exec (.jobStart 0) strayRing = .fault f := by
  have h : (strayRing.crown.engineStart 0).stray = true := by decide
  exact ⟨.hbmAddress, by simp [exec, execJobStart, State.byHbm, h]⟩

theorem witness_HeartwoodIsolated : ∀ c ∈ [Instr.tamper 1, .getId, .powerSample 0 0, .heartSeal 1 []],
    (∃ v i, c = .powerSample v i) ∨ (∃ k, c = .tamper k) ∨ c = .getId ∨ (∃ n b, c = .heartSeal n b) := by simp

/-! ### Single commands, with results from the spec -/

/-- What a command leaves of the die's leaf, in one value. -/
def leafAfter (c : Instr) (s : State) {α : Type} (f : Leaf → α) : Option α := match exec c s with
  | .next t => some (f t.leaf)
  | _ => none

/-- What a command leaves of the crown, in one value. -/
def crownAfter (c : Instr) (s : State) {α : Type} (f : Crown → α) : Option α := match exec c s with
  | .next t => some (f t.crown)
  | _ => none

/-- `TZ_ID` reads 0x0004_0200 (spec/21_register_index.md). -/
theorem test_read_id : leafAfter (.rcRead .die ⟨0, 15⟩ 3 0 false) State.reset (·.out.getLast?) = some (some (.response 0x40200 0)) := by decide

/-- A counter of class CYCLES at 2^48 − 1 goes to 0 and sets WRAP (R86). -/
theorem test_counter_wraps :
    leafAfter (.twigHostCycle .die 0 goodTwig) (dieWith (fun l => l.setTwig 0 ((l.twig 0).setCounter 0 ⟨2 ^ 48 - 1, 0, false⟩)))
      (fun l => (((l.twig 0).counter 0).value, ((l.twig 0).counter 0).wrap)) = some (0, true) := by decide

/-- The 17th edge is dropped and sets OVF (R53). -/
theorem test_capture_full : leafAfter (.captureEdge .die 7 true) (capState 7 16)
    (fun l => ((l.toNode.capFifo 7).length, l.toNode.g (TIME_CAP_STAT_OVF l.toNode.tb))) = some (16, 128) := by decide

/-- NSEC = 5 with the other SET registers 0 makes the word 5 ns (R51). -/
theorem test_time_set : crownAfter .timeSetGo (upWith (·.s (BZ_TIME_SETw_WORD 1) 5)) (fun c => (c.toNode.now, c.toNode.stepped)) = some (5 * 2 ^ 32, true) := by
  decide

/-- The two bytes of "12", in one word, from START on by CRC-16 (R160, R161): computed by hand from Table 6.10's parameters. -/
theorem test_crc_two_bytes : (match runAll [.start .die 0, .crcData .die 0 0x3231] (dieWith (fun l => (l.s (TZ_CRCu_CTRL_POLY 0) 0).s (TZ_CRCu_CTRL_NBYTES 0) 2)) with
    | .next t => t.leaf.crcResult 0
    | _ => 0) = 0x3DBA := by decide

/-- MULT may not change while the PLL is selected (R473). -/
theorem test_clock_refused : crownAfter (.clkCtrlWrite 5 0xFFFFFFFF) (upWith (·.s (BZ_CLKd_STAT_ON_PLL 5) 1))
    (fun c => (c.g (BZ_CLKd_STAT_ERR 5), c.g (BZ_CLKd_CTRL_MULT 5) == up.crown.g (BZ_CLKd_CTRL_MULT 5))) = some (1, true) := by decide

/-- An ARM less than 50 µs ahead is LATE and is not held (R422). -/
theorem test_arm_late : leafAfter (.jobArm .die (zeros 51)) State.reset (·.boot.armed) = some [] := by decide

/-- A tamper event in SEALED burns a fuse and breaks the seal (R388). -/
theorem test_tamper : leafAfter (.tamper 1) (heartAt 1 0) (fun l => (l.heart.tamperCnt, l.heart.sealed, l.heart.sealCnt)) = some (1, 2, 0) := by decide

/-- A descriptor of zeros is no command; its completion has no address to go to (R256, R261). -/
theorem test_stray_faults : (match exec (.jobStart 0) strayRing with
    | .fault .hbmAddress => true
    | _ => false) = true := by decide

/-- REMAP of a cell in use gives ECODE 2 (R244). -/
theorem test_remap_used : crownAfter (.remap 0 1 0) up (fun c => (c.g BZ_CMAP_STAT_ERR, c.g BZ_CMAP_STAT_ECODE, c.cellValid 0 1)) =
    some (1, 2, up.crown.cellValid 0 1) := by decide

/-- The watchdog takes 0x0000_4B1C from the management core alone (R490). -/
theorem test_kick : crownAfter (.wdogKick 0x4B1C 0) (upWith (fun c => { c with ns := 77 })) (·.bring.host.wdogAt) = some 77 ∧
    crownAfter (.wdogKick 0x4B1C 2) (upWith (fun c => { c with ns := 77 })) (·.bring.host.wdogAt) = some up.crown.bring.host.wdogAt := by decide

/-- A lane written EN = 0 is OFF (R203). -/
theorem test_lane_off : leafAfter (.laneEnWrite .die 1 false) (twoLanes.onLeaf .die (·.s (BK_STAT_STATE 0x3A00) 10)) (fun l => (l.toNode.laneState 1, l.toNode.up 1)) =
    some (0, false) := by decide

/-- ASSIGN sets NODE (R411). -/
theorem test_assign : leafAfter (.assign .die 0x00012345 9) State.reset (fun l => (l.toNode.flag TZ_NODE_VALID, l.toNode.g TZ_NODE_ADDR, l.boot.seedGen)) =
    some (true, 0x12345, 9) := by decide

/-- With nothing waiting, a nanosecond passes (log entry 1). -/
theorem test_tick : (match step State.reset with
    | .next t => t.leaf.ns
    | _ => 0) = State.reset.leaf.ns + 1 := by decide

/-- The table gives no row any bits, so no word spells a command. -/
theorem test_no_word : decodeTableWord 32 0 = none := rfl

end Sys2Proof.Tests
end

section
/-! ### The forms of a command's answer, and what the statements of completion say of them -/

namespace Sys2Proof.Machine

/-- Where a command names a leaf as its block, the crown's part of it plays no role. -/
@[simp] theorem State.byBlock_block (s : State) (w : LeafSel) (fl : Leaf → Leaf) (fc : Crown → Crown) :
    s.byBlock w.block fl fc = s.byLeaf w fl := by
  cases w <;> rfl

@[simp] theorem State.byBlockHbm_block (s : State) (w : LeafSel) (fl : Leaf → Leaf) (fc : Crown → Crown) :
    s.byBlockHbm w.block fl fc = s.byLeaf w fl := by
  cases w <;> rfl

/-- A command that changes a leaf alone completes at every state, whatever is stopped. -/
theorem runsOnLeaf_of_byLeaf {c : Instr} {w : LeafSel} {stopped : Leaf → Bool} {f : Leaf → Leaf}
    (h : ∀ s : State, exec c s = s.byLeaf w f) : runsOnLeaf c w stopped f :=
  fun s _ => (h s).trans rfl

/-- A command that changes the crown alone and accesses no HBM completes at every state, whatever is stopped. -/
theorem runsOnCrown_of_byCrown {c : Instr} {stopped : Crown → Bool} {f : Crown → Crown}
    (h : ∀ s : State, exec c s = s.byCrown f) : runsOnCrown c stopped f :=
  fun s _ => (h s).trans rfl

/-- A command that may access HBM completes wherever it does not stray: the other case of `State.byHbm_cases` is the fault. -/
theorem runsOnHbm_of_byHbm {c : Instr} {f : Crown → Crown} (h : ∀ s : State, exec c s = s.byHbm f) : runsOnHbm c f := by
  intro s hstray
  obtain ⟨-, hnext⟩ | ⟨hstrayed, -⟩ := s.byHbm_cases f
  · exact (h s).trans hnext
  · rw [hstray] at hstrayed
    contradiction

/-- A command on any block, given a leaf as its block, completes as a change of that leaf. -/
theorem runsOnLeaf_of_byBlock {c : Instr} {w : LeafSel} {stopped : Leaf → Bool} {fl : Leaf → Leaf} {fc : Crown → Crown}
    (h : ∀ s : State, exec c s = s.byBlock w.block fl fc) : runsOnLeaf c w stopped fl :=
  runsOnLeaf_of_byLeaf fun s => (h s).trans (s.byBlock_block w fl fc)

/-- The same of a command that may access HBM where the crown is its block. -/
theorem runsOnLeaf_of_byBlockHbm {c : Instr} {w : LeafSel} {stopped : Leaf → Bool} {fl : Leaf → Leaf} {fc : Crown → Crown}
    (h : ∀ s : State, exec c s = s.byBlockHbm w.block fl fc) : runsOnLeaf c w stopped fl :=
  runsOnLeaf_of_byLeaf fun s => (h s).trans (s.byBlockHbm_block w fl fc)

/-! ### Resets, registers, modes and clocks -/

/-- Settles O3: `exec` gives each command of the family one of the forms `byLeaf`, `byBlock`, `byBlockHbm`, `byCrown` and `byHbm`, and each form completes
by its lemma above. -/
theorem resetCommandsComplete : Obligations.ResetCommandsComplete := by
  unfold Obligations.ResetCommandsComplete
  exact ⟨
    -- Resets (R481, R482, R484, R485)
    fun _ _ _ => runsOnCrown_of_byCrown fun _ => rfl, -- AON_RESET_RELEASE
    fun _ => runsOnLeaf_of_byLeaf fun _ => rfl, -- L_AON_RESET_RELEASE
    fun _ _ => runsOnLeaf_of_byBlockHbm fun _ => rfl, -- RESET_ASSERT, of a leaf
    fun _ => runsOnHbm_of_byHbm fun _ => rfl, -- RESET_ASSERT, of the crown
    fun _ => runsOnLeaf_of_byBlock fun _ => rfl, -- TIME_RESET_RELEASE, of a leaf
    runsOnCrown_of_byCrown fun _ => rfl, -- TIME_RESET_RELEASE, of the crown
    fun _ => runsOnLeaf_of_byLeaf fun _ => rfl, -- L_SAP_RESET_RELEASE
    fun _ _ => runsOnLeaf_of_byLeaf fun _ => rfl, -- L_LINK_RESET_RELEASE
    fun _ => runsOnLeaf_of_byLeaf fun _ => rfl, -- L_HOST_RESET_RELEASE
    fun _ _ => runsOnLeaf_of_byLeaf fun _ => rfl, -- TWIG_RESET_ASSERT
    fun _ _ => runsOnLeaf_of_byLeaf fun _ => rfl, -- TWIG_RESET_RELEASE
    fun _ => runsOnLeaf_of_byLeaf fun _ => rfl, -- TRACE_CORE_RESET
    -- Registers (R8, R12, R448)
    fun _ _ _ _ _ _ => runsOnLeaf_of_byBlockHbm fun _ => rfl, -- REGISTER_WRITE, of a leaf
    fun _ _ _ _ _ => runsOnHbm_of_byHbm fun _ => rfl, -- REGISTER_WRITE, of the crown
    fun _ _ _ _ _ => runsOnLeaf_of_byBlock fun _ => rfl, -- RC_READ, of a leaf
    fun _ _ _ _ => runsOnCrown_of_byCrown fun _ => rfl, -- RC_READ, of the crown
    fun _ _ _ _ _ _ => runsOnLeaf_of_byLeaf fun _ => rfl, -- REGISTER_PORT_REQUEST
    -- Re-homing, modes and rehearsals (R29, R30, R430, R438)
    runsOnCrown_of_byCrown fun _ => rfl, -- REHOME_START
    runsOnCrown_of_byCrown fun _ => rfl, -- REHOME_RETURN
    runsOnCrown_of_byCrown fun _ => rfl, -- ROOT1_ACTIVATE
    runsOnHbm_of_byHbm fun _ => rfl, -- ENTER
    runsOnHbm_of_byHbm fun _ => rfl, -- EXIT
    runsOnCrown_of_byCrown fun _ => rfl, -- REHEARSAL_DUE
    runsOnCrown_of_byCrown fun _ => rfl, -- REHEARSAL_DETECT_TIMEOUT
    runsOnCrown_of_byCrown fun _ => rfl, -- REHEARSAL_PASS
    runsOnCrown_of_byCrown fun _ => rfl, -- REHEARSAL_ABORT
    runsOnCrown_of_byCrown fun _ => rfl, -- LANE_HOLD_END
    -- Clocks (R473, R474, R478, R480, R485)
    fun _ _ => runsOnLeaf_of_byBlock fun _ => rfl, -- CLOCK_FAIL, of a leaf
    fun _ => runsOnCrown_of_byCrown fun _ => rfl, -- CLOCK_FAIL, of the crown
    fun _ _ => runsOnLeaf_of_byBlockHbm fun _ => rfl, -- CLOCK_RETURN, of a leaf
    fun _ => runsOnHbm_of_byHbm fun _ => rfl, -- CLOCK_RETURN, of the crown
    fun _ => runsOnCrown_of_byCrown fun _ => rfl, -- PLL_LOCK
    fun _ _ => runsOnCrown_of_byCrown fun _ => rfl, -- CLK_CTRL_WRITE
    fun _ => runsOnCrown_of_byCrown fun _ => rfl, -- CLOCK_SWITCH_DONE
    fun _ => runsOnCrown_of_byCrown fun _ => rfl, -- PLL_LOCK_TIMEOUT
    fun _ => runsOnHbm_of_byHbm fun _ => rfl⟩ -- RST_CMD

end Sys2Proof.Machine
end

section
/-! ### Commands that act unless their unit is stopped (R478, R479, R481, R485) -/

namespace Sys2Proof.Machine

/-- What a leaf is after a change of it. -/
@[simp] theorem State.leafOf_onLeaf (s : State) (w : LeafSel) (f : Leaf → Leaf) : (s.onLeaf w f).leafOf w = f (s.leafOf w) := by
  cases w <;> rfl

/-- Two changes of a leaf that agree on the leaf as it is leave the same state. -/
theorem State.onLeaf_congr {s : State} {w : LeafSel} {f g : Leaf → Leaf} (h : f (s.leafOf w) = g (s.leafOf w)) : s.onLeaf w f = s.onLeaf w g := by
  cases w with
  | die => exact congrArg (fun l => { s with leaf := l }) h
  | own => exact congrArg (fun l => { s with crown := { s.crown with self := l } }) h

theorem Crown.unless_alive (c : Crown) (f : Crown → Crown) : c.unless false f = f c := rfl

/-- A command that always completes and acts unless its unit in the leaf is stopped acts wherever the unit is not stopped. -/
theorem runsOnLeaf_of_unless {c : Instr} {w : LeafSel} {stopped : Leaf → Bool} {f : Leaf → Leaf}
    (h : runsOnLeaf c w free (fun l => l.unless (stopped l) f)) : runsOnLeaf c w stopped f := by
  intro s halive
  have hacts : (s.leafOf w).unless (stopped (s.leafOf w)) f = f (s.leafOf w) := by rw [halive, Leaf.unless_alive]
  exact (h s rfl).trans (congrArg Host.Outcome.next (State.onLeaf_congr hacts))

/-- The same of a unit of the crown. -/
theorem runsOnCrown_of_unless {c : Instr} {stopped : Crown → Bool} {f : Crown → Crown}
    (h : runsOnCrown c free (fun k => k.unless (stopped k) f)) : runsOnCrown c stopped f := by
  intro s halive
  have hacts : s.crown.unless (stopped s.crown) f = f s.crown := by rw [halive, Crown.unless_alive]
  exact (h s rfl).trans (congrArg (fun k => Host.Outcome.next { s with crown := k }) hacts)

/-! ### The latch of the time word (R33) -/

@[simp] theorem Node.captureNow_tb (n : Node) (priv : Nat) : (n.captureNow priv).tb = n.tb := rfl
@[simp] theorem Node.captureNow_regs (n : Node) (priv : Nat) : (n.captureNow priv).regs = n.regs := rfl
@[simp] theorem Node.captureNow_word (n : Node) (priv : Nat) : (n.captureNow priv).time.word = n.time.word := rfl

/-- The latch of the level that reads NOW0 holds the word of that moment. -/
theorem Node.captureNow_latch_self (n : Node) (priv : Nat) : (n.captureNow priv).time.latch.get (fun _ => 0) priv = n.now :=
  Tab.get_set_self _ _ _ _

/-- The latch of every other level is as before. -/
theorem Node.captureNow_latch_ne (n : Node) {priv p : Nat} (h : p ≠ priv) :
    (n.captureNow priv).time.latch.get (fun _ => 0) p = n.time.latch.get (fun _ => 0) p :=
  Tab.get_set_ne _ _ _ h

/-- NOW1 to NOW3 read the words 1 to 3 of what the reader's level has latched. -/
theorem Node.timeView_latch (n : Node) (priv : Nat) {i : Nat} (hi : 1 ≤ i ∧ i ≤ 3) :
    n.timeView (n.tb + 4 * i) priv = some (timeWord (n.time.latch.get (fun _ => 0) priv) i) := by
  obtain rfl | rfl | rfl : i = 1 ∨ i = 2 ∨ i = 3 := by omega
  all_goals simp [Node.timeView]

/-- After a read of NOW0, NOW1 to NOW3 read the rest of the word of that moment. -/
theorem Node.timeView_captureNow (n : Node) (priv : Nat) {i : Nat} (hi : 1 ≤ i ∧ i ≤ 3) :
    (n.captureNow priv).timeView ((n.captureNow priv).tb + 4 * i) priv = some (timeWord n.now i) := by
  rw [Node.timeView_latch _ _ hi, Node.captureNow_latch_self]

/-- TIME_NOW_CAPTURE completes on either leaf, also where the time unit stands still. -/
theorem timeNowCapture_runsOnLeaf (w : LeafSel) (priv : Nat) : runsOnLeaf (.timeNowCapture w.block priv) w free (·.on (·.captureNow priv)) :=
  runsOnLeaf_of_byBlock fun _ => rfl

/-- Settles O21: the command is `Node.captureNow` on the leaf, and the latch of one level is one entry of a table. -/
theorem timeLatched : Obligations.TimeLatched := by
  unfold Obligations.TimeLatched
  intro s w priv
  refine ⟨_, timeNowCapture_runsOnLeaf w priv s rfl, ?_⟩
  rw [State.leafOf_onLeaf, Leaf.on_toNode]
  exact ⟨fun _ hi => Node.timeView_captureNow _ _ hi, fun _ hp => Node.captureNow_latch_ne _ hp, Node.captureNow_word _ _, Node.captureNow_regs _ _⟩

/-! ### Canopy time -/

/-- Settles O4: `exec` gives each command one of the forms `byLeaf`, `byBlock` and `byCrown`. The reads, NOW0 and W3, act in every state; each other
command acts unless its time unit stands still, which the statement rules out. -/
theorem timeCommandsComplete : Obligations.TimeCommandsComplete := by
  unfold Obligations.TimeCommandsComplete
  exact ⟨
    timeNowCapture_runsOnLeaf, -- TIME_NOW_CAPTURE, of a leaf
    fun _ => runsOnCrown_of_byCrown fun _ => rfl, -- TIME_NOW_CAPTURE, of the crown
    -- Exchanges and HOLDOVER (R37 to R45)
    fun _ _ => runsOnCrown_of_unless (runsOnCrown_of_byCrown fun _ => rfl), -- EXCHANGE_START
    fun _ _ _ _ _ _ => runsOnLeaf_of_unless (runsOnLeaf_of_byBlock fun _ => rfl), -- TSYNC, of a leaf
    fun _ _ _ _ _ => runsOnCrown_of_unless (runsOnCrown_of_byCrown fun _ => rfl), -- TSYNC, of the crown
    fun _ _ _ => runsOnCrown_of_unless (runsOnCrown_of_byCrown fun _ => rfl), -- TDELAY
    fun _ _ _ _ => runsOnLeaf_of_unless (runsOnLeaf_of_byBlock fun _ => rfl), -- TRESP, of a leaf
    fun _ _ _ => runsOnCrown_of_unless (runsOnCrown_of_byCrown fun _ => rfl), -- TRESP, of the crown
    fun _ => runsOnLeaf_of_unless (runsOnLeaf_of_byBlock fun _ => rfl), -- HOLDOVER_ENTER, of a leaf
    runsOnCrown_of_unless (runsOnCrown_of_byCrown fun _ => rfl), -- HOLDOVER_ENTER, of the crown
    fun _ => runsOnLeaf_of_unless (runsOnLeaf_of_byBlock fun _ => rfl), -- BOUND_HOLDOVER_UPDATE, of a leaf
    runsOnCrown_of_unless (runsOnCrown_of_byCrown fun _ => rfl), -- BOUND_HOLDOVER_UPDATE, of the crown
    -- PPS and the set time (R48, R49, R51)
    runsOnCrown_of_unless (runsOnCrown_of_byCrown fun _ => rfl), -- PPS_EDGE
    fun _ => runsOnCrown_of_unless (runsOnCrown_of_byCrown fun _ => rfl), -- TOD_MESSAGE
    runsOnCrown_of_unless (runsOnCrown_of_byCrown fun _ => rfl), -- TIME_SET_GO
    -- Capture inputs (R52, R53)
    fun _ _ _ => runsOnLeaf_of_unless (runsOnLeaf_of_byBlock fun _ => rfl), -- CAPTURE_EDGE, of a leaf
    fun _ _ => runsOnCrown_of_unless (runsOnCrown_of_byCrown fun _ => rfl), -- CAPTURE_EDGE, of the crown
    fun _ _ => runsOnLeaf_of_byBlock fun _ => rfl, -- CAPTURE_POP, of a leaf
    fun _ => runsOnCrown_of_byCrown fun _ => rfl, -- CAPTURE_POP, of the crown
    -- Pulse trains (R54, R55, R510)
    fun _ _ => runsOnLeaf_of_unless (runsOnLeaf_of_byLeaf fun _ => rfl), -- PULSE_ARM
    fun _ _ => runsOnLeaf_of_unless (runsOnLeaf_of_byLeaf fun _ => rfl), -- PULSE_TAKEOVER
    fun _ _ => runsOnLeaf_of_unless (runsOnLeaf_of_byLeaf fun _ => rfl), -- PULSE_EDGE
    fun _ _ _ => runsOnLeaf_of_unless (runsOnLeaf_of_byLeaf fun _ => rfl)⟩ -- PULSE_ENABLE_WRITE

end Sys2Proof.Machine
end

section
/-! ### Twigs, sweeps, counters and trace -/

namespace Sys2Proof.Machine

/-- A command in L-SAP completes, and acts wherever L-SAP is not held. -/
theorem runsOnLeaf_of_byLeafSap {c : Instr} {w : LeafSel} {f : Leaf → Leaf} (h : ∀ s : State, exec c s = s.byLeafSap w f) :
    runsOnLeaf c w Leaf.sapHeld f :=
  runsOnLeaf_of_unless (runsOnLeaf_of_byLeaf h)

/-- A command of a core's trace unit completes, and acts wherever that unit does not stand still. -/
theorem runsOnLeaf_of_byTrace {c : Instr} {w : LeafSel} {core : Nat} {f : Leaf → Leaf} (h : ∀ s : State, exec c s = s.byTrace w core f) :
    runsOnLeaf c w (·.trcDead core) f :=
  runsOnLeaf_of_unless (runsOnLeaf_of_byLeaf h)

/-- Settles O5: `exec` gives each command one of the forms `byLeafSap`, `byTrace` and `byLeaf`. The reader's commands stop with L-SAP and a core's trace
with its own unit as well. The two commands of a Twig's L-HOST side are never stopped: what a held L-SAP forces on a Twig's cycle is part of `Leaf.twigCycle`. -/
theorem counterCommandsComplete : Obligations.CounterCommandsComplete := by
  unfold Obligations.CounterCommandsComplete
  exact ⟨
    -- Enumeration and the Twigs (R61 to R63, R66, R72, R76)
    fun _ _ _ _ => runsOnLeaf_of_byLeafSap fun _ => rfl, -- ENUM_RETURN
    fun _ => runsOnLeaf_of_byLeafSap fun _ => rfl, -- READ_TIMEOUT
    fun _ _ _ => runsOnLeaf_of_byLeaf fun _ => rfl, -- TWIG_HOST_CYCLE
    fun _ _ => runsOnLeaf_of_byLeaf fun _ => rfl, -- TWIG_CFG_APPLY
    fun _ => runsOnLeaf_of_byLeafSap fun _ => rfl, -- FLUSH_BINS
    fun _ _ => runsOnLeaf_of_byLeafSap fun _ => rfl, -- FLUSH_RESUME
    fun _ _ _ _ _ => runsOnLeaf_of_byLeafSap fun _ => rfl, -- MARKER
    -- Sweeps (R77 to R80, R83)
    fun _ _ => runsOnLeaf_of_byLeafSap fun _ => rfl, -- SWEEP_DUE
    fun _ => runsOnLeaf_of_byLeafSap fun _ => rfl, -- SWEEP_START
    fun _ => runsOnLeaf_of_byLeafSap fun _ => rfl, -- READ_RESPONSE
    fun _ => runsOnLeaf_of_byLeafSap fun _ => rfl, -- SWEEP_COMPLETE
    fun _ => runsOnLeaf_of_byLeafSap fun _ => rfl, -- GROUP_CFG_APPLY
    fun _ _ => runsOnLeaf_of_byLeafSap fun _ => rfl, -- SAP_EN_WRITE
    -- Counter window, configuration of a Twig and event records (R89, R91, R452)
    fun _ _ _ => runsOnLeaf_of_byLeafSap fun _ => rfl, -- COUNTER_WINDOW_READ
    fun _ _ _ _ => runsOnLeaf_of_byLeafSap fun _ => rfl, -- TWIG_CFG_GO
    fun _ _ => runsOnLeaf_of_byLeafSap fun _ => rfl, -- CRESP
    fun _ => runsOnLeaf_of_byLeafSap fun _ => rfl, -- TWIG_CFG_TIMEOUT
    fun _ _ => runsOnLeaf_of_byLeafSap fun _ => rfl, -- EVENT_BEAT
    -- Trace (R125, R127, R130, R132, R134)
    fun _ _ => runsOnLeaf_of_byTrace fun _ => rfl, -- TRACE_RETIRE
    fun _ => runsOnLeaf_of_byTrace fun _ => rfl, -- LOSS
    fun _ => runsOnLeaf_of_byTrace fun _ => rfl, -- LP_ENTER
    fun _ => runsOnLeaf_of_byTrace fun _ => rfl, -- TRACE_LP_EXIT
    fun _ _ _ => runsOnLeaf_of_byLeafSap fun _ => rfl, -- TRACE_CTRL_WRITE
    fun _ => runsOnLeaf_of_byLeafSap fun _ => rfl⟩ -- TRACE_DRAIN

end Sys2Proof.Machine
end

section
/-! ### Sensors, guards and ageing -/

namespace Sys2Proof.Machine

/-- A command of the sensor hub, the watch units, the guards or the V/f port completes, and acts wherever they do not stand still; a reset of the
time unit does not stop them (R112). -/
theorem runsOnLeaf_of_byLeafGuard {c : Instr} {w : LeafSel} {f : Leaf → Leaf} (h : ∀ s : State, exec c s = s.byLeafGuard w f) :
    runsOnLeaf c w Leaf.guardDead f :=
  runsOnLeaf_of_unless (runsOnLeaf_of_byLeaf h)

/-- A command of L-AON's units completes, and acts wherever L-AON's reset is not asserted. -/
theorem runsOnLeaf_of_byLeafAon {c : Instr} {w : LeafSel} {f : Leaf → Leaf} (h : ∀ s : State, exec c s = s.byLeafAon w f) :
    runsOnLeaf c w Leaf.aonDead f :=
  runsOnLeaf_of_unless (runsOnLeaf_of_byLeaf h)

/-- Settles O6: `exec` gives each command of a leaf one of the forms `byLeafGuard` and `byLeafAon`. WATCH_UNIT_WRITE, VF_REQ, MARGIN and VF_RESPONSE
run also while L-TIME's source has failed, where `Leaf.vfReply` gives the response up as lost (R111); every other one stands still there (R112). The
ageing point is the crown's and may access HBM. -/
theorem guardCommandsComplete : Obligations.GuardCommandsComplete := by
  unfold Obligations.GuardCommandsComplete
  exact ⟨
    -- Sensor hub, watch units and guards (R94 to R107)
    fun _ _ _ => runsOnLeaf_of_byLeafGuard fun _ => rfl, -- SENSOR_SAMPLE
    fun _ => runsOnLeaf_of_byLeafGuard fun _ => rfl, -- RATE_WINDOW_END
    fun _ _ _ _ => runsOnLeaf_of_byLeafAon fun _ => rfl, -- WATCH_UNIT_WRITE
    fun _ _ _ _ => runsOnLeaf_of_byLeafGuard fun _ => rfl, -- GUARD_INJECT
    fun _ _ _ => runsOnLeaf_of_byLeafGuard fun _ => rfl, -- FENCE_CLR
    fun _ _ _ => runsOnLeaf_of_byLeafGuard fun _ => rfl, -- WCLASS_CHANGE
    fun _ _ => runsOnLeaf_of_byLeafGuard fun _ => rfl, -- HOLDOFF_EXPIRE
    -- V/f port (R109 to R111)
    fun _ => runsOnLeaf_of_byLeafGuard fun _ => rfl, -- VF_REQUEST
    fun _ _ => runsOnLeaf_of_byLeafAon fun _ => rfl, -- VF_RESPONSE
    fun _ _ => runsOnLeaf_of_byLeafGuard fun _ => rfl, -- VF_TIMEOUT
    fun _ _ => runsOnLeaf_of_byLeafAon fun _ => rfl, -- VF_REQ
    fun _ _ _ => runsOnLeaf_of_byLeafAon fun _ => rfl, -- MARGIN
    -- Ageing (R114 to R118)
    fun _ _ _ _ _ => runsOnHbm_of_byHbm fun _ => rfl⟩ -- AGEING_POINT

end Sys2Proof.Machine
end

section
/-! ### The CRC by Table 6.10 (R160)

The model feeds a CRC a byte at a time: it adds the byte to the register, modulo 2, and divides eight times. The table's division takes one bit of the
message at each step. The two agree because a step is linear over exclusive or (`CrcRow.shift_xor`) and a message bit that equals the register's top bit
leaves the polynomial out (`CrcRow.shift_topBit`). A reflected register is the mirror image of the one that the table describes (`reflectBits_shift`). -/

namespace Sys2Proof.Machine

/-! #### The division of a row that does not reflect -/

/-- A step multiplies by x and takes the polynomial off where the top bit and the message bit differ. -/
theorem CrcRow.testBit_shift (r : CrcRow) (c : Nat) (b : Bool) (i : Nat) :
    (r.shift c b).testBit i =
      ((decide (i < r.width) && (decide (1 ≤ i) && c.testBit (i - 1))) ^^ ((c.testBit (r.width - 1) ^^ b) && r.poly.testBit i)) := by
  have hdouble : (2 * c % 2 ^ r.width).testBit i = (decide (i < r.width) && (decide (1 ≤ i) && c.testBit (i - 1))) := by
    rw [Nat.testBit_mod_two_pow, ← Nat.testBit_mul_two_pow, pow_one, Nat.mul_comm]
  unfold CrcRow.shift
  split
  next hne => simp [hdouble, hne]
  next heq => simp [hdouble, heq]

theorem CrcRow.shift_xor (r : CrcRow) (x y : Nat) (a b : Bool) : r.shift (x ^^^ y) (a ^^ b) = r.shift x a ^^^ r.shift y b := by
  apply Nat.eq_of_testBit_eq
  intro i
  simp only [CrcRow.testBit_shift, Nat.testBit_xor]
  cases r.poly.testBit i <;> simp [Bool.and_xor_distrib_left, Bool.xor_left_comm]

/-- A message bit that equals the register's top bit leaves the polynomial out. -/
theorem CrcRow.shift_topBit (r : CrcRow) (y : Nat) : r.shift y (y.testBit (r.width - 1)) = 2 * y % 2 ^ r.width := by
  simp [CrcRow.shift]

/-- One division of the model is the table's step with the message bit 0. -/
theorem CrcRow.shift_false (r : CrcRow) (c : Nat) : r.shift c false = crcBitN r.width r.poly c := by
  cases h : c.testBit (r.width - 1) <;> simp [CrcRow.shift, crcBitN, bitOf, h, Nat.mul_comm]

/-- The step with the bit `k` of `b`, where the bits from `k` down stand at the register's top and the division takes them all. -/
theorem CrcRow.crcBitN_xor_bits (r : CrcRow) (b c : Nat) {k : Nat} (hk : k < r.width) :
    crcBitN r.width r.poly (c ^^^ b % 2 ^ (k + 1) * 2 ^ (r.width - (k + 1))) =
      r.shift c (b.testBit k) ^^^ b % 2 ^ k * 2 ^ (r.width - k) := by
  have htop : (b % 2 ^ (k + 1) * 2 ^ (r.width - (k + 1))).testBit (r.width - 1) = b.testBit k := by
    have hle : r.width - (k + 1) ≤ r.width - 1 := by omega
    have hplace : r.width - 1 - (r.width - (k + 1)) = k := by omega
    simp [Nat.testBit_mul_two_pow, Nat.testBit_mod_two_pow, hle, hplace]
  have hrest : 2 * (b % 2 ^ (k + 1) * 2 ^ (r.width - (k + 1))) % 2 ^ r.width = b % 2 ^ k * 2 ^ (r.width - k) := by
    obtain ⟨m, hm⟩ : ∃ m, r.width = k + (m + 1) := ⟨r.width - (k + 1), by omega⟩
    have hdouble : 2 * (b % 2 ^ (k + 1) * 2 ^ m) = b % 2 ^ (k + 1) * 2 ^ (m + 1) := by ring
    simp only [hm, show k + (m + 1) - (k + 1) = m by omega, Nat.add_sub_cancel_left]
    rw [hdouble, Nat.pow_add 2 k (m + 1), Nat.mul_mod_mul_right, Nat.mod_mod_of_dvd b (Nat.pow_dvd_pow 2 k.le_succ)]
  rw [← CrcRow.shift_false, ← Bool.xor_self (b.testBit k), CrcRow.shift_xor, ← hrest, ← CrcRow.shift_topBit, htop]

/-- The lowest `k` bits of a number, the highest of them first. -/
theorem CrcRow.foldl_shift_msbFirst (r : CrcRow) (b : Nat) {k : Nat} (hk : k ≤ r.width) (c : Nat) :
    ((List.range k).map (fun i => b.testBit (k - 1 - i))).foldl r.shift c =
      (crcBitN r.width r.poly)^[k] (c ^^^ b % 2 ^ k * 2 ^ (r.width - k)) := by
  induction k generalizing c with
  | zero => simp [Nat.mod_one]
  | succ k ih =>
    have hbits : (List.range (k + 1)).map (fun i => b.testBit (k + 1 - 1 - i)) =
        b.testBit k :: (List.range k).map (fun i => b.testBit (k - 1 - i)) := by
      simp [List.range_succ_eq_map, Nat.sub_sub, Nat.add_comm]
    rw [hbits, List.foldl_cons, ih (by omega), Function.iterate_succ_apply, r.crcBitN_xor_bits b c hk]

/-- A byte of the message, its bit 7 first, is one byte fed. -/
theorem CrcRow.foldl_shift_byte (r : CrcRow) (hw : 8 ≤ r.width) (c : Nat) (b : Byte) :
    ((List.range 8).map (fun i => b.toNat.testBit (7 - i))).foldl r.shift c = crcByteN r.width r.poly c b.toNat := by
  rw [r.foldl_shift_msbFirst b.toNat hw c, Nat.mod_eq_of_lt b.isLt, crcByteN, List.foldl_const, List.length_range]

/-- By a row that does not reflect, the model's CRC of a width of at least a byte is the table's. -/
theorem CrcRow.of_eq_crcByteN (r : CrcRow) (hr : r.reflected = false) (hw : 8 ≤ r.width) (l : List Byte) :
    r.of l = l.foldl (fun c b => crcByteN r.width r.poly c b.toNat) r.init ^^^ r.final := by
  simp only [CrcRow.of, CrcRow.bits, hr, List.foldl_flatMap, Bool.false_eq_true, if_false, r.foldl_shift_byte hw]

/-! #### The division of a row that reflects -/

theorem reflectBits_succ (w x : Nat) : reflectBits (w + 1) x = 2 * reflectBits w x + b2n (x.testBit w) := by
  simp [reflectBits, List.range_succ]

theorem testBit_reflectBits (w x i : Nat) : (reflectBits w x).testBit i = (decide (i < w) && x.testBit (w - 1 - i)) := by
  induction w generalizing i with
  | zero => simp [reflectBits]
  | succ w ih =>
    rw [reflectBits_succ]
    cases i with
    | zero => cases h : x.testBit w <;> simp [b2n, h, Nat.testBit_zero, Nat.add_mod]
    | succ i =>
      have hhalf : (2 * reflectBits w x + b2n (x.testBit w)) / 2 = reflectBits w x := by
        unfold b2n; split <;> omega
      rw [Nat.testBit_succ, hhalf, ih]
      simp [Nat.sub_sub, Nat.add_comm]

theorem testBit_crcBitR (poly c i : Nat) : (crcBitR poly c).testBit i = (c.testBit (i + 1) ^^ (c.testBit 0 && poly.testBit i)) := by
  unfold crcBitR
  split
  next hodd => simp [hodd, Nat.testBit_succ, Nat.testBit_zero]
  next heven => simp [heven, Nat.testBit_succ, Nat.testBit_zero]

/-- A step of the table, seen in the mirror, adds the message bit at the lowest place and divides from there. -/
theorem reflectBits_shift (r : CrcRow) (hw : 0 < r.width) (c : Nat) (b : Bool) :
    reflectBits r.width (r.shift c b) = crcBitR (reflectBits r.width r.poly) (reflectBits r.width c ^^^ b.toNat) := by
  apply Nat.eq_of_testBit_eq
  intro i
  simp only [testBit_reflectBits, testBit_crcBitR, CrcRow.testBit_shift, Nat.testBit_xor, Nat.testBit_bool_toNat]
  by_cases hi : i < r.width
  · have hone : 1 ≤ r.width - 1 - i ↔ i + 1 < r.width := by omega
    have hinside : r.width - 1 - i < r.width := by omega
    simp only [hone, hinside]
    cases r.poly.testBit (r.width - 1 - i) <;> simp [hi, hw, Nat.sub_sub, Nat.add_comm]
  · simp [hi, show ¬ i + 1 < r.width by omega]

/-- The lowest `k` bits of a number, the lowest of them first. -/
theorem foldl_crcBitR_lsbFirst (poly b k c : Nat) :
    ((List.range k).map b.testBit).foldl (fun c x => crcBitR poly (c ^^^ x.toNat)) c = (crcBitR poly)^[k] (c ^^^ b % 2 ^ k) := by
  induction k generalizing b c with
  | zero => simp [Nat.mod_one]
  | succ k ih =>
    have hbits : (List.range (k + 1)).map b.testBit = b.testBit 0 :: (List.range k).map (b / 2).testBit := by
      simp [List.range_succ_eq_map, Nat.testBit_succ, Function.comp_def]
    have hstep : crcBitR poly (c ^^^ b % 2 ^ (k + 1)) = crcBitR poly (c ^^^ (b.testBit 0).toNat) ^^^ b / 2 % 2 ^ k := by
      apply Nat.eq_of_testBit_eq
      intro i
      have hhigh : (b % 2 ^ (k + 1)).testBit (i + 1) = (b / 2 % 2 ^ k).testBit i := by
        simp [Nat.testBit_mod_two_pow, Nat.testBit_succ b]
      have hlow : (b % 2 ^ (k + 1)).testBit 0 = b.testBit 0 := by
        simp [Nat.testBit_mod_two_pow, -Nat.testBit_zero]
      simp only [testBit_crcBitR, Nat.testBit_xor, Nat.testBit_bool_toNat, hhigh, hlow]
      simp [Bool.xor_comm, -Nat.testBit_zero]
    rw [hbits, List.foldl_cons, ih, Function.iterate_succ_apply, hstep]

/-- A byte of the message, its bit 0 first, is one byte fed. -/
theorem foldl_crcBitR_byte (poly c : Nat) (b : Byte) :
    ((List.range 8).map b.toNat.testBit).foldl (fun c x => crcBitR poly (c ^^^ x.toNat)) c = crcByteR poly c b.toNat := by
  rw [foldl_crcBitR_lsbFirst, Nat.mod_eq_of_lt b.isLt, crcByteR, List.foldl_const, List.length_range]

/-- By a row that reflects, the model's CRC by the mirrored polynomial, from the mirrored initial value, is the table's. -/
theorem CrcRow.of_eq_crcByteR (r : CrcRow) (hr : r.reflected = true) (hw : 0 < r.width) (l : List Byte) :
    r.of l = l.foldl (fun c b => crcByteR (reflectBits r.width r.poly) c b.toNat) (reflectBits r.width r.init) ^^^ r.final := by
  have hmirror : reflectBits r.width ((r.bits l).foldl r.shift r.init) =
      (r.bits l).foldl (fun c x => crcBitR (reflectBits r.width r.poly) (c ^^^ x.toNat)) (reflectBits r.width r.init) :=
    (List.foldl_hom (reflectBits r.width) fun c x => (reflectBits_shift r hw c x).symm).symm
  simp only [CrcRow.of, hr, if_true, hmirror]
  simp only [CrcRow.bits, hr, if_true, List.foldl_flatMap, foldl_crcBitR_byte]

/-! #### The four rows, and what the CRCs check -/

theorem reflectBits_crc32_poly : reflectBits (crcRow 1).width (crcRow 1).poly = 0xEDB88320 := by decide
theorem reflectBits_crc32_init : reflectBits (crcRow 1).width (crcRow 1).init = crcInit 1 := by decide
theorem reflectBits_crc32c_poly : reflectBits (crcRow 2).width (crcRow 2).poly = 0x82F63B78 := by decide
theorem reflectBits_crc32c_init : reflectBits (crcRow 2).width (crcRow 2).init = crcInit 2 := by decide

/-- Each POLY computes the CRC of its row of Table 6.10. -/
theorem crcOf_eq_crcRow_of {poly : Nat} (h : poly < 4) (l : List Byte) : crcOf poly l = (crcRow poly).of l := by
  obtain rfl | rfl | rfl | rfl : poly = 0 ∨ poly = 1 ∨ poly = 2 ∨ poly = 3 := by omega
  · rw [(crcRow 0).of_eq_crcByteN rfl (by decide)]
    exact (Nat.xor_zero _).symm
  · rw [(crcRow 1).of_eq_crcByteR rfl (by decide), reflectBits_crc32_poly, reflectBits_crc32_init]
    rfl
  · rw [(crcRow 2).of_eq_crcByteR rfl (by decide), reflectBits_crc32c_poly, reflectBits_crc32c_init]
    rfl
  · rw [(crcRow 3).of_eq_crcByteN rfl (by decide)]
    exact (Nat.xor_zero _).symm

/-- The CRC of "123456789" by each POLY is the row's check value: 72 divisions, evaluated. -/
theorem crcOf_digits {poly : Nat} (h : poly < 4) :
    crcOf poly [0x31, 0x32, 0x33, 0x34, 0x35, 0x36, 0x37, 0x38, 0x39] = (crcRow poly).check := by
  obtain rfl | rfl | rfl | rfl : poly = 0 ∨ poly = 1 ∨ poly = 2 ∨ poly = 3 := by omega
  all_goals simp [crcOf, crcInit, crcFeed, crcByteN, crcByteR, List.range, List.range.loop, crcBitN, crcBitR, bitOf,
    Nat.testBit_eq_decide_div_mod_eq, crcFinal, crcRow]

/-- A time-of-day message whose CRC is not that of its bytes counts as absent (R49). -/
theorem Node.takeTod_tod_of_crc_ne (n : Node) {l : List Byte} (h : crcOf 0 (slice l 2 14) ≠ field l 16 2) : (n.takeTod l).time.tod = none := by
  have hcrc : crcOf 0 ((l.drop 2).take 14) ≠ field (l.drop 2) 14 2 := by
    simpa [slice, field, List.drop_drop] using h
  simp [Node.takeTod, hcrc]

theorem crc32c_of_fchkGood {l : List Byte} (h : fchkGood l = true) : crc32c (l.take (24 + field l 2 2)) = field l (24 + field l 2 2) 4 := by
  simp only [fchkGood, Bool.and_eq_true, decide_eq_true_eq] at h
  obtain ⟨_, hcrc⟩ := h
  exact hcrc

theorem crc32c_of_riceDecode {l raw : List Byte} {rlen : Nat} (h : riceDecode l rlen = some raw) : crc32c raw = field l 4 4 := by
  simp only [riceDecode] at h
  split at h
  next => contradiction
  next =>
    split at h
    next => contradiction
    next =>
      split at h
      next hgood =>
        obtain ⟨_, hcrc⟩ := hgood
        obtain rfl := Option.some.inj h
        exact hcrc
      next => contradiction

/-- Settles O31: the byte-wise CRC is the bit-wise division by the row, for every byte string, and each of the three uses compares that CRC. -/
theorem crcByTable : Obligations.CrcByTable := by
  unfold Obligations.CrcByTable
  refine ⟨fun _ l hpoly => crcOf_eq_crcRow_of hpoly l, fun _ hpoly => crcOf_digits hpoly, ?_, ?_, ?_⟩
  · intro n l hne
    rw [← crcOf_eq_crcRow_of (by decide)] at hne
    exact n.takeTod_tod_of_crc_ne hne
  · intro l hgood
    rw [← crcOf_eq_crcRow_of (by decide)]
    exact crc32c_of_fchkGood hgood
  · intro l raw n hraw
    rw [← crcOf_eq_crcRow_of (by decide)]
    exact crc32c_of_riceDecode hraw

end Sys2Proof.Machine
end

section
/-! ### Packer, receiver, CRC units and Ring log -/

namespace Sys2Proof.Machine

/-- A command of a leaf's packer or receiver completes, and acts wherever L-SAP is not held. -/
theorem runsOnLeaf_of_bySap {c : Instr} {w : LeafSel} {f : Node → Node} (h : ∀ s : State, exec c s = s.bySap w.block f) :
    runsOnLeaf c w Leaf.sapHeld (·.on f) :=
  runsOnLeaf_of_unless (runsOnLeaf_of_byBlock h)

/-- The same command of a crown's packer or receiver completes, and nothing stops it. -/
theorem runsOnCrown_of_bySap {c : Instr} {f : Node → Node} (h : ∀ s : State, exec c s = s.bySap .crown f) : runsOnCrown c free (·.on f) :=
  runsOnCrown_of_byCrown h

/-- Settles O7: `exec` gives each command one of the forms `bySap`, `byLeafSap`, `byBlock`, `byBlockHbm`, `byCrown` and `byHbm`. A leaf's commands stop
with L-SAP, but for FRAME_CLOSE and FRAME_SELECT, whose operations ask themselves whether the packer runs, and RLOG_READ, which stops with L-AON. A self
leaf's frame goes straight to its crown, so its FRAME_SELECT may access HBM as a crown's received frame may. -/
theorem sapCommandsComplete : Obligations.SapCommandsComplete := by
  unfold Obligations.SapCommandsComplete
  exact ⟨
    -- Packer (R143 to R147, R157, R162)
    fun _ _ _ _ _ => runsOnLeaf_of_bySap fun _ => rfl, -- RECORD_ENQUEUE, of a leaf
    fun _ _ _ _ => runsOnCrown_of_bySap fun _ => rfl, -- RECORD_ENQUEUE, of the crown
    fun _ _ _ => runsOnLeaf_of_byBlock fun _ => rfl, -- FRAME_CLOSE, of a leaf
    fun _ _ => runsOnCrown_of_byCrown fun _ => rfl, -- FRAME_CLOSE, of the crown
    fun _ => runsOnLeaf_of_byLeaf fun _ => rfl, -- FRAME_SELECT, of a die
    fun _ => runsOnHbm_of_byHbm fun _ => rfl, -- FRAME_SELECT, of the self leaf
    fun _ => runsOnHbm_of_byHbm fun _ => rfl, -- FRAME_SELECT, of the crown
    fun _ => runsOnLeaf_of_bySap fun _ => rfl, -- ALIVE_PERIOD_END, of a leaf
    runsOnCrown_of_bySap fun _ => rfl, -- ALIVE_PERIOD_END, of the crown
    fun _ _ _ => runsOnLeaf_of_bySap fun _ => rfl, -- REPLAY_START, of a leaf
    fun _ _ => runsOnCrown_of_bySap fun _ => rfl, -- REPLAY_START, of the crown
    fun _ _ _ => runsOnLeaf_of_bySap fun _ => rfl, -- LEVEL_RISE, of a leaf
    fun _ _ => runsOnCrown_of_bySap fun _ => rfl, -- LEVEL_RISE, of the crown
    fun _ _ _ => runsOnLeaf_of_bySap fun _ => rfl, -- LEVEL_FALL, of a leaf
    fun _ _ => runsOnCrown_of_bySap fun _ => rfl, -- LEVEL_FALL, of the crown
    fun _ _ _ => runsOnLeaf_of_byLeafSap fun _ => rfl, -- QSIZE_WRITE
    -- Receiver (R148, R149, R151)
    fun _ _ _ => runsOnLeaf_of_unless (runsOnLeaf_of_byBlockHbm fun _ => rfl), -- FRAME_RECEIVE, of a leaf
    fun _ _ => runsOnHbm_of_byHbm fun _ => rfl, -- FRAME_RECEIVE, of the crown
    fun _ _ => runsOnHbm_of_byHbm fun _ => rfl, -- DEAD
    fun _ => runsOnLeaf_of_unless (runsOnLeaf_of_byBlock fun _ => rfl), -- TSTATUS_PERIODIC, of a leaf
    runsOnCrown_of_byCrown fun _ => rfl, -- TSTATUS_PERIODIC, of the crown
    -- CRC units (R161)
    fun _ _ => runsOnLeaf_of_byLeafSap fun _ => rfl, -- START
    fun _ _ _ => runsOnLeaf_of_byLeafSap fun _ => rfl, -- CRC_DATA
    -- Ring log, mirrors and operating seconds (R167 to R177)
    fun _ _ _ => runsOnLeaf_of_byLeafSap fun _ => rfl, -- RESTORE
    fun _ _ => runsOnCrown_of_byCrown fun _ => rfl, -- POWER_UP
    runsOnCrown_of_byCrown fun _ => rfl, -- OPSEC_SAVE
    fun _ => runsOnCrown_of_byCrown fun _ => rfl, -- RLOG_RST_PORT
    fun _ _ => runsOnCrown_of_byCrown fun _ => rfl, -- MIRROR_RECORD
    fun _ _ _ => runsOnLeaf_of_unless (runsOnLeaf_of_byBlock fun _ => rfl), -- MIRROR_ACK, of a leaf
    fun _ _ => runsOnCrown_of_byCrown fun _ => rfl, -- MIRROR_ACK, of the crown
    fun _ _ _ => runsOnLeaf_of_unless (runsOnLeaf_of_byBlock fun _ => rfl), -- RLOG_READ, of a leaf
    fun _ _ => runsOnCrown_of_byCrown fun _ => rfl, -- RLOG_READ, of the crown
    fun _ _ _ => runsOnLeaf_of_unless (runsOnLeaf_of_byBlock fun _ => rfl), -- READ, of a leaf
    fun _ _ => runsOnCrown_of_byCrown fun _ => rfl, -- READ, of the crown
    fun _ _ => runsOnCrown_of_byCrown fun _ => rfl, -- DATA
    fun _ _ _ => runsOnCrown_of_byCrown fun _ => rfl, -- MIRROR_READ
    fun _ => runsOnCrown_of_byCrown fun _ => rfl, -- CLEAR_TICKET
    fun _ _ _ _ _ => runsOnLeaf_of_unless (runsOnLeaf_of_byBlock fun _ => rfl), -- RLOG_CLEAR, of a leaf
    fun _ _ _ _ => runsOnCrown_of_byCrown fun _ => rfl⟩ -- RLOG_CLEAR, of the crown

end Sys2Proof.Machine
end

section
/-! ### Bark lanes -/

namespace Sys2Proof.Machine

/-- A command on a lane of a leaf completes, and acts wherever the lane is there and does not stand still; the leaf's parent follows its lanes. -/
theorem runsOnLeaf_of_byLane {c : Instr} {w : LeafSel} {lane : Nat} {f : Node → Node} (h : ∀ s : State, exec c s = s.byLane w.block lane f) :
    runsOnLeaf c w (·.laneDead lane) (·.on (fun n => (f n).leafParent)) :=
  runsOnLeaf_of_unless (runsOnLeaf_of_byBlock h)

/-- The same of a crown's lane, with what follows the lanes in service: flex circuits and ports. -/
theorem runsOnCrown_of_byLane {c : Instr} {lane : Nat} {f : Node → Node} (h : ∀ s : State, exec c s = s.byLane .crown lane f) :
    runsOnCrown c (·.laneDead lane) (fun k => ((k.on f).flexMove).portChanged) :=
  runsOnCrown_of_unless (runsOnCrown_of_byCrown h)

/-- Settles O8: `exec` gives each command one of the forms `byLane`, `byBlock`, `byBlockHbm` and `byCrown`, and each acts unless its lane stands still.
The exceptions are the crown's echo engine and passes, which are no lane's and never stop, and a codeword at a crown: its frames may access HBM, so it
completes where that operation, lane test included, does not stray. -/
theorem laneCommandsComplete : Obligations.LaneCommandsComplete := by
  unfold Obligations.LaneCommandsComplete
  exact ⟨
    -- Enable and retrain (R203)
    fun _ _ _ => runsOnLeaf_of_byLane fun _ => rfl, -- LANE_EN_WRITE, of a leaf
    fun _ _ => runsOnCrown_of_byLane fun _ => rfl, -- LANE_EN_WRITE, of the crown
    fun _ _ => runsOnLeaf_of_byLane fun _ => rfl, -- RETRAIN_WRITE, of a leaf
    fun _ => runsOnCrown_of_byLane fun _ => rfl, -- RETRAIN_WRITE, of the crown
    fun _ _ => runsOnLeaf_of_byLane fun _ => rfl, -- RETRAIN, of a leaf
    fun _ => runsOnCrown_of_byLane fun _ => rfl, -- RETRAIN, of the crown
    -- Training (R192, R193, R196, R197)
    fun _ _ _ => runsOnLeaf_of_byLane fun _ => rfl, -- TRAIN_STEP_END, of a leaf
    fun _ _ => runsOnCrown_of_byLane fun _ => rfl, -- TRAIN_STEP_END, of the crown
    fun _ _ _ _ => runsOnLeaf_of_byLane fun _ => rfl, -- PROBE_HEARD, of a leaf
    fun _ _ _ => runsOnCrown_of_byLane fun _ => rfl, -- PROBE_HEARD, of the crown
    fun _ _ _ => runsOnLeaf_of_byLane fun _ => rfl, -- TRAINING_FRAME, of a leaf
    fun _ _ => runsOnCrown_of_byLane fun _ => rfl, -- TRAINING_FRAME, of the crown
    fun _ _ => runsOnLeaf_of_byLane fun _ => rfl, -- TRIAL_VERDICT, of a leaf
    fun _ => runsOnCrown_of_byLane fun _ => rfl, -- TRIAL_VERDICT, of the crown
    fun _ _ => runsOnLeaf_of_unless (runsOnLeaf_of_byBlock fun _ => rfl), -- RETRY, of a leaf
    fun _ => runsOnCrown_of_unless (runsOnCrown_of_byCrown fun _ => rfl), -- RETRY, of the crown
    -- A crown's echo engine and downlink passes (R205, R206)
    runsOnCrown_of_byCrown fun _ => rfl, -- ECHO_ENGINE_GRANT
    runsOnCrown_of_byCrown fun _ => rfl, -- DOWNLINK_PASS_START
    runsOnCrown_of_byCrown fun _ => rfl, -- BATCH_START
    -- Lanes in service (R189, R191, R200, R201)
    fun _ _ _ => runsOnLeaf_of_byLane fun _ => rfl, -- LANE_DOWN, of a leaf
    fun _ _ => runsOnCrown_of_byLane fun _ => rfl, -- LANE_DOWN, of the crown
    fun _ _ => runsOnLeaf_of_byLane fun _ => rfl, -- SILENT_END, of a leaf
    fun _ => runsOnCrown_of_byLane fun _ => rfl, -- SILENT_END, of the crown
    fun _ _ _ => runsOnLeaf_of_unless (runsOnLeaf_of_byBlockHbm fun _ => rfl), -- CODEWORD_RECEIVE, of a leaf
    fun _ _ => runsOnHbm_of_byHbm fun _ => rfl, -- CODEWORD_RECEIVE, of the crown
    fun _ _ _ _ => runsOnLeaf_of_unless (runsOnLeaf_of_byBlock fun _ => rfl), -- KEEPALIVE_SEND, of a leaf
    fun _ _ _ => runsOnCrown_of_unless (runsOnCrown_of_byCrown fun _ => rfl), -- KEEPALIVE_SEND, of the crown
    fun _ _ _ => runsOnLeaf_of_byLane fun _ => rfl, -- KEEPALIVE, of a leaf
    fun _ _ => runsOnCrown_of_byLane fun _ => rfl, -- KEEPALIVE, of the crown
    fun _ _ _ _ _ => runsOnLeaf_of_byLane fun _ => rfl, -- LQ_WINDOW_END, of a leaf
    fun _ _ _ _ => runsOnCrown_of_byLane fun _ => rfl, -- LQ_WINDOW_END, of the crown
    -- Change of mode (R202)
    fun _ _ _ => runsOnLeaf_of_byLane fun _ => rfl, -- MODE_REQ, of a leaf
    fun _ _ => runsOnCrown_of_byLane fun _ => rfl, -- MODE_REQ, of the crown
    fun _ _ _ => runsOnLeaf_of_byLane fun _ => rfl, -- MODE_ACK, of a leaf
    fun _ _ => runsOnCrown_of_byLane fun _ => rfl, -- MODE_ACK, of the crown
    fun _ _ _ => runsOnLeaf_of_byLane fun _ => rfl, -- MODE_GO, of a leaf
    fun _ _ => runsOnCrown_of_byLane fun _ => rfl, -- MODE_GO, of the crown
    fun _ _ => runsOnLeaf_of_byLane fun _ => rfl, -- MODE_CHANGE_TIMEOUT, of a leaf
    fun _ => runsOnCrown_of_byLane fun _ => rfl, -- MODE_CHANGE_TIMEOUT, of the crown
    fun _ _ _ => runsOnLeaf_of_byLane fun _ => rfl, -- MODE_SWITCH, of a leaf
    fun _ _ => runsOnCrown_of_byLane fun _ => rfl, -- MODE_SWITCH, of the crown
    fun _ _ => runsOnLeaf_of_byLane fun _ => rfl, -- MODE_LOCKED, of a leaf
    fun _ => runsOnCrown_of_byLane fun _ => rfl⟩ -- MODE_LOCKED, of the crown

end Sys2Proof.Machine
end

section
/-! ### Reduction, flex circuits, egress and crown engine -/

namespace Sys2Proof.Machine

/-- Settles O9: every command of the family is the crown's, in the form `byCrown` or `byHbm`. Those of reduction, flex circuits and egress, CMAP_DONE and
HBM_TRAINED access no HBM and complete at every state. Those of the cell map, the rings and the engines may access it (R256) and complete where their
operation does not stray. -/
theorem trafficCommandsComplete : Obligations.TrafficCommandsComplete := by
  unfold Obligations.TrafficCommandsComplete
  exact ⟨
    -- Windows and the records of reduction (R213, R222 to R225)
    fun _ => runsOnCrown_of_byCrown fun _ => rfl, -- WINDOW_CLOSE
    fun _ _ => runsOnCrown_of_byCrown fun _ => rfl, -- AGG
    fun _ _ => runsOnCrown_of_byCrown fun _ => rfl, -- RAW
    fun _ => runsOnCrown_of_byCrown fun _ => rfl, -- LOAD_INTERVAL
    fun _ _ => runsOnCrown_of_byCrown fun _ => rfl, -- SHIFT
    fun _ _ => runsOnCrown_of_byCrown fun _ => rfl, -- LOAD
    -- Flex circuits (R226 to R228)
    fun _ => runsOnCrown_of_byCrown fun _ => rfl, -- REQ
    fun _ => runsOnCrown_of_byCrown fun _ => rfl, -- GRANT
    fun _ => runsOnCrown_of_byCrown fun _ => rfl, -- DENY
    runsOnCrown_of_byCrown fun _ => rfl, -- RELEASE
    runsOnCrown_of_byCrown fun _ => rfl, -- FLEX_TIMEOUT
    -- Egress: shaper, gate list and queues (R231, R233, R234, R237)
    runsOnCrown_of_byCrown fun _ => rfl, -- SHAPER_REFILL
    fun _ => runsOnCrown_of_byCrown fun _ => rfl, -- GO
    fun _ => runsOnCrown_of_byCrown fun _ => rfl, -- GATE_TAKEOVER
    runsOnCrown_of_byCrown fun _ => rfl, -- QUEUE_SAMPLE
    fun _ _ _ _ => runsOnCrown_of_byCrown fun _ => rfl, -- NSAMP_READ
    fun _ => runsOnCrown_of_byCrown fun _ => rfl, -- STRICT_DISCARD
    -- Cell map (R244, R245)
    fun _ _ _ => runsOnHbm_of_byHbm fun _ => rfl, -- REMAP
    fun _ _ => runsOnHbm_of_byHbm fun _ => rfl, -- RETIRE
    runsOnCrown_of_byCrown fun _ => rfl, -- CMAP_DONE
    -- Rings, jobs and the engines' faults (R260, R263, R265, R267, R268)
    fun _ _ => runsOnHbm_of_byHbm fun _ => rfl, -- QUEUE_TAIL_WRITE
    fun _ _ => runsOnHbm_of_byHbm fun _ => rfl, -- CPL_HEAD_WRITE
    fun _ => runsOnHbm_of_byHbm fun _ => rfl, -- JOB_START
    fun _ => runsOnHbm_of_byHbm fun _ => rfl, -- JOB_COMPLETE
    fun _ _ _ => runsOnHbm_of_byHbm fun _ => rfl, -- ENGINE_FAULT
    fun _ _ => runsOnHbm_of_byHbm fun _ => rfl, -- ABORT_QUEUE
    -- Training of an HBM controller (R408)
    fun _ _ => runsOnCrown_of_byCrown fun _ => rfl⟩ -- HBM_TRAINED

end Sys2Proof.Machine
end

section
/-! ### Feature stage, trees, stragglers and drift -/

namespace Sys2Proof.Machine

/-- Settles O10: every command of the family is the crown's, in the form `byCrown` or `byHbm`. LOAD_ENSEMBLE, UNLOAD, BUDGET_HOUR_END and RESET_RUNS access
no HBM and complete at every state. The others may access it (R256), for vectors, images, jobs, completion rings or the history store, and complete where
their operation does not stray. -/
theorem treeCommandsComplete : Obligations.TreeCommandsComplete := by
  unfold Obligations.TreeCommandsComplete
  exact ⟨
    -- Feature stage (R277)
    fun _ => runsOnHbm_of_byHbm fun _ => rfl, -- VECTOR_FORM
    -- Ensemble slots (R284, R286)
    fun _ _ => runsOnCrown_of_byCrown fun _ => rfl, -- LOAD_ENSEMBLE
    fun _ _ => runsOnHbm_of_byHbm fun _ => rfl, -- ENSEMBLE_LOADED
    fun _ => runsOnCrown_of_byCrown fun _ => rfl, -- UNLOAD
    -- Tree jobs (R289, R291)
    fun _ => runsOnHbm_of_byHbm fun _ => rfl, -- TREE_JOB_START
    fun _ => runsOnHbm_of_byHbm fun _ => rfl, -- TREE_JOB_COMPLETE
    fun _ _ => runsOnHbm_of_byHbm fun _ => rfl, -- TREE_FAULT
    -- Window engine: windows, refits and budgets (R296, R306, R308)
    runsOnHbm_of_byHbm fun _ => rfl, -- WINDOW_PROCESS
    fun _ _ => runsOnHbm_of_byHbm fun _ => rfl, -- REFIT_COMPLETE
    fun _ => runsOnCrown_of_byCrown fun _ => rfl, -- BUDGET_HOUR_END
    -- The commands of BZ_WIN_CMD (R302, R315)
    fun _ => runsOnHbm_of_byHbm fun _ => rfl, -- REBASE
    fun _ => runsOnCrown_of_byCrown fun _ => rfl⟩ -- RESET_RUNS

end Sys2Proof.Machine
end

section
/-! ### Audit, placement and Graft -/

namespace Sys2Proof.Machine

/-- A command at the die's audit ports completes, and acts wherever they do not stand still: neither L-HOST failed or held nor L-AON held. -/
theorem runsOnLeaf_of_byLeafHost {c : Instr} {f : Leaf → Leaf} (h : ∀ s : State, exec c s = s.byLeafHost f) : runsOnLeaf c .die Leaf.hostDead f :=
  runsOnLeaf_of_unless (runsOnLeaf_of_byLeaf h)

/-- Settles O11: the commands of the die's audit tap have the form `byLeafHost` where they come in at the audit ports (AUDIT_DESCRIPTOR, FETCH_ISSUE,
FETCH_RESPONSE and REPLAY_DONE), else `byLeafAon`, which L-AON's reset alone stops. All others are the crown's, in the form `byCrown` or
`byHbm`. ENG_CLEAR, RESEED, REHEARSE, GRADE_RISE, SUMMARY, GROVE_STALE and STAND_IN access no HBM and complete at every state. The others may access it
(R256) and complete where their operation does not stray. -/
theorem auditCommandsComplete : Obligations.AuditCommandsComplete := by
  unfold Obligations.AuditCommandsComplete
  exact ⟨
    -- The die's audit tap: samples and what is fetched for them (R316, R325, R326)
    fun _ _ => runsOnLeaf_of_byLeafHost fun _ => rfl, -- AUDIT_DESCRIPTOR
    runsOnLeaf_of_byLeafHost fun _ => rfl, -- FETCH_ISSUE
    fun _ _ _ => runsOnLeaf_of_byLeafHost fun _ => rfl, -- FETCH_RESPONSE
    runsOnLeaf_of_byLeafAon fun _ => rfl, -- RETENTION_EXPIRE
    runsOnLeaf_of_byLeafAon fun _ => rfl, -- RESULT
    -- Its thresholds, lock, replays and weight digests (R322, R324, R333, R340)
    fun _ _ => runsOnLeaf_of_byLeafAon fun _ => rfl, -- CONFIG
    fun _ _ _ => runsOnLeaf_of_byLeafAon fun _ => rfl, -- BOOST
    runsOnLeaf_of_byLeafAon fun _ => rfl, -- LOCK
    fun _ => runsOnLeaf_of_byLeafAon fun _ => rfl, -- REPLAY
    fun _ => runsOnLeaf_of_byLeafHost fun _ => rfl, -- REPLAY_DONE
    runsOnLeaf_of_byLeafAon fun _ => rfl, -- REPLAY_EXPIRE
    fun _ => runsOnLeaf_of_byLeafAon fun _ => rfl, -- WDIGEST
    -- The crown's audit service (R321, R329, R330, R334, R335, R341, R345)
    fun _ _ => runsOnHbm_of_byHbm fun _ => rfl, -- SAMPLE_COMPLETE
    runsOnHbm_of_byHbm fun _ => rfl, -- RECOMPUTE_COMPLETE
    fun _ _ => runsOnHbm_of_byHbm fun _ => rfl, -- REPLAY_RESULT
    fun _ _ => runsOnCrown_of_byCrown fun _ => rfl, -- ENG_CLEAR
    runsOnCrown_of_byCrown fun _ => rfl, -- RESEED
    runsOnHbm_of_byHbm fun _ => rfl, -- WEIGHT_ROUND_END
    fun _ _ => runsOnCrown_of_byCrown fun _ => rfl, -- REHEARSE
    -- Grove: grades, placement and summaries (R352, R353, R356, R360 to R363)
    fun _ _ _ => runsOnHbm_of_byHbm fun _ => rfl, -- HEALTH_INPUT
    fun _ => runsOnCrown_of_byCrown fun _ => rfl, -- GRADE_RISE
    fun _ => runsOnHbm_of_byHbm fun _ => rfl, -- PLACE
    fun _ => runsOnHbm_of_byHbm fun _ => rfl, -- RELEASE_JOB
    fun _ => runsOnHbm_of_byHbm fun _ => rfl, -- RESP
    runsOnCrown_of_byCrown fun _ => rfl, -- SUMMARY
    runsOnCrown_of_byCrown fun _ => rfl, -- GROVE_STALE
    -- Graft and the commands on a port (R366, R368, R371)
    fun _ => runsOnHbm_of_byHbm fun _ => rfl, -- DEAD_FAIL_TIMEOUT
    fun _ => runsOnHbm_of_byHbm fun _ => rfl, -- VACANCY_FILL
    fun _ => runsOnHbm_of_byHbm fun _ => rfl, -- HOLD
    fun _ => runsOnHbm_of_byHbm fun _ => rfl, -- UNHOLD
    fun _ => runsOnHbm_of_byHbm fun _ => rfl, -- FAIL
    fun _ => runsOnHbm_of_byHbm fun _ => rfl, -- REINSTATE
    fun _ _ => runsOnCrown_of_byCrown fun _ => rfl⟩ -- STAND_IN

end Sys2Proof.Machine
end

section
/-! ### Heartwood -/

namespace Sys2Proof.Machine

/-- Settles O12: every command of Heartwood has the form `byLeaf` on the die. No leaf reset reaches the partition and its clock is its own (R373), so
nothing stops its commands from outside: whether Heartwood runs, its operations ask themselves. The mailbox commands are one operation, `Leaf.heartMail`,
on the bytes of R389, and CMD_REJECT is that operation where it turns its bytes away. The meter relay is the crown's, in the form `byCrown`. So each
command completes at every state. -/
theorem heartwoodCommandsComplete : Obligations.HeartwoodCommandsComplete := by
  unfold Obligations.HeartwoodCommandsComplete
  exact ⟨
    -- Start and metering (R373, R376, R377, R379, R380, R384, R386)
    fun _ => runsOnLeaf_of_byLeaf fun _ => rfl, -- HW_RESET_RELEASE
    fun _ _ _ _ _ _ => runsOnLeaf_of_byLeaf fun _ => rfl, -- HW_TAG_CYCLE
    fun _ _ => runsOnLeaf_of_byLeaf fun _ => rfl, -- REQUEST_END
    fun _ _ => runsOnLeaf_of_byLeaf fun _ => rfl, -- POWER_SAMPLE
    runsOnLeaf_of_byLeaf fun _ => rfl, -- SUBINTERVAL_END
    runsOnLeaf_of_byLeaf fun _ => rfl, -- HW_INTERVAL_END
    fun _ => runsOnLeaf_of_byLeaf fun _ => rfl, -- HW_RELEASE
    -- Tamper evidence and the oscillator (R388, R391)
    fun _ => runsOnLeaf_of_byLeaf fun _ => rfl, -- TAMPER
    fun _ => runsOnLeaf_of_byLeaf fun _ => rfl, -- OSC_FAULT
    -- Mailbox commands without a signature (R390, R394)
    runsOnLeaf_of_byLeaf fun _ => rfl, -- GET_ID
    fun _ => runsOnLeaf_of_byLeaf fun _ => rfl, -- ATTEST
    fun _ => runsOnLeaf_of_byLeaf fun _ => rfl, -- HW_RESTORE
    fun _ => runsOnLeaf_of_byLeaf fun _ => rfl, -- READ_LOG
    -- Authenticated mailbox commands, and buffers that are turned away (R390, R392)
    fun _ _ _ => runsOnLeaf_of_byLeaf fun _ => rfl, -- SET_CONFIG
    fun _ _ => runsOnLeaf_of_byLeaf fun _ => rfl, -- SEAL
    fun _ _ => runsOnLeaf_of_byLeaf fun _ => rfl, -- UNSEAL
    fun _ _ => runsOnLeaf_of_byLeaf fun _ => rfl, -- CLEAR_TAMPER
    fun _ => runsOnLeaf_of_byLeaf fun _ => rfl, -- CMD_REJECT
    -- The crown's meter relay (R396)
    fun _ => runsOnCrown_of_byCrown fun _ => rfl⟩ -- METER_RELAY_RESTORE

end Sys2Proof.Machine
end

section
/-! ### Bring-up, broadcasts and job starts -/

namespace Sys2Proof.Machine

/-- A command of bring-up or of a job start that a leaf takes in through L-SAP and the crown on a path of its own completes on a leaf, and acts wherever
L-SAP is not held. -/
theorem runsOnLeaf_of_byBlockUnlessSap {c : Instr} {w : LeafSel} {fl : Leaf → Leaf} {fc : Crown → Crown}
    (h : ∀ s : State, exec c s = s.byBlock w.block (fun l => l.unless l.sapHeld fl) fc) : runsOnLeaf c w Leaf.sapHeld fl :=
  runsOnLeaf_of_unless (runsOnLeaf_of_byBlock h)

/-- A command in the time unit of a leaf completes, and acts wherever that unit does not stand still. -/
theorem runsOnLeaf_of_byLeafTime {c : Instr} {w : LeafSel} {f : Leaf → Leaf} (h : ∀ s : State, exec c s = s.byLeafTime w f) :
    runsOnLeaf c w Leaf.timeDead f :=
  runsOnLeaf_of_unless (runsOnLeaf_of_byLeaf h)

/-- Settles O13: what reaches a leaf in a frame (ASSIGN, REG_WRITE and the bodies of a job start) stops with L-SAP, NVM_READ and the pop of the start FIFO
stop with L-AON, and T_GO stops with the time unit; the statement rules these out. All others are the crown's, in the form `byCrown` or `byHbm`.
ROM_BOOT, ADMISSION_CHECK, NOHBM_DEADLINE, WARM, CHUNK and BROADCAST_APPLY may access HBM (R256) and complete where their operation does not stray; the
rest of the crown's commands complete at every state. -/
theorem bringUpCommandsComplete : Obligations.BringUpCommandsComplete := by
  unfold Obligations.BringUpCommandsComplete
  exact ⟨
    -- The crown's start (R405, R407 to R409, R424)
    fun _ _ => runsOnHbm_of_byHbm fun _ => rfl, -- ROM_BOOT
    fun _ => runsOnCrown_of_byCrown fun _ => rfl, -- BIST
    runsOnHbm_of_byHbm fun _ => rfl, -- ADMISSION_CHECK
    runsOnCrown_of_byCrown fun _ => rfl, -- READY
    runsOnHbm_of_byHbm fun _ => rfl, -- NOHBM_DEADLINE
    -- Configuration of a leaf and of the crowns below (R409 to R411, R413)
    fun _ _ => runsOnLeaf_of_byLeafAon fun _ => rfl, -- NVM_READ
    fun _ _ _ => runsOnLeaf_of_byBlockUnlessSap fun _ => rfl, -- ASSIGN, of a leaf
    fun _ _ => runsOnCrown_of_byCrown fun _ => rfl, -- ASSIGN, of the crown
    fun _ _ _ => runsOnCrown_of_byCrown fun _ => rfl, -- ASSIGN_ACK
    fun _ _ _ => runsOnLeaf_of_byLeafSap fun _ => rfl, -- REG_WRITE
    fun _ _ => runsOnCrown_of_byCrown fun _ => rfl, -- REG_DONE
    -- Warm start and topology (R412, R413)
    runsOnHbm_of_byHbm fun _ => rfl, -- WARM
    runsOnCrown_of_byCrown fun _ => rfl, -- TOPOLOGY_CHECK
    -- Broadcasts (R415 to R419)
    fun _ _ => runsOnCrown_of_byCrown fun _ => rfl, -- OFFER
    fun _ => runsOnHbm_of_byHbm fun _ => rfl, -- CHUNK
    fun _ _ => runsOnCrown_of_byCrown fun _ => rfl, -- BCAST_REQ
    fun _ => runsOnCrown_of_byCrown fun _ => rfl, -- ACK
    fun _ => runsOnCrown_of_byCrown fun _ => rfl, -- ACK_SEND
    fun _ => runsOnCrown_of_byCrown fun _ => rfl, -- ACK_BY_EXPIRE
    fun _ _ => runsOnCrown_of_byCrown fun _ => rfl, -- COMMIT
    runsOnHbm_of_byHbm fun _ => rfl, -- BROADCAST_APPLY
    fun _ => runsOnCrown_of_byCrown fun _ => rfl, -- ABORT_BROADCAST
    fun _ => runsOnCrown_of_byCrown fun _ => rfl, -- BROADCAST_DISCARD
    -- Job starts (R422, R423, R427)
    fun _ _ => runsOnLeaf_of_byBlockUnlessSap fun _ => rfl, -- JOB_ARM, of a leaf
    fun _ => runsOnCrown_of_byCrown fun _ => rfl, -- JOB_ARM, of the crown
    fun _ _ => runsOnLeaf_of_byBlockUnlessSap fun _ => rfl, -- JOB_GO, of a leaf
    fun _ => runsOnCrown_of_byCrown fun _ => rfl, -- JOB_GO, of the crown
    fun _ _ => runsOnLeaf_of_byBlockUnlessSap fun _ => rfl, -- JOB_CANCEL, of a leaf
    fun _ => runsOnCrown_of_byCrown fun _ => rfl, -- JOB_CANCEL, of the crown
    fun _ => runsOnCrown_of_byCrown fun _ => rfl, -- JOB_ACK
    fun _ => runsOnLeaf_of_byLeafTime fun _ => rfl, -- JOB_T_GO
    fun _ => runsOnCrown_of_byCrown fun _ => rfl, -- JOB_REPORT
    fun _ _ => runsOnLeaf_of_byLeafAon fun _ => rfl⟩ -- JOB_FIFO_POP

end Sys2Proof.Machine
end

section
/-! ## What leaves Heartwood's partition alone: every operation of a leaf's other units -/

namespace Sys2Proof.Machine

/-! The partition's part of an update that does not reach it. The proofs are terms of their own and no definitional unfoldings: `simp` then chains them, and
the kernel never compares what the updates write. -/

@[simp] theorem Leaf.heart_on (l : Leaf) (f : Node → Node) : (l.on f).heart = l.heart := (rfl)
@[simp] theorem Leaf.heart_onReader (l : Leaf) (f : Reader → Reader) : (l.onReader f).heart = l.heart := (rfl)
@[simp] theorem Leaf.heart_onGuards (l : Leaf) (f : Guards → Guards) : (l.onGuards f).heart = l.heart := (rfl)
@[simp] theorem Leaf.heart_onTap (l : Leaf) (f : AuditTap → AuditTap) : (l.onTap f).heart = l.heart := (rfl)
@[simp] theorem Leaf.heart_onBoot (l : Leaf) (f : LeafBoot → LeafBoot) : (l.onBoot f).heart = l.heart := (rfl)
@[simp] theorem Leaf.heart_setTwig (l : Leaf) (t : Nat) (w : Twig) : (l.setTwig t w).heart = l.heart := (rfl)

/-- A choice between two leaves keeps the partition where both do. -/
@[simp] theorem Leaf.ite_heart (c : Prop) [Decidable c] (a b : Leaf) : (if c then a else b).heart = if c then a.heart else b.heart :=
  apply_ite Leaf.heart c a b

/-- A run of steps of which each keeps what `p` reads keeps it. -/
theorem foldl_keeps {σ α β : Type} (p : σ → β) (g : σ → α → σ) (h : ∀ s x, p (g s x) = p s) (xs : List α) (s : σ) :
    p (xs.foldl g s) = p s := by
  induction xs generalizing s with
  | nil => rfl
  | cons x xs ih => exact (ih _).trans (h s x)

@[simp] theorem Leaf.foldl_heart {α : Type} (g : Leaf → α → Leaf) (h : ∀ l x, (g l x).heart = l.heart) (xs : List α) (l : Leaf) :
    (xs.foldl g l).heart = l.heart :=
  foldl_keeps Leaf.heart g h xs l

@[simp] theorem Leaf.foldl_fst_heart {α β : Type} (g : Leaf × β → α → Leaf × β) (h : ∀ j x, (g j x).1.heart = j.1.heart) (xs : List α) (j : Leaf × β) :
    (xs.foldl g j).1.heart = j.1.heart :=
  foldl_keeps (fun j => j.1.heart) g h xs j

/-! ### What every unit uses -/

@[simp] theorem Leaf.s_heart (l : Leaf) (f : Fld) (v : Nat) : (l.s f v).heart = l.heart := by
  simp [-Leaf.on_heart, Leaf.s]

@[simp] theorem Leaf.inc_heart (l : Leaf) (f : Fld) (k : Nat) : (l.inc f k).heart = l.heart := by
  simp [-Leaf.on_heart, Leaf.inc]

@[simp] theorem Leaf.count_heart (l : Leaf) (f : Fld) : (l.count f).heart = l.heart := by
  simp [-Leaf.on_heart, Leaf.count]

@[simp] theorem Leaf.emit_heart (l : Leaf) (o : Out) : (l.emit o).heart = l.heart := by
  simp [-Leaf.on_heart, Leaf.emit]

@[simp] theorem Leaf.post_heart (l : Leaf) (r : Rec) : (l.post r).heart = l.heart := by
  simp [-Leaf.on_heart, Leaf.post]

@[simp] theorem Leaf.log_heart (l : Leaf) (typ : Nat) (body : List Byte) : (l.log typ body).heart = l.heart := by
  simp [-Leaf.on_heart, Leaf.log]

@[simp] theorem Leaf.draw_heart (l : Leaf) (w : Nat) : (l.draw w).2.heart = l.heart := by
  simp [-Leaf.on_heart, Leaf.draw]

@[simp] theorem Leaf.redue_heart (l : Leaf) : l.redue.heart = l.heart := by
  simp [-Leaf.onReader_heart, Leaf.redue]

@[simp] theorem Leaf.afterStep_heart (l : Leaf) : l.afterStep.heart = l.heart := by
  simp [-Leaf.onReader_heart, Leaf.afterStep]

@[simp] theorem Leaf.onTime_heart (l : Leaf) (f : Node → Node) : (l.onTime f).heart = l.heart := by
  simp [-Leaf.on_heart, Leaf.onTime]

/-! ### Guards and the V/f port -/

@[simp] theorem Leaf.setWatch_heart (l : Leaf) (w : Nat) (x : Watch) : (l.setWatch w x).heart = l.heart := (rfl)

@[simp] theorem Leaf.setVf_heart (l : Leaf) (d : Nat) (x : VfDom) : (l.setVf d x).heart = l.heart := (rfl)

@[simp] theorem Leaf.reliefShort_heart (l : Leaf) : l.reliefShort.heart = l.heart := by
  simp [Leaf.reliefShort]

@[simp] theorem Leaf.sendGuard_heart (l : Leaf) (r : GuardRec) : (l.sendGuard r).heart = l.heart := by
  simp [-Leaf.on_heart, Leaf.sendGuard]

@[simp] theorem Leaf.pumpGuard_heart (fuel : Nat) (l : Leaf) : (l.pumpGuard fuel).heart = l.heart := by
  induction fuel generalizing l with
  | zero => rfl
  | succ m ih =>
    unfold Leaf.pumpGuard
    repeat' split
    all_goals simp [-Leaf.onGuards_heart, ih]

@[simp] theorem Leaf.recordUnit_heart (l : Leaf) (w : Nat) (r : GuardRec) : (l.recordUnit w r).heart = l.heart := by
  simp [-Leaf.onGuards_heart, Leaf.recordUnit]

@[simp] theorem Leaf.transition_heart (l : Leaf) (w value : Nat) (trip : Bool) : (l.transition w value trip).heart = l.heart := by
  simp only [Leaf.transition]
  repeat' split
  all_goals simp

@[simp] theorem Leaf.vfPresent_heart (l : Leaf) (d : Nat) : (l.vfPresent d).heart = l.heart := by
  simp [-Leaf.onGuards_heart, Leaf.vfPresent]

@[simp] theorem Leaf.vfUpdate_heart (l : Leaf) : l.vfUpdate.heart = l.heart := by
  simp only [Leaf.vfUpdate]
  repeat' split
  all_goals simp

@[simp] theorem Leaf.guardLines_heart (l : Leaf) : l.guardLines.heart = l.heart := by
  simp [Leaf.guardLines]

@[simp] theorem Leaf.tripUnit_heart (l : Leaf) (w : Nat) (injected : Bool) : (l.tripUnit w injected).heart = l.heart := by
  simp [Leaf.tripUnit]

@[simp] theorem Leaf.clearUnit_heart (l : Leaf) (w : Nat) : (l.clearUnit w).heart = l.heart := by
  simp [Leaf.clearUnit]

@[simp] theorem Leaf.settle_heart (x : UnitChanges) : (Leaf.settle x).heart = x.1.heart := by
  simp [Leaf.settle]

@[simp] theorem Leaf.trips_heart (x : UnitChanges) (w v : Nat) (injected : Bool) : (Leaf.trips x w v injected).1.heart = x.1.heart := by
  simp [Leaf.trips]

@[simp] theorem Leaf.clears_heart (x : UnitChanges) (w v : Nat) : (Leaf.clears x w v).1.heart = x.1.heart := by
  simp [Leaf.clears]

@[simp] theorem Leaf.evaluate_heart (j : UnitChanges) (w v : Nat) : (Leaf.evaluate j w v).1.heart = j.1.heart := by
  simp only [Leaf.evaluate]
  repeat' split
  all_goals simp

@[simp] theorem Leaf.adopt_heart (l : Leaf) (w c : Nat) : (l.adopt w c).heart = l.heart := by
  simp [Leaf.adopt]

@[simp] theorem Leaf.sample_heart (l : Leaf) (c v : Nat) : (l.sample c v).heart = l.heart := by
  unfold Leaf.sample
  split
  all_goals simp [-Leaf.onGuards_heart, apply_ite Leaf.heart]

@[simp] theorem Leaf.rateWindow_heart (l : Leaf) : l.rateWindow.heart = l.heart := by
  simp only [Leaf.rateWindow]
  split
  · rfl
  · simp only [Leaf.heart_onGuards, Leaf.settle_heart]
    refine Leaf.foldl_fst_heart _ (fun j w => ?_) _ _
    repeat' split
    all_goals simp [-Leaf.onGuards_heart]

@[simp] theorem Leaf.writeUnit_heart (l : Leaf) (w r v : Nat) : (l.writeUnit w r v).heart = l.heart := by
  simp [-Leaf.on_heart, Leaf.writeUnit]

@[simp] theorem Leaf.inject_heart (l : Leaf) (go : Bool) (w priv : Nat) : (l.inject go w priv).heart = l.heart := by
  simp [Leaf.inject]

@[simp] theorem Leaf.fenceClr_heart (l : Leaf) (mask priv : Nat) : (l.fenceClr mask priv).heart = l.heart := by
  simp [-Leaf.onGuards_heart, Leaf.fenceClr]

@[simp] theorem Leaf.wclassInput_heart (l : Leaf) (g : Nat) (radio : Bool) : (l.wclassInput g radio).heart = l.heart := by
  simp [-Leaf.onGuards_heart, Leaf.wclassInput]

@[simp] theorem Leaf.tiedInputs_heart (l : Leaf) : l.tiedInputs.heart = l.heart := by
  simp [Leaf.tiedInputs]

@[simp] theorem Leaf.holdoffEnd_heart (l : Leaf) (w : Nat) : (l.holdoffEnd w).heart = l.heart := by
  simp only [Leaf.holdoffEnd]
  repeat' split
  all_goals simp

@[simp] theorem Leaf.vfTransfer_heart (l : Leaf) : l.vfTransfer.heart = l.heart := by
  simp only [Leaf.vfTransfer]
  repeat' split
  all_goals
    simp only [Leaf.vfUpdate_heart, Leaf.emit_heart, Leaf.setVf_heart]
    refine Leaf.foldl_heart _ (fun l' d => ?_) _ _
    repeat' split
    all_goals simp

@[simp] theorem Leaf.vfRecord_heart (l : Leaf) (d result steps : Nat) : (l.vfRecord d result steps).heart = l.heart := by
  simp [-Leaf.onGuards_heart, Leaf.vfRecord]

@[simp] theorem Leaf.vfResult_heart (l : Leaf) (d result steps : Nat) (o : VfOut) : (l.vfResult d result steps o).heart = l.heart := by
  simp [Leaf.vfResult]

@[simp] theorem Leaf.vfResponse_heart (l : Leaf) (word : Nat) (lost : Bool) : (l.vfResponse word lost).heart = l.heart := by
  simp only [Leaf.vfResponse]
  repeat' split
  all_goals simp

@[simp] theorem Leaf.vfTimeout_heart (l : Leaf) (d : Nat) : (l.vfTimeout d).heart = l.heart := by
  simp only [Leaf.vfTimeout]
  repeat' split
  all_goals simp

@[simp] theorem Leaf.vfSoft_heart (l : Leaf) (word : Nat) : (l.vfSoft word).heart = l.heart := by
  unfold Leaf.vfSoft
  split <;> simp

@[simp] theorem Leaf.vfMargin_heart (l : Leaf) (d steps : Nat) : (l.vfMargin d steps).heart = l.heart := by
  simp [Leaf.vfMargin]

@[simp] theorem Leaf.guardsForce_heart (l : Leaf) : l.guardsForce.heart = l.heart := by
  simp only [Leaf.guardsForce, Leaf.guardLines_heart, Leaf.heart_onGuards]
  refine Leaf.foldl_heart _ (fun l d => ?_) _ _
  repeat' split
  all_goals simp [-Leaf.onGuards_heart]

@[simp] theorem Leaf.guardsFree_heart (l : Leaf) : l.guardsFree.heart = l.heart := by
  simp [-Leaf.onGuards_heart, Leaf.guardsFree]

@[simp] theorem Leaf.guardsReset_heart (l : Leaf) : l.guardsReset.heart = l.heart := (rfl)

/-! ### Heartwood's registers -/

@[simp] theorem Leaf.heartConfig_heart (l : Leaf) (c : HeartConfig) : (l.heartConfig c).heart = l.heart := by
  simp [-Leaf.on_heart, Leaf.heartConfig]

@[simp] theorem Leaf.heartAnswer_heart (l : Leaf) (result : Nat) (rsp : List Byte) : (l.heartAnswer result rsp).heart = l.heart := by
  simp [Leaf.heartAnswer]

/-! ### The Sap reader -/

@[simp] theorem Leaf.enumReturn_heart (l : Leaf) (ntwig loop : Nat) (chain : List TwigAt) : (l.enumReturn ntwig loop chain).heart = l.heart := by
  simp only [Leaf.enumReturn]
  split
  · rfl
  · rw [Leaf.redue_heart, Leaf.foldl_fst_heart _ (fun j x => by simp)]
    simp [-Leaf.onReader_heart, -Leaf.setTwig_heart]

@[simp] theorem Leaf.pumpEvents_heart (fuel : Nat) (l : Leaf) : (l.pumpEvents fuel).heart = l.heart := by
  induction fuel generalizing l with
  | zero => rfl
  | succ m ih =>
    unfold Leaf.pumpEvents
    repeat' split
    all_goals simp [-Leaf.onReader_heart, ih]

@[simp] theorem Leaf.pumpMarkers_heart (fuel : Nat) (l : Leaf) : (l.pumpMarkers fuel).heart = l.heart := by
  induction fuel generalizing l with
  | zero => rfl
  | succ m ih =>
    unfold Leaf.pumpMarkers
    repeat' split
    all_goals simp [-Leaf.onReader_heart, ih]

@[simp] theorem Leaf.eventBeat_heart (l : Leaf) (t : Nat) : (l.eventBeat t).heart = l.heart := by
  simp only [Leaf.eventBeat]
  repeat' split
  all_goals simp [-Leaf.onReader_heart, -Leaf.setTwig_heart]

@[simp] theorem Leaf.abortBeats_heart (l : Leaf) (t : Nat) : (l.abortBeats t).heart = l.heart := by
  simp [-Leaf.onReader_heart, Leaf.abortBeats]

@[simp] theorem Leaf.marker_heart (l : Leaf) (n data priv mid : Nat) : (l.marker n data priv mid).heart = l.heart := by
  simp [-Leaf.onReader_heart, Leaf.marker]

@[simp] theorem Leaf.sweepDue_heart (l : Leaf) (g : Nat) : (l.sweepDue g).heart = l.heart := by
  unfold Leaf.sweepDue
  split <;> simp [-Leaf.onReader_heart]

@[simp] theorem Leaf.sweepStart_heart (l : Leaf) : l.sweepStart.heart = l.heart := by
  unfold Leaf.sweepStart
  split <;> simp [-Leaf.on_heart, -Leaf.onReader_heart]

@[simp] theorem Leaf.setSweep_heart (l : Leaf) (s : Sweep) : (l.setSweep s).heart = l.heart := by
  simp [-Leaf.onReader_heart, Leaf.setSweep]

@[simp] theorem Leaf.readResponse_heart (l : Leaf) : l.readResponse.heart = l.heart := by
  unfold Leaf.readResponse
  repeat' split
  all_goals simp [-Leaf.onReader_heart, -Leaf.setTwig_heart]

@[simp] theorem Leaf.chainErr_heart (l : Leaf) : l.chainErr.heart = l.heart := by
  simp [-Leaf.onReader_heart, Leaf.chainErr]

@[simp] theorem Leaf.chainLog_heart (l : Leaf) : l.chainLog.heart = l.heart := by
  simp [-Leaf.onReader_heart, Leaf.chainLog]

@[simp] theorem Leaf.readTimeout_heart (l : Leaf) : l.readTimeout.heart = l.heart := by
  simp only [Leaf.readTimeout]
  repeat' split
  all_goals simp

@[simp] theorem Leaf.grantAccess_heart (l : Leaf) : l.grantAccess.heart = l.heart := by
  unfold Leaf.grantAccess
  split <;> simp [-Leaf.onReader_heart]

@[simp] theorem Leaf.sweepComplete_heart (l : Leaf) : l.sweepComplete.heart = l.heart := by
  unfold Leaf.sweepComplete
  split <;> simp [-Leaf.on_heart, -Leaf.onReader_heart]

@[simp] theorem Leaf.groupApply_heart (l : Leaf) : l.groupApply.heart = l.heart := by
  simp [-Leaf.onReader_heart, Leaf.groupApply]

@[simp] theorem Leaf.sapEn_heart (l : Leaf) (v : Bool) : (l.sapEn v).heart = l.heart := by
  simp [-Leaf.onReader_heart, Leaf.sapEn]

@[simp] theorem Leaf.windowRead_heart (l : Leaf) (i priv : Nat) : (l.windowRead i priv).2.heart = l.heart := by
  unfold Leaf.windowRead
  split <;> simp [-Leaf.onReader_heart]

@[simp] theorem Leaf.endAccess_heart (l : Leaf) (err : Bool) : (l.endAccess err).heart = l.heart := by
  simp [-Leaf.onReader_heart, Leaf.endAccess]

@[simp] theorem Leaf.cfgGo_heart (l : Leaf) (wr : Bool) (twig word : Nat) : (l.cfgGo wr twig word).heart = l.heart := by
  simp [-Leaf.onReader_heart, Leaf.cfgGo]

@[simp] theorem Leaf.cresp_heart (l : Leaf) (err : Bool) : (l.cresp err).heart = l.heart := by
  unfold Leaf.cresp
  split <;> simp [-Leaf.setTwig_heart]

@[simp] theorem Leaf.cfgTimeout_heart (l : Leaf) : l.cfgTimeout.heart = l.heart := by
  unfold Leaf.cfgTimeout
  split <;> simp

@[simp] theorem Leaf.cfgApply_heart (l : Leaf) (t : Nat) : (l.cfgApply t).heart = l.heart := by
  simp only [Leaf.cfgApply]
  repeat' split
  all_goals simp [-Leaf.setTwig_heart]

/-! ### Trace -/

@[simp] theorem Leaf.setCore_heart (l : Leaf) (c : Nat) (x : TrcCore) : (l.setCore c x).heart = l.heart := (rfl)

@[simp] theorem Leaf.trcStatus_heart (l : Leaf) (c : Nat) : (l.trcStatus c).heart = l.heart := by
  simp [Leaf.trcStatus]

@[simp] theorem Leaf.trcEmit_heart (l : Leaf) (c : Nat) (bytes : List Byte) (sync : Option Stamp) : (l.trcEmit c bytes sync).heart = l.heart := by
  simp [Leaf.trcEmit]

@[simp] theorem Leaf.trcSync_heart (l : Leaf) (c reason pc : Nat) : (l.trcSync c reason pc).heart = l.heart := by
  simp [Leaf.trcSync]

@[simp] theorem Leaf.trcCounts_heart (l : Leaf) (c : Nat) : (l.trcCounts c).heart = l.heart := by
  simp [Leaf.trcCounts]

/-- `Leaf.trcFlow` with the form of the address left open: a proof about the flow of packets then evaluates no difference of 64-bit addresses. -/
def Leaf.trcFlowBy (l : Leaf) (form : Nat → Nat → Nat × List Byte) (c pc kind cause : Nat) : Leaf :=
  let x := l.core c
  let (z, a) := form pc x.lastIa
  let exc := kind != 0
  let l := l.trcEmit c
    (byte (0x10 + 2 * z + b2n exc) ++ leb28 x.cyc ++ leb 3 x.nseq ++ a ++ (if exc then byte (kind * 64 + cause % 64) else [])) none
  l.setCore c { l.core c with lastIa := pc, nseq := 0 }

theorem Leaf.trcFlow_eq_trcFlowBy (l : Leaf) : l.trcFlow = l.trcFlowBy addrField := rfl

theorem Leaf.trcFlowBy_heart (form : Nat → Nat → Nat × List Byte) (l : Leaf) (c pc kind cause : Nat) : (l.trcFlowBy form c pc kind cause).heart = l.heart := by
  simp [Leaf.trcFlowBy]

@[simp] theorem Leaf.trcFlow_heart (l : Leaf) (c pc kind cause : Nat) : (l.trcFlow c pc kind cause).heart = l.heart := by
  rw [Leaf.trcFlow_eq_trcFlowBy, Leaf.trcFlowBy_heart]

@[simp] theorem Leaf.trcData_heart (l : Leaf) (c : Nat) (d : TrcData) : (l.trcData c d).heart = l.heart := by
  unfold Leaf.trcData
  split
  · rfl
  · extract_lets x
    split
    exact (Leaf.setCore_heart _ _ _).trans (Leaf.trcEmit_heart _ _ _ _)

@[simp] theorem Leaf.trcRetire_heart (l : Leaf) (c : Nat) (i : TrcIn) : (l.trcRetire c i).heart = l.heart := by
  unfold Leaf.trcRetire
  extract_lets x l1
  have h1 : l1.heart = l.heart := by simp only [l1]; split <;> simp
  split
  · exact h1
  split
  rename_i k l2 hdraw
  have h2 : l2.heart = l.heart := by split at hdraw <;> cases hdraw <;> simp [h1]
  extract_lets l3 x3 l4 l5 l6 x6 l7 l8 x8
  have h3 : l3.heart = l.heart := by simp [l3, h2]
  split
  · have h4 : l4.heart = l.heart := by simp only [l4]; (repeat' split) <;> simp [h3]
    split <;> simp [h4]
  · have h5 : l5.heart = l.heart := by simp only [l5]; split <;> simp [h3]
    have h6 : l6.heart = l.heart := by simp only [l6]; (repeat' split) <;> simp [h5]
    have h7 : l7.heart = l.heart := by simp only [l7]; (repeat' split) <;> simp [h6]
    have h8 : l8.heart = l.heart := by simp only [l8]; split <;> simp [h7]
    simp [h8]

@[simp] theorem Leaf.trcLpEnter_heart (l : Leaf) (c : Nat) : (l.trcLpEnter c).heart = l.heart := by
  simp [Leaf.trcLpEnter]

@[simp] theorem Leaf.trcLpExit_heart (l : Leaf) (c : Nat) : (l.trcLpExit c).heart = l.heart := by
  simp [Leaf.trcLpExit]

@[simp] theorem Leaf.trcLoss_heart (l : Leaf) (c : Nat) : (l.trcLoss c).heart = l.heart := by
  simp [Leaf.trcLoss]

@[simp] theorem Leaf.trcCoreReset_heart (l : Leaf) (c : Nat) : (l.trcCoreReset c).heart = l.heart := by
  simp [Leaf.trcCoreReset]

@[simp] theorem Leaf.trcEnable_heart (l : Leaf) (c : Nat) : (l.trcEnable c).heart = l.heart := by
  simp [Leaf.trcEnable]

@[simp] theorem Leaf.trcCtrl_heart (l : Leaf) (c v : Nat) : (l.trcCtrl c v).heart = l.heart := by
  simp [-Leaf.on_heart, Leaf.trcCtrl]

@[simp] theorem Leaf.auditPorts_heart (l : Leaf) (w r : Bool) : (l.auditPorts w r).heart = l.heart := (rfl)

@[simp] theorem Leaf.tracePort_heart (l : Leaf) : l.tracePort.heart = l.heart := by
  simp only [Leaf.tracePort]
  repeat' split
  all_goals simp

@[simp] theorem Leaf.traceDrain_heart (l : Leaf) : l.traceDrain.heart = l.heart := by
  simp only [Leaf.traceDrain]
  repeat' split
  all_goals simp

@[simp] theorem Leaf.traceReset_heart (l : Leaf) : l.traceReset.heart = l.heart := (rfl)

/-! ### The audit tap -/

@[simp] theorem Leaf.tapLog_heart (l : Leaf) (event engine reason seq count : Nat) : (l.tapLog event engine reason seq count).heart = l.heart := by
  simp [Leaf.tapLog]

@[simp] theorem Leaf.tapStatus_heart (l : Leaf) : l.tapStatus.heart = l.heart := by
  simp [Leaf.tapStatus]

@[simp] theorem Leaf.tapPump_heart (fuel : Nat) (l : Leaf) : (l.tapPump fuel).heart = l.heart := by
  induction fuel generalizing l with
  | zero => rfl
  | succ m ih =>
    unfold Leaf.tapPump
    repeat' split
    all_goals simp [-Leaf.onTap_heart, ih]

@[simp] theorem Leaf.tapSend_heart (l : Leaf) (r : Rec) : (l.tapSend r).heart = l.heart := by
  simp [-Leaf.onTap_heart, Leaf.tapSend]

@[simp] theorem Leaf.abandon_heart (l : Leaf) (desc : List Byte) (st : Stamp) (seq reason : Nat) : (l.abandon desc st seq reason).heart = l.heart := by
  simp [-Leaf.onTap_heart, Leaf.abandon]

@[simp] theorem Leaf.replayFetch_heart (l : Leaf) : l.replayFetch.heart = l.heart := by
  unfold Leaf.replayFetch
  split <;> simp [-Leaf.onTap_heart]

@[simp] theorem Leaf.tapNext_heart (fuel : Nat) (l : Leaf) : (l.tapNext fuel).heart = l.heart := by
  induction fuel generalizing l with
  | zero => rfl
  | succ m ih =>
    simp only [Leaf.tapNext]
    repeat' split
    all_goals simp [-Leaf.onTap_heart, ih]

@[simp] theorem Leaf.endSample_heart (l : Leaf) (reason : Nat) : (l.endSample reason).heart = l.heart := by
  unfold Leaf.endSample
  split <;> simp [-Leaf.onTap_heart]

@[simp] theorem Leaf.fetchIssue_heart (l : Leaf) : l.fetchIssue.heart = l.heart := by
  unfold Leaf.fetchIssue
  repeat' split
  all_goals simp [-Leaf.onTap_heart]

@[simp] theorem Leaf.dataRecords_heart (fuel : Nat) (l : Leaf) (s : Sample) (bytes : List Byte) (off : Nat) (whole : Bool) : (l.dataRecords fuel s bytes off whole).heart = l.heart := by
  induction fuel generalizing l bytes off with
  | zero => rfl
  | succ m ih =>
    simp only [Leaf.dataRecords]
    split
    · rfl
    · simp [-Leaf.onTap_heart, ih]

@[simp] theorem Leaf.fetchResponse_heart (l : Leaf) (id : Nat) (data : List Byte) (err : Bool) : (l.fetchResponse id data err).heart = l.heart := by
  simp only [Leaf.fetchResponse]
  repeat' split
  all_goals simp [-Leaf.onTap_heart]

@[simp] theorem Leaf.threshold_heart (l : Leaf) (e : Nat) : (l.threshold e).2.heart = l.heart := by
  unfold Leaf.threshold
  split <;> simp [-Leaf.onTap_heart]

@[simp] theorem Leaf.descriptor_heart (l : Leaf) (desc ctx : List Byte) : (l.descriptor desc ctx).heart = l.heart := by
  simp [-Leaf.onTap_heart, Leaf.descriptor]

@[simp] theorem Leaf.retention_heart (l : Leaf) : l.retention.heart = l.heart := by
  unfold Leaf.retention
  repeat' split
  all_goals simp [-Leaf.onTap_heart]

@[simp] theorem Leaf.replayAnswer_heart (l : Leaf) (s : Sample) (status : Nat) : (l.replayAnswer s status).heart = l.heart := by
  simp [Leaf.replayAnswer]

@[simp] theorem Leaf.replayNext_heart (fuel : Nat) (l : Leaf) : (l.replayNext fuel).heart = l.heart := by
  induction fuel generalizing l with
  | zero => rfl
  | succ m ih =>
    simp only [Leaf.replayNext]
    repeat' split
    all_goals simp [-Leaf.onTap_heart, ih]

@[simp] theorem Leaf.replayCmd_heart (l : Leaf) (seq : Nat) : (l.replayCmd seq).heart = l.heart := by
  simp [-Leaf.onTap_heart, Leaf.replayCmd]

@[simp] theorem Leaf.replayDone_heart (l : Leaf) (refused : Bool) : (l.replayDone refused).heart = l.heart := by
  unfold Leaf.replayDone
  split <;> simp [-Leaf.onTap_heart]

@[simp] theorem Leaf.replayExpire_heart (l : Leaf) : l.replayExpire.heart = l.heart := by
  unfold Leaf.replayExpire
  split <;> simp [-Leaf.onTap_heart]

@[simp] theorem Leaf.result_heart (l : Leaf) : l.result.heart = l.heart := by
  unfold Leaf.result
  repeat' split
  all_goals simp [-Leaf.onTap_heart]

@[simp] theorem Leaf.audConfig_heart (l : Leaf) (thresh seed : Nat) : (l.audConfig thresh seed).heart = l.heart := by
  simp [-Leaf.onTap_heart, Leaf.audConfig]

@[simp] theorem Leaf.audBoost_heart (l : Leaf) (engine thresh tiles : Nat) : (l.audBoost engine thresh tiles).heart = l.heart := by
  simp [-Leaf.onTap_heart, Leaf.audBoost]

@[simp] theorem Leaf.audLock_heart (l : Leaf) : l.audLock.heart = l.heart := by
  simp [Leaf.audLock]

@[simp] theorem Leaf.audEn_heart (l : Leaf) (v : Bool) : (l.audEn v).heart = l.heart := by
  simp [Leaf.audEn]

@[simp] theorem Leaf.wSlotWrite_heart (l : Leaf) (r : Nat) : (l.wSlotWrite r).heart = l.heart := by
  simp [-Leaf.onTap_heart, Leaf.wSlotWrite]

@[simp] theorem Leaf.wdigest_heart (l : Leaf) (r : Nat) : (l.wdigest r).heart = l.heart := by
  unfold Leaf.wdigest
  split <;> simp [-Leaf.onTap_heart]

@[simp] theorem Leaf.tapSapReset_heart (l : Leaf) : l.tapSapReset.heart = l.heart := by
  simp [-Leaf.onTap_heart, Leaf.tapSapReset]

/-! ### Registers -/

@[simp] theorem Leaf.rlogRead_heart (l : Leaf) (seq priv : Nat) : (l.rlogRead seq priv).heart = l.heart := by
  unfold Leaf.rlogRead
  split
  · rfl
  · cases l.toNode.ringRead seq
    simp [-Leaf.on_heart]

@[simp] theorem Leaf.crcStart_heart (l : Leaf) (u : Nat) : (l.crcStart u).heart = l.heart := by
  simp [Leaf.crcStart]

@[simp] theorem Leaf.crcData_heart (l : Leaf) (u v : Nat) : (l.crcData u v).heart = l.heart := by
  simp [Leaf.crcData]

@[simp] theorem Leaf.queueCtrl_heart (l : Leaf) (k v : Nat) : (l.queueCtrl k v).heart = l.heart := by
  simp [-Leaf.on_heart, Leaf.queueCtrl]

@[simp] theorem Leaf.guardWrite_heart (l : Leaf) (off v priv : Nat) : (l.guardWrite off v priv).heart = l.heart := by
  unfold Leaf.guardWrite
  repeat' split
  all_goals simp [-Leaf.on_heart]

@[simp] theorem Leaf.trainWrite_heart (l : Leaf) (i v : Nat) : (l.trainWrite i v).heart = l.heart := by
  simp [-Leaf.on_heart, Leaf.trainWrite]

@[simp] theorem Leaf.auditWrite_heart (l : Leaf) (off v : Nat) : (l.auditWrite off v).heart = l.heart := by
  simp [-Leaf.on_heart, Leaf.auditWrite]

/-! ### Bring-up, jobs, resets and clocks -/

@[simp] theorem Leaf.bootStatus_heart (l : Leaf) : l.bootStatus.heart = l.heart := by
  simp [Leaf.bootStatus]

@[simp] theorem Leaf.assign_heart (l : Leaf) (node gen : Nat) : (l.assign node gen).heart = l.heart := by
  simp [-Leaf.on_heart, -Leaf.onBoot_heart, Leaf.assign]

@[simp] theorem Leaf.jobAnswer_heart (l : Leaf) (st job tray : Nat) : (l.jobAnswer st job tray).heart = l.heart := by
  simp [-Leaf.on_heart, Leaf.jobAnswer]

@[simp] theorem Leaf.jobArm_heart (l : Leaf) (job tgo tray : Nat) (payload : List Byte) : (l.jobArm job tgo tray payload).heart = l.heart := by
  simp [-Leaf.onBoot_heart, Leaf.jobArm]

@[simp] theorem Leaf.jobGo_heart (l : Leaf) (job : Nat) : (l.jobGo job).heart = l.heart := by
  simp [-Leaf.onBoot_heart, Leaf.jobGo]

@[simp] theorem Leaf.jobCancel_heart (l : Leaf) (job : Nat) : (l.jobCancel job).heart = l.heart := by
  simp [-Leaf.onBoot_heart, Leaf.jobCancel]

@[simp] theorem Leaf.jobReport_heart (l : Leaf) (a : Armed) (started : Bool) : (l.jobReport a started).heart = l.heart := by
  simp [-Leaf.on_heart, Leaf.jobReport]

@[simp] theorem Leaf.jobStart_heart (l : Leaf) (a : Armed) : (l.jobStart a).heart = l.heart := by
  simp [-Leaf.onBoot_heart, Leaf.jobStart]

@[simp] theorem Leaf.jobTime_heart (l : Leaf) : l.jobTime.heart = l.heart := by
  simp [-Leaf.onBoot_heart, Leaf.jobTime]

@[simp] theorem Leaf.powerUp_heart (l : Leaf) (bits : Nat) : (l.powerUp bits).heart = l.heart := by
  simp [Leaf.powerUp]

@[simp] theorem Leaf.sapUnits_heart (l : Leaf) : l.sapUnits.heart = l.heart := by
  simp [-Leaf.on_heart, Leaf.sapUnits]

@[simp] theorem Leaf.timeUnits_heart (l : Leaf) : l.timeUnits.heart = l.heart := by
  simp [-Leaf.on_heart, Leaf.timeUnits]

@[simp] theorem Leaf.timeRelease_heart (l : Leaf) : l.timeRelease.heart = l.heart := by
  simp [-Leaf.onBoot_heart, Leaf.timeRelease]

@[simp] theorem Leaf.hostUnits_heart (l : Leaf) : l.hostUnits.heart = l.heart := by
  simp [-Leaf.onTap_heart, Leaf.hostUnits]

@[simp] theorem Leaf.aonUnits_heart (l : Leaf) : l.aonUnits.heart = l.heart := by
  simp [Leaf.aonUnits]

@[simp] theorem Leaf.strapped_heart (l : Leaf) (x : LeafStraps) : (l.strapped x).heart = l.heart := by
  simp [Leaf.strapped]

@[simp] theorem Leaf.resetAssert_heart (l : Leaf) (r : Nat) : (l.resetAssert r).heart = l.heart := by
  unfold Leaf.resetAssert
  split <;> simp [-Leaf.on_heart, -Leaf.onBoot_heart]

@[simp] theorem Leaf.laneRelease_heart (l : Leaf) (k : Nat) : (l.laneRelease k).heart = l.heart := by
  simp [-Leaf.on_heart, -Leaf.onBoot_heart, Leaf.laneRelease]

@[simp] theorem Leaf.hostRelease_heart (l : Leaf) : l.hostRelease.heart = l.heart := by
  simp [-Leaf.onBoot_heart, Leaf.hostRelease]

@[simp] theorem Leaf.clockFail_heart (l : Leaf) (b : Nat) : (l.clockFail b).heart = l.heart := by
  simp only [Leaf.clockFail]
  repeat' split
  all_goals simp [-Leaf.on_heart, -Leaf.onBoot_heart]

@[simp] theorem Leaf.timeBack_heart (l : Leaf) : l.timeBack.heart = l.heart := by
  simp [-Leaf.onBoot_heart, Leaf.timeBack]

@[simp] theorem Leaf.twigAssert_heart (l : Leaf) (t : Nat) : (l.twigAssert t).heart = l.heart := by
  simp [-Leaf.setTwig_heart, Leaf.twigAssert]

@[simp] theorem Leaf.twigRelease_heart (l : Leaf) (t : Nat) : (l.twigRelease t).heart = l.heart := by
  simp [-Leaf.setTwig_heart, Leaf.twigRelease]

@[simp] theorem Leaf.tick_heart (l : Leaf) : l.tick.heart = l.heart := by
  simp [-Leaf.on_heart, Leaf.tick]

/-! ### The parent's records -/

@[simp] theorem Leaf.restore_heart (l : Leaf) (base pcc : Nat) : (l.restore base pcc).heart = l.heart := by
  simp [-Leaf.on_heart, Leaf.restore]

@[simp] theorem Leaf.mirrorAck_heart (l : Leaf) (seq : Nat) : (l.mirrorAck seq).heart = l.heart := by
  simp [-Leaf.on_heart, Leaf.mirrorAck]

@[simp] theorem Leaf.ringRequest_heart (l : Leaf) (first count : Nat) : (l.ringRequest first count).heart = l.heart := by
  simp [-Leaf.on_heart, Leaf.ringRequest]

@[simp] theorem Leaf.clearRing_heart (l : Leaf) (high pcc nonce : Nat) (digest : List Byte) : (l.clearRing high pcc nonce digest).heart = l.heart := by
  simp only [Leaf.clearRing]
  repeat' split
  all_goals simp

@[simp] theorem Leaf.takeAudit_heart (l : Leaf) (b : List Byte) : (l.takeAudit b).heart = l.heart := by
  unfold Leaf.takeAudit
  split <;> simp

/-! ### Commands -/

@[simp] theorem Leaf.frameSelect_heart (l : Leaf) (lane : Nat) : (l.frameSelect lane).heart = l.heart := by
  simp [-Leaf.on_heart, Leaf.frameSelect]

@[simp] theorem Leaf.takeArm_heart (l : Leaf) (b : List Byte) : (l.takeArm b).heart = l.heart := by
  simp [Leaf.takeArm]

@[simp] theorem Leaf.noteDefer_heart (l : Leaf) (deferred : Bool) : (l.noteDefer deferred).heart = l.heart := by
  simp [Leaf.noteDefer]

@[simp] theorem Leaf.wclassSample_heart (l : Leaf) (g : Nat) (radio : Bool) : (l.wclassSample g radio).heart = l.heart := by
  simp [Leaf.wclassSample]

@[simp] theorem Leaf.vfReply_heart (l : Leaf) (word : Nat) : (l.vfReply word).heart = l.heart := by
  simp [Leaf.vfReply]

@[simp] theorem Leaf.twigCycle_heart (l : Leaf) (t : Nat) (i : TwigIn) : (l.twigCycle t i).heart = l.heart := by
  simp [-Leaf.setTwig_heart, Leaf.twigCycle]

@[simp] theorem Leaf.flushBins_heart (l : Leaf) : l.flushBins.heart = l.heart := by
  simp [Leaf.flushBins]

@[simp] theorem Leaf.flushResume_heart (l : Leaf) (t : Nat) : (l.flushResume t).heart = l.heart := by
  simp [-Leaf.setTwig_heart, Leaf.flushResume]

@[simp] theorem Leaf.counterRead_heart (l : Leaf) (i priv : Nat) : (l.counterRead i priv).heart = l.heart := by
  simp [Leaf.counterRead]

end Sys2Proof.Machine
end

section
/-! ## Heartwood's store and its OTP -/

namespace Sys2Proof.Machine

/-! ### Heartwood's store: what records that come and go leave alone -/

/-- The partition without its record store, output path, chain and event log. -/
def Heart.unstored (h : Heart) : Heart :=
  { h with store := [], hseq := 0, next := 0, waiting := [], due := [], logNext := 0, chain := [], sealFrom := 0, unsealed := [], log := [] }

theorem Heart.putEvent_unstored (h : Heart) (e : HeartEvent) : (h.putEvent e).unstored = h.unstored := rfl

theorem Heart.putDue_unstored (h : Heart) (d : HeartDue) : (h.putDue d).unstored = h.unstored := by
  unfold Heart.putDue
  split <;> rfl

theorem Heart.letIn_unstored (fuel : Nat) (h : Heart) : (h.letIn fuel).unstored = h.unstored := by
  induction fuel generalizing h with
  | zero => rfl
  | succ m ih =>
    rcases hw : h.waiting with _ | ⟨e, r⟩
    · rcases hd : h.due with _ | ⟨d, r⟩
      · unfold Heart.letIn
        simp only [hw, hd]
      · unfold Heart.letIn
        simp only [hw, hd]
        split
        · rw [ih, Heart.putDue_unstored]; rfl
        · rfl
    · unfold Heart.letIn
      simp only [hw]
      split
      · rw [ih, Heart.putEvent_unstored]; rfl
      · rfl

@[simp] theorem Leaf.heartShow_heart (l : Leaf) : l.heartShow.heart = l.heart := by
  simp [-Leaf.on_heart, Leaf.heartShow]

@[simp] theorem Leaf.heart_onHeart (l : Leaf) (f : Heart → Heart) : (l.onHeart f).heart = f l.heart := (rfl)

theorem Leaf.heartPump_unstored (fuel : Nat) (l : Leaf) : (l.heartPump fuel).heart.unstored = l.heart.unstored := by
  induction fuel generalizing l with
  | zero => rfl
  | succ m ih =>
    unfold Leaf.heartPump
    split
    · rfl
    split
    · rfl
    rw [ih]
    split <;> simp only [Leaf.log_heart, Leaf.s_heart] <;> rfl

theorem Leaf.heartEvent_unstored (l : Leaf) (evt code : Nat) (data : List Byte) : (l.heartEvent evt code data).heart.unstored = l.heart.unstored := by
  simp only [Leaf.heartEvent, Leaf.heartPump_unstored, Leaf.heartShow_heart, Leaf.heart_onHeart, Heart.letIn_unstored]
  rfl

theorem Leaf.heartRelease_unstored (l : Leaf) (hseq : Nat) : (l.heartRelease hseq).heart.unstored = l.heart.unstored := by
  unfold Leaf.heartRelease
  extract_lets queued l'
  split
  · rfl
  · rw [Leaf.heartPump_unstored, Leaf.heartShow_heart, Leaf.heart_onHeart, Heart.letIn_unstored]
    rfl

theorem Leaf.heartAgain_unstored (l : Leaf) : l.heartAgain.heart.unstored = l.heart.unstored := by
  simp only [Leaf.heartAgain, Leaf.heartPump_unstored, Leaf.heart_onHeart]
  rfl

theorem Leaf.refill_unstored (l : Leaf) : l.refill.heart.unstored = l.heart.unstored := by
  simp only [Leaf.refill, Leaf.heart_on, Leaf.heartPump_unstored, Leaf.tapPump_heart, Leaf.pumpGuard_heart]

theorem Leaf.frameClose_unstored (l : Leaf) (cls : Nat) : (l.frameClose cls).heart.unstored = l.heart.unstored := by
  unfold Leaf.frameClose
  split
  · rfl
  · rw [Leaf.refill_unstored]
    split <;> simp [-Leaf.on_heart]

theorem Leaf.sapRelease_unstored (l : Leaf) : l.sapRelease.heart.unstored = l.heart.unstored := by
  simp [-Leaf.on_heart, -Leaf.onReader_heart, -Leaf.onTap_heart, -Leaf.onBoot_heart, Leaf.sapRelease, Leaf.heartAgain_unstored]

theorem Leaf.aonRelease_unstored (l : Leaf) (x : LeafStraps) : (l.aonRelease x).heart.unstored = l.heart.unstored := by
  simp [-Leaf.on_heart, -Leaf.onReader_heart, -Leaf.onTap_heart, -Leaf.onBoot_heart, Leaf.aonRelease, Leaf.heartAgain_unstored]

theorem Leaf.clockReturn_unstored (l : Leaf) (b : Nat) : (l.clockReturn b).heart.unstored = l.heart.unstored := by
  simp only [Leaf.clockReturn]
  repeat' split
  all_goals simp [-Leaf.on_heart, -Leaf.onReader_heart, -Leaf.onTap_heart, -Leaf.onBoot_heart, Leaf.sapRelease_unstored]

/-! ### The OTP of Heartwood: what a change may do to it -/

/-- The fuse counts, the configuration slots and the seal state in force. -/
def Heart.otp (h : Heart) : Nat × Nat × Nat × Nat × List HeartConfig × Nat := (h.sealCnt, h.unsealCnt, h.tamperCnt, h.clearCnt, h.slots, h.sealed)

theorem Heart.otp_eq_of_unstored_eq {h h' : Heart} (e : h'.unstored = h.unstored) : h'.otp = h.otp :=
  show h'.unstored.otp = h.unstored.otp from congrArg Heart.otp e

/-- A count of fuses never falls, and stays within its fuses once it is (R387). -/
def burns (fuses before after : Nat) : Prop := before ≤ after ∧ (before ≤ fuses → after ≤ fuses)

theorem burns_refl (fuses n : Nat) : burns fuses n n := ⟨le_rfl, id⟩

theorem burns_trans {fuses a b c : Nat} (hab : burns fuses a b) (hbc : burns fuses b c) : burns fuses a c :=
  ⟨hab.1.trans hbc.1, hbc.2 ∘ hab.2⟩

theorem burns_one {fuses n : Nat} (h : n < fuses) : burns fuses n (n + 1) := ⟨Nat.le_succ n, fun _ => h⟩

/-- What any change may do to the OTP (R387, R390): fuses burn and slots fill, up to their numbers, and the seal state stays one of Table 15.4's. -/
structure Heart.OtpStep (h h' : Heart) : Prop where
  seals : burns 32 h.sealCnt h'.sealCnt
  unseals : burns 32 h.unsealCnt h'.unsealCnt
  tampers : burns 32 h.tamperCnt h'.tamperCnt
  clears : burns 32 h.clearCnt h'.clearCnt
  slots : h.slots <+: h'.slots
  slotRoom : h.slots.length ≤ 8 → h'.slots.length ≤ 8
  sealed : h.sealed ≤ 2 → h'.sealed ≤ 2

theorem Heart.OtpStep.of_otp_eq {h h' : Heart} (e : h'.otp = h.otp) : h.OtpStep h' := by
  simp only [Heart.otp, Prod.mk.injEq] at e
  obtain ⟨hs, hu, ht, hc, hsl, hse⟩ := e
  exact ⟨hs ▸ burns_refl _ _, hu ▸ burns_refl _ _, ht ▸ burns_refl _ _, hc ▸ burns_refl _ _, by rw [hsl], by rw [hsl]; exact id, by rw [hse]; exact id⟩

theorem Heart.OtpStep.of_unstored_eq {h h' : Heart} (e : h'.unstored = h.unstored) : h.OtpStep h' :=
  .of_otp_eq (Heart.otp_eq_of_unstored_eq e)

theorem Heart.OtpStep.of_eq {h h' : Heart} (e : h' = h) : h.OtpStep h' := .of_otp_eq (congrArg Heart.otp e)

theorem Heart.OtpStep.refl (h : Heart) : h.OtpStep h := .of_eq rfl

theorem Heart.OtpStep.trans {a b c : Heart} (x : a.OtpStep b) (y : b.OtpStep c) : a.OtpStep c where
  seals := burns_trans x.seals y.seals
  unseals := burns_trans x.unseals y.unseals
  tampers := burns_trans x.tampers y.tampers
  clears := burns_trans x.clears y.clears
  slots := x.slots.trans y.slots
  slotRoom := y.slotRoom ∘ x.slotRoom
  sealed := y.sealed ∘ x.sealed

/-- A run of changes to a leaf, each of which may do no more to the OTP, does no more. -/
theorem Leaf.foldl_otpStep {α : Type} (g : Leaf → α → Leaf) (h : ∀ (l : Leaf) x, l.heart.OtpStep (g l x).heart) (xs : List α) (l : Leaf) :
    l.heart.OtpStep (xs.foldl g l).heart := by
  induction xs generalizing l with
  | nil => exact .refl _
  | cons x xs ih => exact (h l x).trans (ih _)

theorem Heart.derived_le (h : Heart) : h.derived ≤ 2 := by
  unfold Heart.derived
  repeat' split
  all_goals omega

end Sys2Proof.Machine
end

section
/-! ## What Heartwood's own operations do to the OTP -/

namespace Sys2Proof.Machine

/-! ### What each operation of Heartwood does to the OTP -/

theorem Leaf.heartEvent_otp (l : Leaf) (evt code : Nat) (data : List Byte) : (l.heartEvent evt code data).heart.otp = l.heart.otp :=
  Heart.otp_eq_of_unstored_eq (l.heartEvent_unstored evt code data)

theorem Heart.openEntry_otp {h h' : Heart} {tenant req cyc : Nat} (e : h.openEntry tenant req cyc = some h') : h'.otp = h.otp := by
  unfold Heart.openEntry at e
  extract_lets before new at e
  have hnew : ∀ k : Heart, (new k).otp = k.otp := fun _ => rfl
  split at e
  · cases e
    exact hnew h
  · split at e
    · cases e
    · cases e
      exact (hnew _).trans rfl

theorem Leaf.tagCycle_otp (l : Leaf) (engine state : Nat) (tvalid : Bool) (tenant req bytes : Nat) :
    (l.tagCycle engine state tvalid tenant req bytes).heart.otp = l.heart.otp := by
  unfold Leaf.tagCycle
  extract_lets h q w a h1 b h2 h3 is
  have h3otp : h3.otp = l.heart.otp := by
    simp only [h3, h2]
    split <;> rfl
  split
  · rfl
  split
  · exact h3otp
  split
  · split <;> exact h3otp
  · rename_i k hk
    split at hk
    · cases hk
      exact h3otp
    · exact (Heart.openEntry_otp hk).trans h3otp

theorem Leaf.requestEnd_otp (l : Leaf) (tenant req : Nat) : (l.requestEnd tenant req).heart.otp = l.heart.otp := by
  simp only [Leaf.requestEnd]
  repeat' split
  all_goals rfl

theorem Leaf.powerSample_otp (l : Leaf) (v i : Nat) : (l.powerSample v i).heart.otp = l.heart.otp := by
  simp only [Leaf.powerSample]
  repeat' split
  all_goals rfl

theorem Leaf.subEnd_otp (l : Leaf) : l.subEnd.heart.otp = l.heart.otp := by
  simp only [Leaf.subEnd]
  repeat' split
  all_goals rfl

theorem Leaf.oscFault_otp (l : Leaf) (bad : Bool) : (l.oscFault bad).heart.otp = l.heart.otp := by
  unfold Leaf.oscFault
  extract_lets was l1 l2
  have h2 : l2.heart.otp = l.heart.otp := by
    simp only [l2]
    split
    · simp only [Leaf.heart_onHeart, l1, Leaf.s_heart]
      rfl
    · simp only [l1, Leaf.s_heart]
  split
  · rfl
  · split
    · exact (Leaf.heartEvent_otp ..).trans h2
    · exact h2

theorem Leaf.heartRestore_otp (l : Leaf) (c : List Byte) : (l.heartRestore c).heart.otp = l.heart.otp := by
  unfold Leaf.heartRestore
  extract_lets h p refuse
  have hrefuse : ∀ r, (refuse l r).heart.otp = l.heart.otp := fun r => by
    simp only [refuse, Leaf.heartAnswer_heart, Leaf.heartEvent_otp]
  split
  · exact hrefuse 4
  · split
    · exact hrefuse 7
    · simp only [Leaf.heartAnswer_heart, Leaf.heartEvent_otp]
      rfl

theorem Leaf.readEffect_otp (l : Leaf) (off priv : Nat) : (l.readEffect off priv).heart.otp = l.heart.otp := by
  unfold Leaf.readEffect
  repeat' split
  all_goals simp
  rfl

theorem Leaf.regRead_otp (l : Leaf) (off priv : Nat) : (l.regRead off priv).2.heart.otp = l.heart.otp := by
  unfold Leaf.regRead
  repeat' split
  all_goals simp [Leaf.readEffect_otp]

theorem Leaf.busRead_otp (l : Leaf) (off priv : Nat) : (l.busRead off priv).heart.otp = l.heart.otp := by
  simp [Leaf.busRead, Leaf.regRead_otp]

theorem Leaf.jobPop_otp (l : Leaf) (priv : Nat) : (l.jobPop priv).heart.otp = l.heart.otp := by
  simp [Leaf.jobPop, Leaf.regRead_otp]

/-- What was accepted takes effect: the seal state becomes the one of the fuses. -/
theorem Leaf.heartApply_otpStep (l : Leaf) : l.heart.OtpStep l.heartApply.heart := by
  unfold Leaf.heartApply
  extract_lets h changed l1
  have h1 : l1.heart = l.heart := by
    simp only [l1]
    split <;> simp
  rw [Leaf.heart_onHeart, h1]
  exact ⟨burns_refl _ _, burns_refl _ _, burns_refl _ _, burns_refl _ _, List.prefix_rfl, id, fun _ => l.heart.derived_le⟩

theorem Heart.closeSpan_otp (h : Heart) : h.closeSpan.otp = h.otp :=
  Heart.otp_eq_of_unstored_eq (Heart.letIn_unstored _ _) |>.trans rfl

theorem Leaf.heartPump_otp (fuel : Nat) (l : Leaf) : (l.heartPump fuel).heart.otp = l.heart.otp :=
  Heart.otp_eq_of_unstored_eq (l.heartPump_unstored fuel)

theorem Leaf.intervalEnd_otpStep (l : Leaf) : l.heart.OtpStep l.intervalEnd.heart := by
  unfold Leaf.intervalEnd
  extract_lets h h' l1 l2 l3
  have h3 : l3.heart.otp = l.heart.otp := by
    simp only [l3]
    split
    · rfl
    · simp only [Leaf.heart_onHeart, l2, Leaf.s_heart]
      exact h'.closeSpan_otp
  split
  · exact .refl _
  · refine (Heart.OtpStep.of_otp_eq h3).trans (l3.heartApply_otpStep.trans (.of_otp_eq ?_))
    rw [Leaf.heartPump_otp, Leaf.heartShow_heart]

theorem Leaf.tamper_otpStep (l : Leaf) (code : Nat) : l.heart.OtpStep (l.tamper code).heart := by
  unfold Leaf.tamper
  extract_lets h burn l1
  split
  · exact .refl _
  refine Heart.OtpStep.trans ?_ (.of_otp_eq (l1.heartEvent_otp 5 code []))
  simp only [l1]
  split
  · rename_i hburn
    have hroom : l.heart.tamperCnt < 32 := by simp [burn, h] at hburn; exact hburn.2
    exact ⟨burns_refl _ _, burns_refl _ _, burns_one hroom, burns_refl _ _, List.prefix_rfl, id, fun _ => le_rfl⟩
  · exact .refl _

/-- The Heartwood reset keeps the OTP's fuses and slots (R373); no seal state is in force while it is held. -/
theorem Leaf.heartHold_otpStep (l : Leaf) : l.heart.OtpStep l.heartHold.heart :=
  ⟨burns_refl _ _, burns_refl _ _, burns_refl _ _, burns_refl _ _, List.prefix_rfl, id, fun _ => Nat.zero_le 2⟩

theorem Leaf.heartStart_otpStep (l : Leaf) (romOk : Bool) : l.heart.OtpStep (l.heartStart romOk).heart := by
  unfold Leaf.heartStart
  extract_lets l1 l2 l3
  have h2 : l1.heart.OtpStep l2.heart :=
    ⟨burns_refl _ _, burns_refl _ _, burns_refl _ _, burns_refl _ _, List.prefix_rfl, id, fun _ => l1.heart.derived_le⟩
  have h3 : l3.heart = l2.heart := by
    simp only [l3]
    split <;> simp
  split
  · exact l.heartHold_otpStep
  · exact l.heartHold_otpStep.trans (h2.trans ((Heart.OtpStep.of_eq h3).trans (.of_otp_eq (Leaf.heartEvent_otp ..))))

/-- An authenticated command with room for its fuses burns no fuse and fills no slot beyond the last (R389, R390). -/
theorem Heart.accept_otpStep (h : Heart) (cmd : Nat) (payload : List Byte) (room : heartFull h cmd = false) (known : heartAuth cmd = true) :
    h.OtpStep (h.accept cmd payload) := by
  have hcmd : cmd = 0x10 ∨ cmd = 0x20 ∨ cmd = 0x21 ∨ cmd = 0x22 := by simpa [heartAuth, or_assoc] using known
  obtain rfl | rfl | rfl | rfl := hcmd
  · have hroom : h.slots.length < 8 := by simpa [heartFull] using room
    exact ⟨burns_refl _ _, burns_refl _ _, burns_refl _ _, burns_refl _ _, List.prefix_append _ _, fun _ => by simp [Heart.accept]; omega, id⟩
  · have hroom : h.sealCnt < 32 := by simpa [heartFull] using room
    exact ⟨burns_one hroom, burns_refl _ _, burns_refl _ _, burns_refl _ _, List.prefix_rfl, id, id⟩
  · have hroom : h.unsealCnt < 32 := by simpa [heartFull] using room
    exact ⟨burns_refl _ _, burns_one hroom, burns_refl _ _, burns_refl _ _, List.prefix_rfl, id, id⟩
  · obtain ⟨hclear, hunseal⟩ : h.clearCnt < 32 ∧ (h.unsealCnt < h.sealCnt → h.unsealCnt < 32) := by simpa [heartFull] using room
    refine ⟨burns_refl _ _, ?_, burns_refl _ _, burns_one hclear, List.prefix_rfl, id, id⟩
    simp only [Heart.accept]
    split
    · exact burns_one (hunseal ‹_›)
    · exact burns_refl _ _

theorem Leaf.heartJudge_eq_zero {l : Leaf} {c : List Byte} (e : l.heartJudge c = 0) : heartFull l.heart (field c 0 1) = false := by
  unfold Leaf.heartJudge at e
  extract_lets h cmd plen signed ok at e
  cases hfull : heartFull l.heart (field c 0 1) with
  | false => rfl
  | true =>
    simp only [h, cmd, hfull] at e
    split_ifs at e

theorem Leaf.heartCommand_otpStep (l : Leaf) (c : List Byte) : l.heart.OtpStep (l.heartCommand c).heart := by
  unfold Leaf.heartCommand
  extract_lets h cmd plen payload r l1 body
  clear_value body
  split
  · exact .refl _
  split
  · exact .of_eq (Leaf.heartAnswer_heart ..)
  split
  · rename_i hauth
    split
    · exact .of_otp_eq (by rw [Leaf.heartAnswer_heart, Leaf.heartEvent_otp])
    · rename_i hr
      have hstep : l.heart.OtpStep l1.heart := l.heart.accept_otpStep cmd payload (Leaf.heartJudge_eq_zero (not_not.1 hr)) hauth
      exact hstep.trans (.of_otp_eq (by rw [Leaf.heartAnswer_heart, Leaf.heartEvent_otp]))
  refine .of_otp_eq ?_
  clear_value cmd
  split
  · split <;> simp only [Leaf.heartAnswer_heart, Leaf.heartEvent_otp]
  split <;> simp only [Leaf.heartAnswer_heart, Leaf.heartRestore_otp]

theorem Leaf.heartMail_otpStep (l : Leaf) (c : List Byte) : l.heart.OtpStep (l.heartMail c).heart := by
  unfold Leaf.heartMail
  extract_lets l1
  have h1 : l1.heart = l.heart := Leaf.foldl_heart _ (fun l i => by simp) _ _
  split
  · exact .refl _
  · exact (Heart.OtpStep.of_eq h1).trans (Leaf.heartCommand_otpStep ..)

theorem Leaf.heartReject_otpStep (l : Leaf) (c : List Byte) : l.heart.OtpStep (l.heartReject c).heart := by
  simp only [Leaf.heartReject]
  split
  · exact .refl _
  · exact l.heartMail_otpStep c

theorem Leaf.heartRelay_otpStep (l : Leaf) (c : List Byte) : l.heart.OtpStep (l.heartRelay c).heart := by
  unfold Leaf.heartRelay
  split
  · exact .refl _
  · exact (l.heartMail_otpStep c).trans (.of_eq (Leaf.heart_on ..))

/-! ### Register writes, lists and records reach the OTP through the mailbox alone -/

theorem Leaf.heartWrite_otpStep (l : Leaf) (off v : Nat) : l.heart.OtpStep (l.heartWrite off v).heart := by
  unfold Leaf.heartWrite
  split
  · exact .refl _
  split
  · split
    · exact l.heartCommand_otpStep _
    · exact .refl _
  · exact .of_eq (Leaf.heart_on ..)

theorem Leaf.regWrite_otpStep (l : Leaf) (off v priv mid : Nat) : l.heart.OtpStep (l.regWrite off v priv mid).heart := by
  unfold Leaf.regWrite
  extract_lets n
  split
  · exact .refl _
  split
  · exact l.heartWrite_otpStep off v
  refine .of_eq ?_
  repeat' split
  all_goals simp +zetaDelta

theorem Leaf.nvmRead_otpStep (l : Leaf) (img : List Byte) : l.heart.OtpStep (l.nvmRead img).heart := by
  simp only [Leaf.nvmRead]
  repeat' split
  · exact .refl _
  · exact .of_eq (Leaf.heart_onBoot ..)
  · exact .of_eq (Leaf.s_heart ..)
  · refine (Leaf.foldl_otpStep _ (fun l i => ?_) _ l).trans (.of_eq (Leaf.s_heart ..))
    split
    · exact l.regWrite_otpStep ..
    · exact .of_eq (Leaf.count_heart ..)

theorem Leaf.regList_otpStep (l : Leaf) (seq : Nat) (entries : List (Nat × Nat)) : l.heart.OtpStep (l.regList seq entries).heart := by
  simp only [Leaf.regList, Leaf.heart_on, Leaf.bootStatus_heart, Leaf.heart_onBoot]
  refine Leaf.foldl_otpStep _ (fun l e => ?_) _ l
  split
  · exact .refl _
  · exact l.regWrite_otpStep ..

theorem Leaf.portRequest_otpStep (l : Leaf) (write : Bool) (addr be data priv mid : Nat) :
    l.heart.OtpStep (l.portRequest write addr be data priv mid).heart := by
  unfold Leaf.portRequest
  extract_lets answer
  have hanswer : ∀ (l : Leaf) v code, (answer l v code).heart = l.heart := fun l v code => Leaf.emit_heart ..
  split
  · exact .refl _
  split
  · exact .of_eq (hanswer ..)
  split
  · exact .of_eq (hanswer ..)
  split
  · exact .of_eq (hanswer ..)
  split
  · exact (l.regWrite_otpStep addr data priv mid).trans (.of_eq (hanswer ..))
  · exact .of_otp_eq ((congrArg Heart.otp (hanswer ..)).trans (l.regRead_otp addr priv))

theorem Leaf.takeBulk_otpStep (l : Leaf) (b : List Byte) : l.heart.OtpStep (l.takeBulk b).heart := by
  unfold Leaf.takeBulk
  split
  case h_2 => exact l.regList_otpStep ..
  case h_4 => exact l.heartRelay_otpStep ..
  all_goals exact .of_eq (by simp)

theorem Leaf.takeRecord_otpStep (l : Leaf) (kind : Nat) (body : List Byte) : l.heart.OtpStep (l.takeRecord kind body).heart := by
  unfold Leaf.takeRecord
  split
  · exact .of_eq (Leaf.takeAudit_heart ..)
  · exact l.takeBulk_otpStep body
  · exact .refl _

theorem Leaf.drain_otpStep (l : Leaf) : l.heart.OtpStep l.drain.heart :=
  (Heart.OtpStep.of_eq (Leaf.heart_on l _)).trans (Leaf.foldl_otpStep _ (fun l _ => l.takeRecord_otpStep _ _) _ _)

theorem Leaf.frameReceive_otpStep (l : Leaf) (lane : Nat) (bytes : List Byte) : l.heart.OtpStep (l.frameReceive lane bytes).heart := by
  unfold Leaf.frameReceive
  split
  next n r _ =>
    extract_lets l'
    have h' : l'.heart = l.heart := rfl
    clear_value l'
    rw [← h']
    split
    · exact .refl _
    next f _ => exact (Heart.OtpStep.of_eq (Leaf.heart_on l' fun n => (n.rxJudge lane f).1)).trans (Leaf.drain_otpStep _)

theorem Leaf.brought_otpStep (l : Leaf) (lane : Nat) (x : Brought) : l.heart.OtpStep (l.brought lane x).heart := by
  unfold Leaf.brought
  split
  · exact Leaf.foldl_otpStep _ (fun l f => l.frameReceive_otpStep lane f) _ l
  · exact .of_eq (Leaf.heart_on ..)
  · exact .refl _

theorem Leaf.takeCodeword_otpStep (l : Leaf) (lane : Nat) (w : CodewordHeard) : l.heart.OtpStep (l.takeCodeword lane w).heart := by
  unfold Leaf.takeCodeword
  split
  next n x _ => exact Leaf.brought_otpStep { l with toNode := n } lane x

theorem Leaf.dieTick_heart (l : Leaf) : l.dieTick.heart = l.heart := by
  simp [Leaf.dieTick]

end Sys2Proof.Machine
end

section
/-! ## What every command does to the OTP -/

namespace Sys2Proof.Machine

/-! ### Every command's effect on the OTP -/

/-- Where the answer goes on, Heartwood's OTP has changed only as it may. -/
def State.SparesOtp (s : State) (a : Answer) : Prop := ∀ t, a = .next t → s.leaf.heart.OtpStep t.leaf.heart

theorem State.SparesOtp.byCrown (s : State) (f : Crown → Crown) : s.SparesOtp (s.byCrown f) := by
  intro t e
  cases e
  exact .refl _

theorem State.SparesOtp.byHbm (s : State) (f : Crown → Crown) : s.SparesOtp (s.byHbm f) := by
  intro t e
  unfold State.byHbm at e
  split at e
  · cases e
  · cases e
    exact .refl _

/-- The same of a leaf before and after: a predicate of the leaves, so that the kernel compares these and computes neither. -/
def Leaf.SparesOtp (l l' : Leaf) : Prop := l.heart.OtpStep l'.heart

theorem Leaf.SparesOtp.of_heart_eq {l l' : Leaf} (e : l'.heart = l.heart) : l.SparesOtp l' := Heart.OtpStep.of_eq e

theorem Leaf.SparesOtp.of_unstored_eq {l l' : Leaf} (e : l'.heart.unstored = l.heart.unstored) : l.SparesOtp l' := Heart.OtpStep.of_unstored_eq e

theorem Leaf.SparesOtp.of_otp_eq {l l' : Leaf} (e : l'.heart.otp = l.heart.otp) : l.SparesOtp l' := Heart.OtpStep.of_otp_eq e

theorem Leaf.SparesOtp.unless {l : Leaf} {off : Bool} {f : Leaf → Leaf} (h : l.SparesOtp (f l)) : l.SparesOtp (l.unless off f) := by
  unfold Leaf.unless
  split
  · exact Heart.OtpStep.refl _
  · exact h

theorem State.SparesOtp.byLeaf {s : State} {w : LeafSel} {f : Leaf → Leaf} (h : ∀ l : Leaf, l.SparesOtp (f l)) : s.SparesOtp (s.byLeaf w f) := by
  intro t e
  cases e
  cases w with
  | die => exact h _
  | own => exact Heart.OtpStep.refl _

theorem State.SparesOtp.byBlock {s : State} {b : Block} {fl : Leaf → Leaf} {fc : Crown → Crown} (h : ∀ l : Leaf, l.SparesOtp (fl l)) :
    s.SparesOtp (s.byBlock b fl fc) := by
  cases b with
  | crown => exact .byCrown s fc
  | die => exact .byLeaf h
  | own => exact .byLeaf h

theorem State.SparesOtp.byBlockHbm {s : State} {b : Block} {fl : Leaf → Leaf} {fc : Crown → Crown} (h : ∀ l : Leaf, l.SparesOtp (fl l)) :
    s.SparesOtp (s.byBlockHbm b fl fc) := by
  cases b with
  | crown => exact .byHbm s fc
  | die => exact .byLeaf h
  | own => exact .byLeaf h

theorem Leaf.busRead_or_emit_sparesOtp (l : Leaf) (whole : Bool) (off priv v code : Nat) :
    l.SparesOtp (if whole then l.busRead off priv else l.emit (.response v code)) := by
  split
  · exact .of_otp_eq (l.busRead_otp off priv)
  · exact .of_heart_eq (Leaf.emit_heart ..)

theorem exec_sparesOtp (c : Instr) (s : State) : s.SparesOtp (exec c s) := by
  unfold exec
  cases c with
  | aonResetRelease | rehomeStart | rehomeReturn | root1Activate | exchangeStart | tdelay | ppsEdge | todMessage | timeSetGo | powerUp
  | opsecSave | rlogRstPort | mirrorRecord | data | mirrorRead | clearTicket | echoEngineGrant | downlinkPassStart | batchStart
  | windowClose | agg | raw | loadInterval | shift | load | req | grant | deny | flexTimeout | release | shaperRefill | go | gateTakeover
  | queueSample | nsampRead | strictDiscard | cmapDone | hbmTrained | loadEnsemble | unload | budgetHourEnd | resetRuns | engClear | reseed
  | rehearse | gradeRise | summary | groveStale | standIn | meterRelayRestore | bist | ready | assignAck | regDone | topologyCheck | offer
  | bcastReq | ack | ackSend | ackByExpire | commit | abortBroadcast | broadcastDiscard | jobAck | jobReport | rehearsalDue
  | rehearsalDetectTimeout | rehearsalPass | rehearsalAbort | laneHoldEnd | pllLock | clkCtrlWrite | clockSwitchDone | pllLockTimeout
  | viewRingEnable | viewDmaGo | pmbusAlert | dfiPhyRequest | jobStartDone => exact .byCrown _ _
  | ageingPoint | dead | remap | retire | queueTailWrite | cplHeadWrite | jobStart | jobComplete | engineFault | abortQueue | vectorForm
  | ensembleLoaded | treeJobStart | treeJobComplete | treeFault | windowProcess | refitComplete | rebase | sampleComplete
  | recomputeComplete | replayResult | weightRoundEnd | healthInput | place | releaseJob | resp | deadFailTimeout | vacancyFill | hold
  | unhold | fail | reinstate | romBoot | admissionCheck | warm | chunk | broadcastApply | modeEnter | modeExit | rstCmd | fwLoadData
  | fwLoadGo | wdogKick | wdogExpire | features | hostEnter | hostExit | pcieLinkDownTimeout | move | configCommand | jobStartCommand
  | viewCreate | viewDestroy | viewFreeze | viewThaw | viewSave | viewRestore | viewDispatch | viewCompletion | nohbmDeadline | viewDmaDone
  | moveDone => exact .byHbm _ _
  | enumReturn | readTimeout | flushBins | flushResume | marker | sweepDue | sweepStart | readResponse | sweepComplete | groupCfgApply
  | sapEnWrite | counterWindowRead | twigCfgGo | cresp | twigCfgTimeout | eventBeat | traceCtrlWrite | traceDrain | qsizeWrite | start
  | crcData | restore | pulseArm | pulseTakeover | pulseEdge | pulseEnableWrite | jobTGo | sensorSample | rateWindowEnd | guardInject
  | fenceClr | wclassChange | holdoffExpire | vfRequest | vfTimeout | auditDescriptor | fetchIssue | fetchResponse | replayDone
  | watchUnitWrite | vfResponse | vfReq | margin | retentionExpire | result | config | boost | lock | replay | wdigest | replayExpire
  | traceRetire | loss | lpEnter | traceLpExit => exact .byLeaf fun l => .unless (.of_heart_eq (by simp [-Leaf.on_heart]))
  | twigResetAssert | twigResetRelease | traceCoreReset | twigHostCycle | twigCfgApply | lLinkResetRelease | lHostResetRelease => exact .byLeaf fun l => .of_heart_eq (by simp [-Leaf.on_heart])
  | holdoverEnter | tstatusPeriodic | mirrorAck | rlogRead | read | rlogClear | retry | keepaliveSend | assign | jobArm | jobGo | jobCancel
  | recordEnqueue | alivePeriodEnd | replayStart | levelRise | levelFall | tsync | tresp | boundHoldoverUpdate | laneEnWrite | retrainWrite
  | retrain | trainStepEnd | probeHeard | trainingFrame | trialVerdict | laneDown | silentEnd | keepalive | lqWindowEnd | modeReq | modeAck
  | modeGo | modeChangeTimeout | modeSwitch | modeLocked | captureEdge => exact .byBlock fun l => .unless (.of_heart_eq (by simp [-Leaf.on_heart]))
  | timeNowCapture | capturePop | timeResetRelease | clockFail => exact .byBlock fun l => .of_heart_eq (by simp [-Leaf.on_heart])
  | resetAssert => exact .byBlockHbm fun l => .of_heart_eq (by simp [-Leaf.on_heart])
  | getId | attest | hwRestore | readLog | setConfig | heartSeal | heartUnseal | clearTamper => exact .byLeaf fun l => l.heartMail_otpStep _
  | hwResetRelease => exact .byLeaf fun l => l.heartStart_otpStep _
  | hwTagCycle => exact .byLeaf fun l => .of_otp_eq (l.tagCycle_otp ..)
  | requestEnd => exact .byLeaf fun l => .of_otp_eq (l.requestEnd_otp ..)
  | powerSample => exact .byLeaf fun l => .of_otp_eq (l.powerSample_otp ..)
  | subintervalEnd => exact .byLeaf fun l => .of_otp_eq l.subEnd_otp
  | hwIntervalEnd => exact .byLeaf fun l => l.intervalEnd_otpStep
  | hwRelease => exact .byLeaf fun l => .of_unstored_eq (l.heartRelease_unstored _)
  | tamper => exact .byLeaf fun l => l.tamper_otpStep _
  | oscFault => exact .byLeaf fun l => .of_otp_eq (l.oscFault_otp _)
  | cmdReject => exact .byLeaf fun l => l.heartReject_otpStep _
  | registerPortRequest => exact .byLeaf fun l => l.portRequest_otpStep ..
  | lAonResetRelease => exact .byLeaf fun l => .of_unstored_eq (l.aonRelease_unstored _)
  | lSapResetRelease => exact .byLeaf fun l => .of_unstored_eq l.sapRelease_unstored
  | nvmRead => exact .byLeaf fun l => .unless (l.nvmRead_otpStep _)
  | jobFifoPop => exact .byLeaf fun l => .unless (.of_otp_eq (l.jobPop_otp _))
  | regWrite => exact .byLeaf fun l => .unless (l.regList_otpStep ..)
  | frameClose => exact .byBlock (fun l => .of_unstored_eq (l.frameClose_unstored _))
  | rcRead => exact .byBlock (fun l => l.busRead_or_emit_sparesOtp ..)
  | registerWrite => exact .byBlockHbm (fun l => .unless ((Heart.OtpStep.of_eq (l.noteDefer_heart _)).trans (Leaf.regWrite_otpStep ..)))
  | frameReceive => exact .byBlockHbm (fun l => .unless (l.frameReceive_otpStep ..))
  | codewordReceive => exact .byBlockHbm (fun l => .unless (l.takeCodeword_otpStep ..))
  | clockReturn => exact .byBlockHbm (fun l => .of_unstored_eq (l.clockReturn_unstored _))
  | frameSelect b =>
    cases b with
    | die => exact .byLeaf fun l => .of_heart_eq (by simp [-Leaf.on_heart])
    | own | crown => exact .byHbm _ _

end Sys2Proof.Machine
end

section
/-! ## The fuses of Heartwood over a step (R387, R390) -/

namespace Sys2Proof.Machine

/-! ### Every step's effect on the OTP -/

theorem step_otpStep {s t : State} (h : step s = .next t) : s.leaf.heart.OtpStep t.leaf.heart := by
  rcases hq : s.pending with _ | ⟨c, q⟩
  · obtain ⟨_, e⟩ | ⟨_, e⟩ := step_nil s hq
    · obtain rfl := Host.Outcome.next.inj (e.symm.trans h)
      exact .of_eq s.leaf.dieTick_heart
    · cases e.symm.trans h
  · rw [step_cons s c q hq] at h
    exact exec_sparesOtp c { s with pending := q } t h

/-- Settles O47: every step burns fuses and fills slots within their numbers alone. -/
theorem fusesWithinOtp : Obligations.FusesWithinOtp := by
  intro s t ⟨hseal, hunseal, htamper, hclear, hslots, hsealed⟩ h
  have k := step_otpStep h
  exact ⟨k.seals.2 hseal, k.unseals.2 hunseal, k.tampers.2 htamper, k.clears.2 hclear, k.slotRoom hslots, k.sealed hsealed⟩

/-- Settles O48. -/
theorem resetFusesWithinOtp : Obligations.ResetFusesWithinOtp := by
  unfold Obligations.ResetFusesWithinOtp
  decide

/-- Settles O49: every step burns fuses and appends slots. -/
theorem fusesNeverUnburn : Obligations.FusesNeverUnburn := by
  intro s t h
  have k := step_otpStep h
  obtain ⟨more, hmore⟩ := k.slots
  exact ⟨k.seals.1, k.unseals.1, k.tampers.1, k.clears.1, more, hmore.symm⟩

end Sys2Proof.Machine
end

section
/-! ## Commands that complete, refuse or change nothing -/

namespace Sys2Proof.Machine

/-! ### Steps, firmware and tenant views -/

/-- Settles O1. -/
theorem stepRunsTheFront : Obligations.StepRunsTheFront :=
  fun s c q => step_cons { s with pending := c :: q } c q rfl

/-- Settles O14: `exec` gives each command of the family the form `byCrown` or `byHbm`, and each form completes by its lemma. -/
theorem hostCommandsComplete : Obligations.HostCommandsComplete := by
  unfold Obligations.HostCommandsComplete
  exact ⟨
    -- Firmware (R489, R490)
    fun _ _ => runsOnHbm_of_byHbm fun _ => rfl, -- FW_LOAD_DATA
    runsOnHbm_of_byHbm fun _ => rfl, -- FW_LOAD_GO
    fun _ _ => runsOnHbm_of_byHbm fun _ => rfl, -- WDOG_KICK
    runsOnHbm_of_byHbm fun _ => rfl, -- WDOG_EXPIRE
    -- The mailbox (R494, R495)
    fun _ => runsOnHbm_of_byHbm fun _ => rfl, -- FEATURES
    fun _ => runsOnHbm_of_byHbm fun _ => rfl, -- HOST_ENTER
    fun _ => runsOnHbm_of_byHbm fun _ => rfl, -- HOST_EXIT
    runsOnHbm_of_byHbm fun _ => rfl, -- PCIE_LINK_DOWN_TIMEOUT
    fun _ => runsOnHbm_of_byHbm fun _ => rfl, -- MOVE
    fun _ => runsOnHbm_of_byHbm fun _ => rfl, -- MOVE_DONE
    fun _ => runsOnHbm_of_byHbm fun _ => rfl, -- CONFIG
    fun _ => runsOnHbm_of_byHbm fun _ => rfl, -- JOB_START
    runsOnCrown_of_byCrown fun _ => rfl, -- JOB_START_DONE
    -- Tenant views (R496 to R502)
    fun _ => runsOnHbm_of_byHbm fun _ => rfl, -- VIEW_CREATE
    fun _ => runsOnHbm_of_byHbm fun _ => rfl, -- VIEW_DESTROY
    fun _ => runsOnHbm_of_byHbm fun _ => rfl, -- VIEW_FREEZE
    fun _ => runsOnHbm_of_byHbm fun _ => rfl, -- VIEW_THAW
    fun _ _ => runsOnHbm_of_byHbm fun _ => rfl, -- VIEW_SAVE
    fun _ _ => runsOnHbm_of_byHbm fun _ => rfl, -- VIEW_RESTORE
    fun _ _ _ => runsOnCrown_of_byCrown fun _ => rfl, -- VIEW_RING_ENABLE
    fun _ => runsOnHbm_of_byHbm fun _ => rfl, -- VIEW_DISPATCH
    fun _ => runsOnHbm_of_byHbm fun _ => rfl, -- VIEW_COMPLETION
    fun _ _ => runsOnCrown_of_byCrown fun _ => rfl, -- VIEW_DMA_GO
    fun _ _ => runsOnHbm_of_byHbm fun _ => rfl, -- VIEW_DMA_DONE
    -- Alerts and the DFI (R467)
    fun _ => runsOnCrown_of_byCrown fun _ => rfl, -- PMBUS_ALERT
    fun _ _ => runsOnCrown_of_byCrown fun _ => rfl⟩ -- DFI_PHY_REQUEST

/-- The crown domains held at reset, each of the sixteen. -/
theorem reset_inReset : ∀ d < 18, 2 ≤ d → State.reset.crown.inReset d = true := by decide

/-- Settles O59. -/
theorem afterReset : Obligations.AfterReset := by
  unfold Obligations.AfterReset
  exact ⟨rfl, rfl, rfl, rfl, by decide, by decide, fun d hd => reset_inReset d (by omega) hd.1, rfl, by decide, by decide⟩

/-! ### What a command answers where its operation is known -/

theorem State.onLeaf_self {s : State} {w : LeafSel} {f : Leaf → Leaf} (h : f (s.leafOf w) = s.leafOf w) : s.onLeaf w f = s :=
  (State.onLeaf_congr (g := id) h).trans (by cases w <;> rfl)

/-- A command that runs on a leaf, where its operation leaves the leaf as `g` does. -/
theorem runsOnLeaf.next_of_eq {c : Instr} {w : LeafSel} {stopped : Leaf → Bool} {f g : Leaf → Leaf} (h : runsOnLeaf c w stopped f) {s : State}
    (halive : stopped (s.leafOf w) = false) (e : f (s.leafOf w) = g (s.leafOf w)) : exec c s = .next (s.onLeaf w g) :=
  (h s halive).trans (congrArg Host.Outcome.next (State.onLeaf_congr e))

/-- A command that runs on a leaf and leaves it as it is. -/
theorem runsOnLeaf.next_self {c : Instr} {w : LeafSel} {stopped : Leaf → Bool} {f : Leaf → Leaf} (h : runsOnLeaf c w stopped f) {s : State}
    (halive : stopped (s.leafOf w) = false) (e : f (s.leafOf w) = s.leafOf w) : exec c s = .next s :=
  (h s halive).trans (congrArg Host.Outcome.next (State.onLeaf_self e))

/-- A command of the crown alone whose operation leaves the crown `k`. -/
theorem runsOnCrown.next_of_eq {c : Instr} {f : Crown → Crown} (h : runsOnCrown c free f) {s : State} {k : Crown} (e : f s.crown = k) :
    exec c s = .next { s with crown := k } :=
  (h s rfl).trans (by rw [e])

/-- A command that may access HBM whose operation leaves the crown `k`, which has not strayed. -/
theorem runsOnHbm.next_of_eq {c : Instr} {f : Crown → Crown} (h : runsOnHbm c f) {s : State} {k : Crown} (e : f s.crown = k) (hstray : k.stray = false) :
    exec c s = .next { s with crown := k } :=
  (h s (by rw [e, hstray])).trans (by rw [e])

theorem Crown.s_stray (c : Crown) (f : Fld) (v : Nat) : (c.s f v).stray = c.stray := (rfl)

/-! ### Clock control (R473, R474) -/

/-- Settles O19. -/
theorem clockSwitch : Obligations.ClockSwitch := by
  refine ⟨fun s d v h => runsOnCrown.next_of_eq (f := (·.clkCtrlWrite d v)) (runsOnCrown_of_byCrown fun _ => rfl) ?_, fun s d => ⟨fun hd hruns => ?_, fun hruns => ?_⟩⟩
  · simp only [Crown.clkCtrlWrite]
    rw [if_pos]
    obtain ⟨hpll, hsel⟩ | ⟨hturn, hbusy⟩ := h
    · simp only [decide_eq_true hpll, Bool.true_and, Bool.or_eq_true]
      exact .inl hsel
    · simp [hturn, hbusy]
  · refine runsOnCrown.next_of_eq (f := (·.switchDone d)) (runsOnCrown_of_byCrown fun _ => rfl) ?_
    simp only [Bool.and_eq_true] at hruns
    obtain ⟨⟨⟨hbusy, hclock⟩, href⟩, hen⟩ := hruns
    unfold Crown.switchDone
    rw [if_neg]
    simp [hbusy, hclock, href, hen]
    omega
  · refine runsOnCrown.next_of_eq (f := (·.switchDone d)) (runsOnCrown_of_byCrown fun _ => rfl) (k := s.crown) ?_
    unfold Crown.switchDone
    rw [if_pos]
    by_cases hbusy : s.crown.flag (BZ_CLKd_STAT_SWITCHING d) = true
    · simp only [hbusy, Bool.true_and] at hruns
      simp [hruns]
    · simp [hbusy]

/-! ### Counters and markers (R76, R89) -/

/-- Settles O26. -/
theorem counterWindow : Obligations.CounterWindow := by
  intro s w i priv halive
  have hrun : runsOnLeaf (.counterWindowRead w i priv) w Leaf.sapHeld (·.counterRead i priv) := runsOnLeaf_of_byLeafSap fun _ => rfl
  refine ⟨fun hpriv => hrun.next_of_eq halive (by simp [Leaf.counterRead, Leaf.windowRead, hpriv]), fun hpriv hi => ⟨_, hrun s halive, ?_⟩⟩
  rw [State.leafOf_onLeaf]
  have hread : (s.leafOf w).windowRead i priv =
      (((s.leafOf w).reader.last.get (fun _ => Reading.none) i).value % 2 ^ 32, (s.leafOf w).onReader (fun r =>
        { r with latch := r.latch.set (fun _ => Reading.none) priv ((s.leafOf w).reader.last.get (fun _ => Reading.none) i) })) := by
    unfold Leaf.windowRead
    rw [if_neg (by simpa [hpriv] using hi)]
  have hword (v : Nat) : BitVec.ofNat 32 (v % 2 ^ 32) = BitVec.ofNat 32 v := BitVec.eq_of_toNat_eq (by simp)
  simp only [Leaf.counterRead, hread]
  refine ⟨?_, Tab.get_set_self _ _ _ _, fun p hp => Tab.get_set_ne _ _ _ hp, rfl⟩
  exact (Node.emit_out ..).trans (by rw [hword]; rfl)

/-- Settles O27. -/
theorem markerRefused : Obligations.MarkerRefused := fun s w n data priv mid halive hpriv =>
  (runsOnLeaf_of_byLeafSap (f := (·.marker n data priv mid)) fun _ => rfl).next_of_eq halive (by simp only [Leaf.marker, hpriv, Bool.not_false, if_true])

/-! ### Guards (R99, R102) -/

/-- Settles O28. -/
theorem guardPrivilege : Obligations.GuardPrivilege := by
  have hinject (w : LeafSel) (go : Bool) (u priv : Nat) : runsOnLeaf (.guardInject w go u priv) w Leaf.guardDead (·.inject go u priv) :=
    runsOnLeaf_of_unless (runsOnLeaf_of_byLeaf fun _ => rfl)
  have hclr (w : LeafSel) (mask priv : Nat) : runsOnLeaf (.fenceClr w mask priv) w Leaf.guardDead (·.fenceClr mask priv) :=
    runsOnLeaf_of_unless (runsOnLeaf_of_byLeaf fun _ => rfl)
  refine ⟨fun s w go u priv halive hpriv => (hinject w go u priv).next_of_eq halive ?_, fun s w mask priv halive hpriv => (hclr w mask priv).next_of_eq halive ?_,
    fun s w go u priv hpriv hoff => ?_⟩
  · rw [Leaf.inject, if_pos (by simpa [Leaf.grdPriv] using hpriv)]
  · rw [Leaf.fenceClr, if_pos (by simpa [Leaf.grdPriv] using hpriv)]
  · have hsame : (s.leafOf w).inject go u priv = s.leafOf w := by
      rw [Leaf.inject, if_neg (by simpa [Leaf.grdPriv] using hpriv), if_pos]
      obtain hen | htrip := hoff
      · simp [hen]
      · simp [htrip]
    have hform : exec (.guardInject w go u priv) s = .next (s.onLeaf w fun l => l.unless l.guardDead (·.inject go u priv)) := rfl
    rw [hform, State.onLeaf_self]
    unfold Leaf.unless
    split
    · rfl
    · exact hsame

/-! ### Queues and frames (R148, R157) -/

theorem Node.key_leaf {n : Node} (lane cls : Nat) (h : n.crown = false) : n.key lane cls = cls := by simp [Node.key, h]

theorem Node.clsOf_leaf {n : Node} (k : Nat) (h : n.crown = false) : n.clsOf k = k := by simp [Node.clsOf, h]

/-- Settles O33. -/
theorem levelRises : Obligations.LevelRises := by
  intro s w lane cls halive hleaf hcls
  have hrun : runsOnLeaf (.levelRise w.block lane cls) w Leaf.sapHeld (·.on (fun n => n.levelRise (n.key lane (cls % 8)))) :=
    runsOnLeaf_of_unless (runsOnLeaf_of_byBlock fun _ => rfl)
  have hkey : (s.leafOf w).toNode.key lane (cls % 8) = cls := by rw [Node.key_leaf lane _ hleaf, Nat.mod_eq_of_lt hcls]
  have hclsOf : (s.leafOf w).toNode.clsOf cls = cls := Node.clsOf_leaf cls hleaf
  split
  next hrises =>
    obtain ⟨hweighted, hfill, hsince, hlevel⟩ := hrises
    refine ⟨_, hrun s halive, ?_⟩
    rw [State.leafOf_onLeaf]
    have hnode : ((s.leafOf w).toNode.levelRise cls) = (s.leafOf w).toNode.setQ cls
        { (s.leafOf w).toNode.q cls with level := ((s.leafOf w).toNode.q cls).level + 1, levelAt := (s.leafOf w).toNode.ns } := by
      rw [Node.levelRise, if_pos ⟨by omega, by omega, hsince, hlevel⟩]
    simp only [Leaf.on_toNode, hkey, hnode]
    refine ⟨?_, fun k hk => ?_, rfl⟩
    · rw [Node.q_setQ, if_pos rfl]
    · rw [Node.q_setQ, if_neg hk]
  next hstays =>
    refine hrun.next_self halive ?_
    have hnode : (s.leafOf w).toNode.levelRise cls = (s.leafOf w).toNode := by
      rw [Node.levelRise, if_neg]
      rintro ⟨hweighted, hfill, hsince, hlevel⟩
      exact hstays ⟨by omega, by omega, hsince, hlevel⟩
    simp only [Leaf.on, hkey, hnode]

/-- Settles O34. -/
theorem badFrameDiscarded : Obligations.BadFrameDiscarded := by
  intro s w lane bytes halive hbad
  refine (runsOnLeaf_of_unless (runsOnLeaf_of_byBlockHbm fun _ => rfl) : runsOnLeaf _ w Leaf.sapHeld (·.frameReceive lane bytes)).next_of_eq halive
    (g := (·.count ((s.leafOf w).toNode.rxCounts lane).crcbad)) ?_
  simp only [Leaf.frameReceive, Node.rxAccept, hbad, Bool.not_false, if_true]
  rfl

/-! ### Gates, cell maps, runs and engines (R233, R244, R315, R335) -/

/-- Settles O37. -/
theorem gateGoRefused : Obligations.GateGoRefused := by
  intro s l hpend hbad
  refine runsOnCrown.next_of_eq (f := (·.gateGo l)) (runsOnCrown_of_byCrown fun _ => rfl) ?_
  simp only [Crown.gateGo, hpend, Bool.false_eq_true, if_false]
  rw [if_pos]
  tauto

/-- Settles O38. -/
theorem mapCommandRefused : Obligations.MapCommandRefused := by
  intro s q l p hstray
  have hkept (e : Nat) : ((s.crown.s BZ_CMAP_STAT_ERR 1).s BZ_CMAP_STAT_ECODE e).stray = false := by rw [Crown.s_stray, Crown.s_stray, hstray]
  have hremap {k : Crown} (e : s.crown.remap q l p = k) (hk : k.stray = false) : exec (.remap q l p) s = .next { s with crown := k } :=
    runsOnHbm.next_of_eq (f := (·.remap q l p)) (runsOnHbm_of_byHbm fun _ => rfl) e hk
  have hretire {k : Crown} (e : s.crown.retire q l p = k) (hk : k.stray = false) : exec (.retire q ⟨l, p⟩) s = .next { s with crown := k } :=
    runsOnHbm.next_of_eq (f := (·.retire q l p)) (runsOnHbm_of_byHbm fun _ => rfl) e hk
  refine ⟨fun hbusy => ⟨hremap ?_ (hkept _), hretire ?_ (hkept _)⟩, fun hidle => ⟨fun hp => ⟨hremap ?_ (hkept _), hretire ?_ (hkept _)⟩,
    fun hp hcell => hremap ?_ (hkept _), fun x hp hcell huser hx => hremap ?_ (hkept _), fun hp hcell => hretire ?_ (hkept _)⟩⟩
  · rw [Crown.remap, if_pos hbusy]; rfl
  · rw [Crown.retire, if_pos hbusy]; rfl
  · rw [Crown.remap, hidle, if_neg (by decide), if_pos hp]; rfl
  · rw [Crown.retire, hidle, if_neg (by decide), if_pos hp]; rfl
  · rw [Crown.remap, hidle, if_neg (by decide), if_neg (by omega), if_pos hcell]; rfl
  · rw [Crown.remap, hidle, if_neg (by decide), if_neg (by omega), hcell, if_neg (by decide), if_pos (by simp [huser, hx])]; rfl
  · rw [Crown.retire, hidle, if_neg (by decide), if_neg (by omega), if_pos (by simp [hcell])]; rfl

/-- The plan with every run at 0, on and off. -/
def WinPlan.calmed (p : WinPlan) : WinPlan :=
  { p with series := p.series.map (fun x => { x with run := { x.run with on := 0, off := 0 } }),
           groups := p.groups.map (fun g => { g with run := { g.run with on := 0, off := 0 } }) }

theorem Crown.resetRuns_of_some {c : Crown} {slot : Nat} {p : WinPlan} (h : c.winPlan slot = some p) : c.resetRuns slot = c.setWin slot p.calmed := by
  simp only [Crown.resetRuns, h, WinPlan.calmed]

/-- Settles O41. -/
theorem runsReset : Obligations.RunsReset := by
  intro s slot p hp
  have hreset := Crown.resetRuns_of_some hp
  exact ⟨p.calmed, runsOnCrown.next_of_eq (f := (·.resetRuns slot)) (runsOnCrown_of_byCrown fun _ => rfl) hreset, by simp [WinPlan.calmed], by simp [WinPlan.calmed], by simp [WinPlan.calmed]⟩

/-- Settles O43. -/
theorem clearNeedsFenced : Obligations.ClearNeedsFenced := fun s port engine hstate =>
  runsOnCrown.next_of_eq (f := (·.engClear port engine)) (runsOnCrown_of_byCrown fun _ => rfl) (k := s.crown) (by simp only [Crown.engClear, if_pos hstate])

/-! ### Port commands (R368) -/

/-- Settles O44. -/
theorem portCommandRefused : Obligations.PortCommandRefused := by
  intro s p hstray known refused
  have hrun (op e : Nat) (c : Instr) (hform : ∀ s : State, exec c s = s.byHbm (·.portCommand op p))
      (hrefuse : s.crown.portCommand op p = s.crown.portRefuse e) : exec c s = refused e :=
    (runsOnHbm_of_byHbm hform).next_of_eq hrefuse (by simp only [Crown.s_stray, hstray])
  have hunnamed (hk : ¬ known) : (!decide known) = true := by rw [decide_eq_false hk]; rfl
  have hnamed (hk : known) : ¬ (!decide known) = true := by rw [decide_eq_true hk]; decide
  have hbasic (op : Nat) (hb : s.crown.basic = true) : s.crown.portCommand op p = s.crown.portRefuse 3 := by
    simp only [Crown.portCommand, hb, if_true]
  have hunknown (op : Nat) (hb : s.crown.basic = false) (hk : ¬ known) : s.crown.portCommand op p = s.crown.portRefuse 1 := by
    simp only [Crown.portCommand, hb]
    rw [if_neg (by decide), if_pos (hunnamed hk)]
  have hstate (op : Nat) (hop : op = 0 ∨ op = 2) (hb : s.crown.basic = false) (hk : known) (hp : (s.crown.die p).pstate ≠ 0) :
      s.crown.portCommand op p = s.crown.portRefuse 2 := by
    simp only [Crown.portCommand, hb]
    rw [if_neg (by decide), if_neg (hnamed hk)]
    obtain rfl | rfl := hop
    · exact if_neg hp
    · exact if_pos hp
  have hretired (hb : s.crown.basic = false) (hk : known) (hp : (s.crown.die p).pstate ≠ 2) : s.crown.portCommand 3 p = s.crown.portRefuse 2 := by
    simp only [Crown.portCommand, hb]
    rw [if_neg (by decide), if_neg (hnamed hk)]
    exact if_pos hp
  refine ⟨fun c hc => ?_, fun c hc hb hk hp => ?_, fun hb hk hp => hrun 3 2 _ (fun _ => rfl) (hretired hb hk hp)⟩
  · simp only [List.mem_cons, List.not_mem_nil, or_false] at hc
    obtain rfl | rfl | rfl | rfl := hc
    · exact ⟨fun hb => hrun 0 3 _ (fun _ => rfl) (hbasic 0 hb), fun hb hk => hrun 0 1 _ (fun _ => rfl) (hunknown 0 hb hk)⟩
    · exact ⟨fun hb => hrun 1 3 _ (fun _ => rfl) (hbasic 1 hb), fun hb hk => hrun 1 1 _ (fun _ => rfl) (hunknown 1 hb hk)⟩
    · exact ⟨fun hb => hrun 2 3 _ (fun _ => rfl) (hbasic 2 hb), fun hb hk => hrun 2 1 _ (fun _ => rfl) (hunknown 2 hb hk)⟩
    · exact ⟨fun hb => hrun 3 3 _ (fun _ => rfl) (hbasic 3 hb), fun hb hk => hrun 3 1 _ (fun _ => rfl) (hunknown 3 hb hk)⟩
  · simp only [List.mem_cons, List.not_mem_nil, or_false] at hc
    obtain rfl | rfl := hc
    · exact hrun 0 2 _ (fun _ => rfl) (hstate 0 (.inl rfl) hb hk hp)
    · exact hrun 2 2 _ (fun _ => rfl) (hstate 2 (.inr rfl) hb hk hp)

/-! ### Power pairs (R379) -/

/-- Settles O46. -/
theorem powerPairEnergy : Obligations.PowerPairEnergy := by
  intro s v i hup
  refine ⟨_, runsOnLeaf_of_byLeaf (stopped := free) (w := .die) (f := (·.powerSample v i)) (fun _ => rfl) s rfl, ?_⟩
  simp only [State.onLeaf, Leaf.powerSample, hup, Bool.not_true, Bool.false_eq_true, if_false]
  split <;> simp_all

/-! ### Job starts (R423) -/

/-- Settles O53. -/
theorem jobGoAndCancel : Obligations.JobGoAndCancel := by
  refine ⟨fun s w body halive => ?_, fun s w body halive => ?_⟩
  · refine (runsOnLeaf_of_byBlockUnlessSap (fun _ => rfl) : runsOnLeaf _ w Leaf.sapHeld (·.jobGo (field body 3 4))).next_of_eq halive ?_
    have hmark (now : Nat) (a : Armed) : (if a.job = field body 3 4 ∧ now < a.tgo then { a with go := true } else a) =
        { a with go := a.go || (a.job == field body 3 4 && decide (now < a.tgo)) } := by
      split
      next h => simp [h.1, h.2]
      next h =>
        have hnot : (a.job == field body 3 4 && decide (now < a.tgo)) = false := by simpa using h
        rw [hnot, Bool.or_false]
    simp only [Leaf.jobGo, Leaf.onBoot, hmark]
  · exact (runsOnLeaf_of_byBlockUnlessSap (fun _ => rfl) : runsOnLeaf _ w Leaf.sapHeld (·.jobCancel (field body 3 4))).next_of_eq halive rfl

/-! ### The watchdog and the loader (R489, R490) -/

/-- Settles O56. -/
theorem loaderRefuses : Obligations.LoaderRefuses := by
  intro s hstray
  have hrun {k : Crown} (e : s.crown.fwLoadGo = k) (hk : k.stray = false) : exec .fwLoadGo s = .next { s with crown := k } :=
    (runsOnHbm_of_byHbm fun _ => rfl).next_of_eq e hk
  refine ⟨fun h => hrun (k := s.crown) ?_ hstray, fun hrole hbusy hready => hrun ?_ (by rw [Crown.s_stray, hstray])⟩
  · rw [Crown.fwLoadGo, if_pos h]
  · rw [Crown.fwLoadGo, if_neg (by simp [hrole, hbusy]), if_pos (by simp [hready])]
    rfl

end Sys2Proof.Machine
end

section
/-! ## What the packer and the Ring log leave alone -/

namespace Sys2Proof.Machine

/-! ### What the packer and the Ring log leave alone -/

/-- The registers in which a leaf's packer and its ring count: those of the eight class queues, and RLOG_LOST. -/
def packCount (off : Nat) : Prop := (0x2040 ≤ off ∧ off < 0x2240) ∨ off = TZ_RLOG_LOST_COUNT.off

/-- A reading of the node that no queue, no ring and no count of the packer's enters. -/
structure Node.ApartFromPacker {α : Type} (p : Node → α) : Prop where
  setQ : ∀ n k x, p (Node.setQ n k x) = p n
  inc : ∀ n f v, packCount f.off → p (Node.inc n f v) = p n
  ring : ∀ (n : Node) r, p { n with ring := r } = p n

/-- The packer's counts of one of a leaf's eight classes. -/
theorem packCount_of_class {k d : Nat} (hk : k < 8) (hd : d < 0x40) : packCount (0x2040 + d + 0x40 * k) := .inl ⟨by omega, by omega⟩

section
variable {α : Type} {p : Node → α} (hp : Node.ApartFromPacker p)
include hp

theorem Node.ApartFromPacker.count {n : Node} {f : Fld} (h : packCount f.off) : p (n.count f) = p n := hp.inc n f 1 h

theorem Node.ApartFromPacker.watchFill (n : Node) (k : Nat) : p (n.watchFill k) = p n := by
  unfold Node.watchFill
  extract_lets c
  repeat' split
  all_goals simp only [hp.setQ]

theorem Node.ApartFromPacker.append (n : Node) (k : Nat) (r : Rec) : p (n.append k r) = p n := by
  simp only [Node.append, hp.watchFill, hp.setQ]

theorem Node.ApartFromPacker.thin (n : Node) {k : Nat} (hk : n.crown = true ∨ k < 8) (r : Rec) : p (n.thin k r) = p n := by
  unfold Node.thin
  extract_lets m
  have hm : p m = p n := hp.setQ _ _ _
  split
  · exact hm
  · next hleaf => exact (hp.count (packCount_of_class (d := 0x10) (hk.resolve_left hleaf) (by decide))).trans hm

theorem Node.ApartFromPacker.drop (n : Node) {k : Nat} (hk : n.crown = true ∨ k < 8) (r : Rec) : p (n.drop k r) = p n := by
  unfold Node.drop
  extract_lets m
  have hm : p m = p n := hp.setQ _ _ _
  split
  · exact hm
  · next hleaf =>
    have hk := hk.resolve_left hleaf
    exact (hp.inc _ _ _ (packCount_of_class (d := 0x18) hk (by decide))).trans ((hp.count (packCount_of_class (d := 0x14) hk (by decide))).trans hm)

theorem Node.ApartFromPacker.offer (n : Node) {k : Nat} (hk : n.crown = true ∨ k < 8) (r : Rec) (s : Option Nat) : p (n.offer k r s).2 = p n := by
  unfold Node.offer
  split
  · exact hp.append n k r
  · exact hp.thin n hk r
  · exact hp.drop n hk r
  · extract_lets src c m
    have hm : p m = p n := hp.setQ _ _ _
    dsimp only
    split
    · exact hm
    · next hleaf => exact (hp.count (packCount_of_class (d := 0x1C) (hk.resolve_left hleaf) (by decide))).trans hm
  · rfl

theorem Node.ApartFromPacker.post (n : Node) (lane : Nat) {r : Rec} (hr : r.cls < 8) : p (n.post lane r) = p n := by
  have hk : n.crown = true ∨ n.key lane r.cls < 8 := by
    cases h : n.crown with
    | true => exact .inl rfl
    | false => exact .inr (by rwa [Node.key_leaf lane _ h])
  have hoffer := hp.offer n hk r none
  unfold Node.post
  extract_lets k wait
  split
  · split
    next done m e =>
      rw [e] at hoffer
      split
      · exact hoffer
      · exact (hp.setQ _ _ _).trans hoffer
  · exact hp.setQ _ _ _

theorem Node.ApartFromPacker.bulkUp (n : Node) (body : List Byte) : p (n.bulkUp body) = p n := hp.post n _ (show 7 < 8 by decide)

theorem Node.ApartFromPacker.foldl_post (n : Node) (lanes : List Nat) {r : Rec} (hr : r.cls < 8) : p (lanes.foldl (fun n k => n.post k r) n) = p n :=
  foldl_keeps p _ (fun n k => hp.post n k hr) lanes n

theorem Node.ApartFromPacker.ringPump (fuel : Nat) (n : Node) : p (n.ringPump fuel) = p n := by
  induction fuel generalizing n with
  | zero => rfl
  | succ m ih =>
    unfold Node.ringPump
    split
    · rfl
    · next r _ =>
      split
      · exact (ih _).trans (hp.ring _ _)
      · have hk : n.crown = true ∨ n.key n.weightLane 5 < 8 := by
          cases h : n.crown with
          | true => exact .inl rfl
          | false => exact .inr (by rw [Node.key_leaf _ _ h]; decide)
        have hoffer := hp.offer n hk r.toSap none
        split
        · next n' e =>
          have hn' : p n' = p n := by rw [e] at hoffer; exact hoffer
          exact (ih _).trans ((hp.ring _ _).trans ((hp.foldl_post n' _ (show 5 < 8 by decide)).trans hn'))
        · next n' e => rw [e] at hoffer; exact hoffer

theorem Node.ApartFromPacker.logAt (n : Node) (typ : Nat) (st : Stamp) (body : List Byte) : p (n.logAt typ st body) = p n := by
  unfold Node.logAt
  split
  · rfl
  · extract_lets r recs gone lost tail ring n1 n2
    have h1 : p n1 = p n := hp.ring _ _
    have h2 : p n2 = p n1 := by
      simp only [n2]
      split
      · rfl
      · exact hp.inc _ _ _ (.inr rfl)
    exact (hp.ringPump 64 n2).trans (h2.trans h1)

theorem Node.ApartFromPacker.log (n : Node) (typ : Nat) (body : List Byte) : p (n.log typ body) = p n := hp.logAt n typ n.stamp body

/-- A report of the node's time, where the outputs do not enter the reading either (R151). -/
theorem Node.ApartFromPacker.report (hemit : ∀ n o, p (Node.emit n o) = p n) (n : Node) {cls : Nat} (hc : cls < 8) : p (n.report cls) = p n := by
  have htell : p (n.tellStatus (n.tstatusRec cls)) = p n := by
    unfold Node.tellStatus
    extract_lets top n1
    have h1 : p n1 = p n := by
      simp only [n1]
      split
      · exact hemit _ _
      · rfl
    split
    · exact h1
    · exact (hp.foldl_post n1 _ hc).trans h1
  unfold Node.report
  extract_lets r n1
  split
  · exact htell
  · exact (hp.logAt n1 _ _ _).trans htell

end

theorem Node.apartFromPacker_crown : Node.ApartFromPacker Node.crown := ⟨fun _ _ _ => rfl, fun _ _ _ _ => rfl, fun _ _ => rfl⟩
theorem Node.apartFromPacker_time : Node.ApartFromPacker Node.time := ⟨fun _ _ _ => rfl, fun _ _ _ _ => rfl, fun _ _ => rfl⟩
theorem Node.apartFromPacker_out : Node.ApartFromPacker Node.out := ⟨fun _ _ _ => rfl, fun _ _ _ _ => rfl, fun _ _ => rfl⟩
theorem Node.apartFromPacker_lanes : Node.ApartFromPacker Node.lanes := ⟨fun _ _ _ => rfl, fun _ _ _ _ => rfl, fun _ _ => rfl⟩

theorem Node.word_inc_ne (n : Node) {f : Fld} {off : Nat} (v : Nat) (h : off ≠ f.off) : (n.inc f v).word off = n.word off := n.word_s_ne f _ h

/-- Every register but the packer's counts. -/
theorem Node.apartFromPacker_word {off : Nat} (h : ¬ packCount off) : Node.ApartFromPacker (·.word off) where
  setQ _ _ _ := rfl
  inc n _ v hf := n.word_inc_ne v (fun e => h (e ▸ hf))
  ring _ _ := rfl

/-- Every field of such a register. -/
theorem Node.apartFromPacker_g {f : Fld} (h : ¬ packCount f.off) : Node.ApartFromPacker (·.g f) where
  setQ _ _ _ := rfl
  inc n e _ he := n.g_s_off e f _ (fun x => h (x ▸ he))
  ring _ _ := rfl

theorem Node.apartFromPacker_flag {f : Fld} (h : ¬ packCount f.off) : Node.ApartFromPacker (·.flag f) where
  setQ _ _ _ := rfl
  inc n _ v he := congrArg (· != 0) ((Node.apartFromPacker_g h).inc n _ v he)
  ring _ _ := rfl

end Sys2Proof.Machine
end

section
/-! ## Registers of a leaf: audit settings, node words, armed jobs, indirect access, Twigs -/

namespace Sys2Proof.Machine

/-! ### Registers of a leaf -/

theorem Leaf.s_toNode (l : Leaf) (f : Fld) (v : Nat) : (l.s f v).toNode = l.toNode.s f v := (rfl)
theorem Leaf.s_boot (l : Leaf) (f : Fld) (v : Nat) : (l.s f v).boot = l.boot := (rfl)
theorem Leaf.s_twigs (l : Leaf) (f : Fld) (v : Nat) : (l.s f v).twigs = l.twigs := (rfl)

/-- A flag is set where its bit is put. -/
theorem Node.flag_s_self (n : Node) {f : Fld} {v : Nat} (h : f.hi < 32) (hl : f.lo ≤ f.hi) : (n.s f v).flag f = (v % 2 ^ (f.hi + 1 - f.lo) != 0) := by
  rw [Node.flag, Node.g_s_self n f v h hl]

/-- Two fields that share no bit: of two registers, or of disjoint ranges. -/
def Fld.apart (f e : Fld) : Bool := e.off != f.off || (decide (f.hi < 32) && decide (f.lo ≤ f.hi) && decide (e.lo ≤ e.hi) && (decide (e.hi < f.lo) || decide (f.hi < e.lo)))

/-- A field that shares no bit with the one put reads as before. -/
theorem Node.g_s_apart (n : Node) {f e : Fld} (v : Nat) (h : f.apart e = true) : (n.s f v).g e = n.g e := by
  by_cases hoff : e.off = f.off
  · simp only [Fld.apart, hoff, bne_self_eq_false, Bool.false_or, Bool.and_eq_true, Bool.or_eq_true, decide_eq_true_eq] at h
    obtain ⟨⟨⟨hhi, hf⟩, he⟩, hd⟩ := h
    exact n.g_s_field f e v hoff hhi hf he hd
  · exact n.g_s_off f e v hoff

theorem Node.flag_s_apart (n : Node) {f e : Fld} (v : Nat) (h : f.apart e = true) : (n.s f v).flag e = n.flag e := by
  rw [Node.flag, Node.g_s_apart n v h, Node.flag]

/-- A register that is not one of the packer's counts. -/
theorem not_packCount {off : Nat} (h : (off < 0x2040 ∨ 0x2240 ≤ off) ∧ off ≠ 0x2828) : ¬ packCount off := by
  rintro (⟨hlo, hhi⟩ | e)
  · omega
  · exact h.2 e

/-! ### Audit settings (R324, R327) -/

theorem Leaf.tapLog_toNode (l : Leaf) (event engine reason seq count : Nat) : (l.tapLog event engine reason seq count).toNode =
    l.toNode.log 0x09 (byte event ++ byte engine ++ byte reason ++ zeros 1 ++ le 4 seq ++ le 4 (min count (2 ^ 32 - 1))) := rfl

theorem Leaf.tapLog_tap (l : Leaf) (event engine reason seq count : Nat) : (l.tapLog event engine reason seq count).tap = l.tap := rfl

/-- A log entry of the tap leaves the tap's registers alone. -/
theorem Leaf.tapLog_g (l : Leaf) (event engine reason seq count : Nat) {f : Fld} (h : ¬ packCount f.off) :
    (l.tapLog event engine reason seq count).toNode.g f = l.toNode.g f :=
  (Node.apartFromPacker_g h).log ..

theorem Leaf.tapLog_flag (l : Leaf) (event engine reason seq count : Nat) {f : Fld} (h : ¬ packCount f.off) :
    (l.tapLog event engine reason seq count).toNode.flag f = l.toNode.flag f :=
  (Node.apartFromPacker_flag h).log ..

/-- Settles O42. -/
theorem auditLock : Obligations.AuditLock := by
  have hlock : runsOnLeaf .lock .die Leaf.aonDead Leaf.audLock := runsOnLeaf_of_unless (runsOnLeaf_of_byLeaf fun _ => rfl)
  have hcfg (thresh seed : Nat) : runsOnLeaf (.config thresh seed) .die Leaf.aonDead (·.audConfig thresh seed) :=
    runsOnLeaf_of_unless (runsOnLeaf_of_byLeaf fun _ => rfl)
  have hreg : ¬ packCount TZ_AUD_CTRL_LOCK.off := not_packCount (by decide)
  refine ⟨fun s halive hset => hlock.next_self halive ?_, fun s halive => ⟨_, hlock s halive, ?_, rfl, ?_⟩,
    fun s thresh seed halive => ⟨_, hcfg thresh seed s halive, ?_, ?_, ?_, rfl, ?_⟩⟩
  · exact if_pos hset
  · change s.leaf.audLock.toNode.flag TZ_AUD_CTRL_LOCK = true
    unfold Leaf.audLock
    split
    · assumption
    · rw [Leaf.tapLog_flag _ _ _ _ _ _ hreg, Leaf.s_toNode, Node.flag_s_self _ (by decide) (by decide)]
      decide
  · exact Leaf.audLock_heart _
  · change (s.leaf.audConfig thresh seed).toNode.g TZ_AUD_THRESH_THRESH = _
    rw [Leaf.audConfig, Leaf.tapLog_g _ _ _ _ _ _ (not_packCount (by decide)), Leaf.onTap_toNode, Leaf.s_toNode, Leaf.s_toNode,
      Node.g_s_apart _ _ (by decide), Node.g_s_self _ _ _ (by decide) (by decide)]
    rfl
  · change (s.leaf.audConfig thresh seed).tap.seed = _
    rw [Leaf.audConfig, Leaf.tapLog_tap, Leaf.onTap_tap]
  · change (s.leaf.audConfig thresh seed).toNode.flag TZ_AUD_CTRL_LOCK = _
    rw [Leaf.audConfig, Leaf.tapLog_flag _ _ _ _ _ _ hreg, Leaf.onTap_toNode, Leaf.s_toNode, Leaf.s_toNode,
      Node.flag_s_apart _ _ (by decide), Node.flag_s_apart _ _ (by decide)]
  · exact Leaf.audConfig_heart ..

/-! ### Node words (R411) -/

theorem Leaf.bootStatus_boot (l : Leaf) : l.bootStatus.boot = l.boot := by rw [Leaf.bootStatus, Leaf.s_boot, Leaf.s_boot]

theorem Leaf.bootStatus_twigs (l : Leaf) : l.bootStatus.twigs = l.twigs := by rw [Leaf.bootStatus, Leaf.s_twigs, Leaf.s_twigs]

/-- BOOT_STAT is the one register the boot status enters. -/
theorem Leaf.bootStatus_g (l : Leaf) {f : Fld} (h : f.off ≠ TZ_BOOT_STAT_READY.off) : l.bootStatus.toNode.g f = l.toNode.g f := by
  have hconf (v : Nat) : (l.toNode.s TZ_BOOT_STAT_CONFIGURED v).g f = l.toNode.g f := Node.g_s_off _ _ _ _ h
  unfold Leaf.bootStatus
  rw [Leaf.s_toNode, Node.g_s_off _ _ _ _ h, Leaf.s_toNode, hconf]

/-- The leaf with its node word set, or withdrawn. -/
def Leaf.withNode (l : Leaf) (node : Nat) : Leaf := if node = nodeNone then l.s TZ_NODE_VALID 0 else (l.s TZ_NODE_VALID 1).s TZ_NODE_ADDR (node % 2 ^ 18)

theorem Leaf.withNode_twigs (l : Leaf) (node : Nat) : (l.withNode node).twigs = l.twigs := by
  unfold Leaf.withNode
  split
  · rw [Leaf.s_twigs]
  · rw [Leaf.s_twigs, Leaf.s_twigs]

theorem Leaf.assign_eq (l : Leaf) (node gen : Nat) : l.assign node gen = ((l.withNode node).onBoot (fun b => { b with seedGen := gen })).bootStatus.on
    (·.bulkUp (byte 0x11 ++ zeros 3 ++ le 4 gen)) := by
  have hgen : ((l.withNode node).onBoot (fun b => { b with seedGen := gen })).bootStatus.boot.seedGen = gen := by rw [Leaf.bootStatus_boot, Leaf.onBoot_boot]
  simp only [Leaf.assign, ← Leaf.withNode.eq_1, hgen]

/-- TZ_NODE after ASSIGN is as it was put. -/
theorem Leaf.assign_g (l : Leaf) (node gen : Nat) {f : Fld} (h : f.off = TZ_NODE_VALID.off) : (l.assign node gen).toNode.g f = (l.withNode node).toNode.g f := by
  rw [Leaf.assign_eq]
  exact ((Node.apartFromPacker_g (not_packCount (by rw [h]; decide))).bulkUp _ _).trans (Leaf.bootStatus_g _ (by rw [h]; decide))

/-- Settles O50. -/
theorem assignSetsNode : Obligations.AssignSetsNode := by
  intro s w node gen halive
  have hrun : runsOnLeaf (.assign w.block node gen) w Leaf.sapHeld (·.assign node gen) := runsOnLeaf_of_byBlockUnlessSap fun _ => rfl
  refine ⟨_, hrun s halive, ?_⟩
  rw [State.leafOf_onLeaf]
  refine ⟨?_, ?_, Leaf.assign_heart .., ?_⟩
  · rw [Leaf.assign_eq, Leaf.on_boot, Leaf.bootStatus_boot, Leaf.onBoot_boot]
  · simp only [Node.flag, Leaf.assign_g (f := TZ_NODE_VALID) _ _ _ rfl, Leaf.assign_g (f := TZ_NODE_ADDR) _ _ _ rfl]
    unfold Leaf.withNode
    split
    · rw [Leaf.s_toNode, Node.g_s_self _ _ _ (by decide) (by decide)]
      rfl
    · refine ⟨?_, ?_⟩
      · rw [Leaf.s_toNode, Node.g_s_apart _ _ (by decide), Leaf.s_toNode,
          Node.g_s_self _ _ _ (by decide) (by decide)]
        rfl
      · rw [Leaf.s_toNode, Node.g_s_self _ _ _ (by decide) (by decide)]
        exact Nat.mod_mod _ _
  · rw [Leaf.assign_eq, Leaf.on_twigs, Leaf.bootStatus_twigs, Leaf.onBoot_twigs, Leaf.withNode_twigs]

/-! ### Armed jobs (R422, R423) -/

theorem Leaf.jobAnswer_boot (l : Leaf) (st job tray : Nat) : (l.jobAnswer st job tray).boot = l.boot := rfl

/-- Settles O51. -/
theorem jobArmed : Obligations.JobArmed := by
  intro s w body halive
  have hrun : runsOnLeaf (.jobArm w.block body) w Leaf.sapHeld (·.takeArm body) := runsOnLeaf_of_byBlockUnlessSap fun _ => rfl
  refine ⟨_, hrun s halive, ?_⟩
  rw [State.leafOf_onLeaf]
  generalize s.leafOf w = l
  unfold Leaf.takeArm Leaf.jobArm
  extract_lets n
  split
  next hlate => exact ⟨rfl, by rw [if_neg (fun h => absurd h.1 (by simpa [n] using hlate))]; rfl⟩
  next hahead =>
    split
    next hstep => exact ⟨rfl, by rw [if_neg (fun h => by simp [n, h.2.1] at hstep)]; rfl⟩
    next hstep =>
      split
      next hfull => exact ⟨rfl, by rw [if_neg (fun h => absurd h.2.2 (by omega))]; rfl⟩
      next hroom => exact ⟨rfl, by rw [if_pos ⟨by simpa [n] using hahead, by simpa [n] using hstep, by omega⟩]; rfl⟩

theorem Leaf.jobReport_boot (l : Leaf) (a : Armed) (started : Bool) : (l.jobReport a started).boot = l.boot := rfl

theorem Leaf.jobReport_flag (l : Leaf) (a : Armed) (started : Bool) {f : Fld} (h : ¬ packCount f.off) : (l.jobReport a started).toNode.flag f = l.toNode.flag f :=
  (Node.apartFromPacker_flag h).bulkUp _ _

/-- One armed job that is due: the leaf forgets the ARM and starts the job, or drops it. -/
theorem Leaf.jobTime_single {l : Leaf} {a : Armed} (harmed : l.boot.armed = [a]) (hdue : a.tgo ≤ l.toNode.now) :
    l.jobTime = (l.onBoot (fun b => { b with armed := [] })).jobStart a := by
  have hkept : l.onBoot (fun b => { b with armed := b.armed.filter (fun a => a.tgo > l.toNode.now) }) = l.onBoot (fun b => { b with armed := [] }) := by
    simp [Leaf.onBoot, harmed, hdue]
  simp only [Leaf.jobTime, harmed, hkept]
  simp [hdue, sortBy, insertBy]

/-- Settles O52. -/
theorem jobStarts : Obligations.JobStarts := by
  intro s w a halive harmed hdue
  have hrun : runsOnLeaf (.jobTGo w) w Leaf.timeDead Leaf.jobTime := runsOnLeaf_of_byLeafTime fun _ => rfl
  have hstat : ¬ packCount TZ_JOB_STAT_PEND.off := not_packCount (by decide)
  refine ⟨_, hrun s halive, ?_⟩
  rw [State.leafOf_onLeaf]
  generalize s.leafOf w = l at *
  rw [Leaf.jobTime_single harmed hdue]
  cases hgo : a.go with
  | false =>
    rw [Leaf.jobStart, hgo, if_pos (by decide), Leaf.jobReport_boot, Leaf.onBoot_boot]
    exact ⟨rfl, fun _ => rfl, fun h => absurd h (by decide)⟩
  | true =>
    unfold Leaf.jobStart
    rw [hgo, if_neg (by decide)]
    extract_lets full now l1
    have hpend : ((l1.s TZ_JOB_STAT_PEND 1).jobReport a true).toNode.flag TZ_JOB_STAT_PEND = true := by
      rw [Leaf.jobReport_flag _ _ _ hstat, Leaf.s_toNode, Node.flag_s_self _ (by decide) (by decide)]
      rfl
    have hfull : full ↔ 4 ≤ l.boot.fifo.length := by
      simp only [full, Leaf.onBoot_boot, ge_iff_le]
    refine ⟨?_, fun h => absurd h (by decide), fun _ => ⟨hpend, ?_⟩⟩
    · rw [Leaf.jobReport_boot, Leaf.s_boot]
      simp only [l1]
      split <;> rfl
    · split
      next hroom =>
        rw [Leaf.jobReport_boot, Leaf.s_boot]
        simp only [l1, if_neg (mt hfull.1 (Nat.not_le.2 hroom)), now, Leaf.onBoot_boot, Leaf.onBoot_toNode]
      next hover =>
        have hl1 : l1 = (l.onBoot (fun b => { b with armed := [] })).s TZ_JOB_STAT_OVR 1 := by
          simp only [l1, if_pos (hfull.2 (Nat.not_lt.1 hover))]
        have hover' : ¬ packCount TZ_JOB_STAT_OVR.off := hstat
        refine ⟨by rw [Leaf.jobReport_boot, Leaf.s_boot, hl1]; rfl, ?_⟩
        rw [Leaf.jobReport_flag _ _ _ hover', Leaf.s_toNode, Node.flag_s_apart _ _ (by decide), hl1, Leaf.s_toNode,
          Node.flag_s_self _ (by decide) (by decide)]
        rfl

/-! ### Indirect access (R91) -/

/-- An access that names no Twig of the chain or no defined word ends at once, with ERR. -/
theorem Leaf.cfgGo_absent {l : Leaf} (wr : Bool) {twig word : Nat} (hidle : l.toNode.flag TZ_TWIG_CFG_ADDR_GO = false)
    (habsent : twig % 256 ≥ l.ntwig ∨ twigDefined (word % 64) = false) : l.cfgGo wr twig word =
      ((((((l.s TZ_TWIG_CFG_ADDR_WR (b2n wr)).s TZ_TWIG_CFG_ADDR_TWIG twig).s TZ_TWIG_CFG_ADDR_WORD word).s TZ_TWIG_CFG_ADDR_GO 0).s
        TZ_TWIG_CFG_STAT_DONE 1).s TZ_TWIG_CFG_STAT_ERR 1).onReader (fun r => { r with access := none }) := by
  unfold Leaf.cfgGo
  rw [hidle, if_neg (by decide)]
  extract_lets l1 tw wd
  have hntwig : l1.ntwig = l.ntwig := by
    simp (disch := decide) only [l1, Leaf.ntwig, Leaf.s_toNode, Node.g_s_apart]
  rw [if_pos (by simpa [hntwig, tw, wd] using habsent), Leaf.endAccess, if_pos rfl]

/-- Settles O25. -/
theorem absentTwigAccess : Obligations.AbsentTwigAccess := by
  intro s w write t word halive hidle habsent
  have hrun : runsOnLeaf (.twigCfgGo w write t word) w Leaf.sapHeld (·.cfgGo write t word) := runsOnLeaf_of_byLeafSap fun _ => rfl
  refine ⟨_, hrun s halive, ?_⟩
  rw [State.leafOf_onLeaf, Leaf.cfgGo_absent write hidle habsent]
  generalize s.leafOf w = l
  rw [Leaf.onReader_toNode, Leaf.onReader_twigs]
  simp (disch := decide) only [Leaf.s_toNode, Leaf.s_twigs, Node.flag_s_apart, Node.g_s_apart, Node.flag_s_self]
  decide

/-! ### Twigs (R482) -/

/-- Restarting the first `n` counters. -/
theorem Twig.counter_restarts (t : Twig) (n c : Nat) : ((List.range n).foldl Twig.restart t).counter c =
    if c < n then { t.counter c with value := 0, epoch := ((t.counter c).epoch + 1) % 16 } else t.counter c := by
  induction n with
  | zero => rfl
  | succ n ih =>
    have hset (x : Twig) : (x.restart n).counter c = if c = n then { x.counter n with value := 0, epoch := ((x.counter n).epoch + 1) % 16 } else x.counter c :=
      Tab.get_set _ _ _ _ _
    rw [List.range_succ, List.foldl_append]
    simp only [List.foldl_cons, List.foldl_nil]
    rw [hset]
    by_cases hc : c = n
    · subst hc
      rw [if_pos rfl, ih, if_neg (lt_irrefl c), if_pos (Nat.lt_succ_self c)]
    · rw [if_neg hc, ih]
      simp only [Nat.lt_succ_iff_lt_or_eq, hc, or_false]

/-- What a restart of counters leaves alone. -/
theorem Twig.keeps_restarts {α : Type} (p : Twig → α) (h : ∀ t c k, p (Twig.setCounter t c k) = p t) (t : Twig) (n : Nat) :
    p ((List.range n).foldl Twig.restart t) = p t :=
  foldl_keeps p Twig.restart (fun t c => h t c _) _ t

/-- Settles O18. -/
theorem twigReleased : Obligations.TwigReleased := by
  intro s w t
  have hrun : runsOnLeaf (.twigResetRelease w t) w free (·.twigRelease t) := runsOnLeaf_of_byLeaf fun _ => rfl
  refine ⟨((s.leafOf w).twig t).release, hrun.next_of_eq rfl rfl, ?_⟩
  unfold Twig.release
  refine ⟨Twig.keeps_restarts _ (fun _ _ _ => rfl) .., Twig.keeps_restarts _ (fun _ _ _ => rfl) .., Twig.keeps_restarts _ (fun _ _ _ => rfl) ..,
    Twig.keeps_restarts _ (fun _ _ _ => rfl) .., Twig.keeps_restarts _ (fun _ _ _ => rfl) .., fun c hc => ?_⟩
  rw [Twig.counter_restarts, if_pos hc]
  exact ⟨rfl, rfl⟩

end Sys2Proof.Machine
end

section
/-! ## V/f targets, trace cores and capture -/

namespace Sys2Proof.Machine

/-! ### V/f targets (R110) -/

theorem Leaf.vfDom_setVf (l : Leaf) (d e : Nat) (x : VfDom) : (l.setVf d x).vfDom e = if e = d then x else l.vfDom e := Tab.get_set _ _ _ _ _

theorem Leaf.vfDom_s (l : Leaf) (f : Fld) (v e : Nat) : (l.s f v).vfDom e = l.vfDom e := (rfl)

theorem Leaf.vfDom_vfTag (l : Leaf) (tag e : Nat) : (l.onGuards (fun g => { g with vfTag := tag })).vfDom e = l.vfDom e := (rfl)

/-- A domain rewritten with the same crown target leaves every crown target. -/
theorem Leaf.vfDom_setVf_crown {l : Leaf} {d : Nat} {x : VfDom} (h : x.crown = (l.vfDom d).crown) (e : Nat) :
    ((l.setVf d x).vfDom e).crown = (l.vfDom e).crown := by
  rw [Leaf.vfDom_setVf]
  split
  next he => rw [h, he]
  next => rfl

theorem Leaf.vfPresent_crown (l : Leaf) (d e : Nat) : ((l.vfPresent d).vfDom e).crown = (l.vfDom e).crown := by
  unfold Leaf.vfPresent
  split
  extract_lets kind tag word x l1 l2
  have h1 : (l1.vfDom e).crown = (l.vfDom e).crown := Leaf.vfDom_setVf_crown (x := { x with out := some ⟨_, tag, word, none⟩ }) rfl e
  have h2 : l2.vfDom e = l1.vfDom e := by rw [Leaf.vfDom_s, Leaf.vfDom_s]
  rw [Leaf.vfDom_vfTag, h2, h1]

theorem Leaf.vfUpdate_crown (l : Leaf) (e : Nat) : (l.vfUpdate.vfDom e).crown = (l.vfDom e).crown := by
  unfold Leaf.vfUpdate
  extract_lets l1
  have h1 : (l1.vfDom e).crown = (l.vfDom e).crown := by
    refine foldl_keeps (fun l : Leaf => (l.vfDom e).crown) _ (fun l d => ?_) _ _
    dsimp only
    rw [Leaf.vfDom_s]
    refine Leaf.vfDom_setVf_crown ?_ e
    split <;> split <;> try split
    all_goals rfl
  split
  · exact h1
  · split
    · exact (l1.vfPresent_crown _ e).trans h1
    · exact h1

/-- Settles O29. -/
theorem marginSetsTarget : Obligations.MarginSetsTarget := by
  intro s w d steps halive hd
  have hrun : runsOnLeaf (.margin w d steps) w Leaf.aonDead (·.vfMargin d steps) := runsOnLeaf_of_unless (runsOnLeaf_of_byLeaf fun _ => rfl)
  refine ⟨_, hrun s halive, ?_⟩
  rw [State.leafOf_onLeaf]
  simp only [Leaf.vfMargin, Leaf.vfUpdate_crown, Leaf.vfDom_setVf, Nat.mod_eq_of_lt hd]
  exact ⟨rfl, fun e _ hne => by rw [if_neg hne]⟩

/-! ### Trace cores (R130) -/

theorem Leaf.core_setCore (l : Leaf) (c k : Nat) (x : TrcCore) : (l.setCore c x).core k = if k = c then x else l.core k := Tab.get_set _ _ _ _ _

theorem Leaf.core_s (l : Leaf) (f : Fld) (v c : Nat) : (l.s f v).core c = l.core c := (rfl)

theorem Leaf.core_inc (l : Leaf) (f : Fld) (v c : Nat) : (l.inc f v).core c = l.core c := (rfl)

theorem Leaf.core_count (l : Leaf) (f : Fld) (c : Nat) : (l.count f).core c = l.core c := (rfl)

theorem Leaf.core_trcStatus (l : Leaf) (c k : Nat) : (l.trcStatus c).core k = l.core k := by
  simp only [Leaf.trcStatus, Leaf.core_s]

/-- A packet of one core leaves the others. -/
theorem Leaf.core_trcEmit (l : Leaf) {c k : Nat} (bytes : List Byte) (sync : Option Stamp) (h : k ≠ c) : (l.trcEmit c bytes sync).core k = l.core k := by
  unfold Leaf.trcEmit
  extract_lets x len fifo l1
  have h1 : l1.core k = l.core k := (Leaf.core_setCore ..).trans (if_neg h)
  generalize (if sync.isSome then 0 else 64) = spare
  split
  · rw [Leaf.core_inc, Leaf.core_count, h1]
  · exact (Leaf.core_setCore ..).trans (if_neg h)

/-- Settles O30. -/
theorem traceLowPower : Obligations.TraceLowPower := by
  have henter (core : Nat) : runsOnLeaf (.lpEnter core) .die (·.trcDead core) (·.trcLpEnter core) := runsOnLeaf_of_unless (runsOnLeaf_of_byLeaf fun _ => rfl)
  have hexit (core : Nat) : runsOnLeaf (.traceLpExit core) .die (·.trcDead core) (·.trcLpExit core) := runsOnLeaf_of_unless (runsOnLeaf_of_byLeaf fun _ => rfl)
  refine ⟨fun s core halive => ⟨_, henter core s halive, ?_⟩, fun s core halive hlp => ⟨_, hexit core s halive, ?_⟩⟩
  · rw [State.onLeaf_die_leaf]
    refine ⟨?_, fun c hc => ?_, Leaf.trcLpEnter_heart .., rfl⟩
    all_goals
      unfold Leaf.trcLpEnter
      extract_lets x l1
      split
    · assumption
    · rw [Leaf.core_trcStatus, Leaf.core_setCore, if_pos rfl]
    · rfl
    · rw [Leaf.core_trcStatus, Leaf.core_setCore, if_neg hc]
      simp only [l1]
      split
      · exact Leaf.core_trcEmit _ _ _ hc
      · rfl
  · have hleaf : s.leaf.trcLpExit core = (s.leaf.setCore core { s.leaf.core core with lp := false, pend := some 3, nseq := 0, cyc := 0 }).trcStatus core := by
      rw [Leaf.trcLpExit, if_neg (by simp [hlp])]
    rw [State.onLeaf_die_leaf]
    have hcore (k : Nat) : (s.leaf.trcLpExit core).core k =
        if k = core then { s.leaf.core core with lp := false, pend := some 3, nseq := 0, cyc := 0 } else s.leaf.core k := by
      rw [hleaf, Leaf.core_trcStatus, Leaf.core_setCore]
    simp only [hcore, if_true, true_and]
    exact ⟨fun c hc => if_neg hc, Leaf.trcLpExit_heart .., rfl⟩

/-! ### Capture (R53) -/

/-- A FIFO with room takes an edge at its end. -/
theorem Node.capFifo_capStore_of_lt {n : Node} {i : Nat} (h : (n.capFifo i).length < 16) : ∃ e, (n.capStore i).capFifo i = n.capFifo i ++ [e] := by
  unfold Node.capStore
  extract_lets q
  rw [if_neg (Nat.not_le.2 h)]
  exact ⟨_, Tab.get_set_self _ _ _ _⟩

/-- A full FIFO drops it and sets OVF. -/
theorem Node.capStore_of_full {n : Node} {i : Nat} (h : 16 ≤ (n.capFifo i).length) (hi : i < 8) :
    (n.capStore i).capFifo i = n.capFifo i ∧ bitOf ((n.capStore i).g (TIME_CAP_STAT_OVF (n.capStore i).tb)) i = true := by
  unfold Node.capStore
  extract_lets q t n1 n2
  rw [if_pos h]
  refine ⟨rfl, ?_⟩
  generalize n2 = n
  have htb (v : Nat) : (n.s (TIME_CAP_STAT_OVF n.tb) v).tb = n.tb := rfl
  rw [htb, Node.g_s_self _ _ _ (show 15 < 32 by decide) (show 8 ≤ 15 by decide)]
  have hbit : (n.g (TIME_CAP_STAT_OVF n.tb) ||| 2 ^ i).testBit i = true := by simp
  exact (Nat.testBit_mod_two_pow ..).trans (by rw [hbit, Bool.and_true]; exact decide_eq_true hi)

/-- Settles O22. -/
theorem captureFifo : Obligations.CaptureFifo := by
  have hpop (w : LeafSel) (i : Nat) : runsOnLeaf (.capturePop w.block i) w free (·.on (·.capPop i)) := runsOnLeaf_of_byBlock fun _ => rfl
  have hedge (w : LeafSel) (i : Nat) (lv : Bool) : runsOnLeaf (.captureEdge w.block i lv) w Leaf.timeDead (·.on (·.capSample i lv)) :=
    runsOnLeaf_of_unless (runsOnLeaf_of_byBlock fun _ => rfl)
  refine ⟨fun s w i => ⟨_, hpop w i s rfl, ?_⟩, fun s w i lv hi halive hen hlevel hfall => ⟨_, hedge w i lv s halive, ?_⟩⟩
  · rw [State.leafOf_onLeaf, Leaf.on_toNode]
    exact ⟨Tab.get_set_self _ _ _ _, fun j hj => Tab.get_set_ne _ _ _ hj, rfl⟩
  · rw [State.leafOf_onLeaf, Leaf.on_toNode]
    generalize hn : (s.leafOf w).toNode = n at *
    have hsample : n.capSample i lv = Node.capStore { n with time := { n.time with level := n.time.level.set (fun _ => none) i (some lv) } } i := by
      unfold Node.capSample
      rw [hen, if_neg (by decide)]
      extract_lets old t m fall
      have hold : old = some (!lv) := hlevel
      have hf : fall = !lv := hfall
      rw [hold, hf]
      exact if_pos ⟨by cases lv <;> decide, (Bool.not_not lv).symm⟩
    rw [hsample]
    split
    · next hroom => exact Node.capFifo_capStore_of_lt hroom
    · next hfull => exact Node.capStore_of_full (Nat.not_lt.1 hfull) hi

end Sys2Proof.Machine
end

section
/-! ## The time set by software, and the watchdog -/

namespace Sys2Proof.Machine

/-! ### The time word set by software (R51) -/

theorem Node.s_timeWord (n : Node) (f : Fld) (v : Nat) : (n.s f v).time.word = n.time.word := (rfl)
theorem Node.setTrain_timeWord (n : Node) (i : Nat) (t : Train) : (n.setTrain i t).time.word = n.time.word := (rfl)
theorem Node.emit_timeWord (n : Node) (o : Out) : (n.emit o).time.word = n.time.word := (rfl)
theorem Node.release_timeWord (n : Node) (d : Int) : (n.release d).time.word = n.time.word := (rfl)

/-- The time word is apart from the packer. -/
theorem Node.apartFromPacker_timeWord : Node.ApartFromPacker (fun n => n.time.word) := ⟨fun _ _ _ => rfl, fun _ _ _ _ => rfl, fun _ _ => rfl⟩

theorem Node.report_timeWord (n : Node) {cls : Nat} (h : cls < 8) : (n.report cls).time.word = n.time.word :=
  Node.apartFromPacker_timeWord.report (fun _ _ => rfl) n h

theorem Node.reportChange_timeWord (n : Node) : n.reportChange.time.word = n.time.word := by
  unfold Node.reportChange
  split
  · rfl
  · exact Node.report_timeWord _ (by decide)

theorem Node.refault_timeWord (n : Node) : n.refault.time.word = n.time.word := by
  unfold Node.refault
  extract_lets f n1
  split
  · rfl
  · have h1 : n1.time.word = n.time.word := Node.s_timeWord ..
    split
    · exact h1
    · exact (n1.report_timeWord (by decide)).trans h1

theorem Node.setBound_timeWord (n : Node) (v : Nat) : (n.setBound v).time.word = n.time.word := by rw [Node.setBound, Node.refault_timeWord, Node.s_timeWord]

theorem Node.setTState_timeWord (n : Node) (v : Nat) : (n.setTState v).time.word = n.time.word := Node.s_timeWord ..

theorem Node.ptErr_timeWord (n : Node) (i : Nat) : (n.ptErr i).time.word = n.time.word := by
  rw [Node.ptErr, Node.setTrain_timeWord, Node.s_timeWord, Node.s_timeWord]

theorem Node.ptTakeover_timeWord (n : Node) (i : Nat) : (n.ptTakeover i).time.word = n.time.word := by
  unfold Node.ptTakeover
  extract_lets t
  split
  · rfl
  · split
    · rfl
    · split
      · exact n.ptErr_timeWord i
      · rw [Node.setTrain_timeWord, Node.s_timeWord, Node.s_timeWord]

theorem Node.ptDrive_timeWord (n : Node) (i : Nat) (high : Bool) : (n.ptDrive i high).time.word = n.time.word := by
  unfold Node.ptDrive
  extract_lets t
  split
  · rfl
  · rw [Node.emit_timeWord, Node.setTrain_timeWord]

theorem Node.ptStep_timeWord (n : Node) (i : Nat) : (n.ptStep i).time.word = n.time.word := by
  unfold Node.ptStep
  extract_lets t n1 n2 t2
  have h1 : n1.time.word = n.time.word := by
    simp only [n1]
    split
    · rfl
    · split
      · split
        · exact n.ptErr_timeWord i
        · exact Node.setTrain_timeWord ..
      · rfl
  have h2 : n2.time.word = n.time.word := (n1.ptTakeover_timeWord i).trans h1
  split
  · rw [Node.ptDrive_timeWord, Node.setTrain_timeWord, h2]
  · exact h2

/-- A step moves the time word by whole units of the time. -/
theorem Node.stepBy_timeWord (n : Node) (d : Int) : (n.stepBy d).time.word = ((n.time.word : Int) + d * 2 ^ 16).toNat := by
  unfold Node.stepBy
  extract_lets b w f ns t n1 n2 n3 sec n4 n5 n6
  have h6 : n6.time.word = w.toNat := by
    simp only [n6, n5, n4, n3, n2, Node.release_timeWord, Node.s_timeWord]
    rfl
  have hfold : ((List.range 4).foldl Node.ptStep n6).time.word = n6.time.word := foldl_keeps (fun n : Node => n.time.word) _ Node.ptStep_timeWord _ _
  split
  · exact h6
  · rw [hfold, h6]

/-- The time that the SET registers spell. -/
def Node.setTime (n : Node) : Nat :=
  ((n.g (BZ_TIME_SETw_WORD 3) * 2 ^ 32 + n.g (BZ_TIME_SETw_WORD 2)) * nsPerSec + n.g (BZ_TIME_SETw_WORD 1)) * fracPerNs + n.g (BZ_TIME_SETw_WORD 0)

/-- A node whose time is its own: no bound holds, and the time counts as valid from now. -/
def Node.boundless (n : Node) : Node := { n with time := { n.time with boundE := 0xFFFFFFFF, lastValid := some n.ns } }

theorem Node.boundless_timeWord (n : Node) : n.boundless.time.word = n.time.word := rfl

/-- TIME_SET_GO before the step. -/
theorem Node.timeSet_of_not_stepped {n : Node} (h : n.stepped = false) :
    n.timeSet = (((n.stepBy ((n.setTime : Int) - n.now)).setTState 2).setBound 0xFFFFFFFF).boundless.reportChange := by
  rw [Node.timeSet, h, if_neg (by decide), Node.setTime]
  rfl

/-- TIME_SET_GO before the step makes the SET registers the time. -/
theorem Node.timeSet_now {n : Node} (h : n.stepped = false) : n.timeSet.now = n.setTime := by
  have hword : n.timeSet.time.word = ((n.time.word : Int) + ((n.setTime : Int) - n.now) * 2 ^ 16).toNat := by
    rw [Node.timeSet_of_not_stepped h, Node.reportChange_timeWord, Node.boundless_timeWord, Node.setBound_timeWord, Node.setTState_timeWord,
      Node.stepBy_timeWord]
  rw [Node.now, hword, Node.now]
  generalize n.setTime = w
  omega

theorem Node.timeSet_stepped {n : Node} (h : n.stepped = true) : n.timeSet = n := by rw [Node.timeSet, if_pos h]

theorem Crown.ingestWaiting_nil {c : Crown} (h : c.red.waiting = []) : c.ingestWaiting = c := by
  rw [Crown.ingestWaiting, if_pos (.inr (by rw [h]; rfl))]

/-- Settles O23. -/
theorem soloTimeSet : Obligations.SoloTimeSet := by
  intro s halive hnone
  have hrun : runsOnCrown .timeSetGo Crown.timeDead Crown.timeSetGo := runsOnCrown_of_unless (runsOnCrown_of_byCrown fun _ => rfl)
  refine ⟨fun hoff => ?_, fun hrole hstep => ⟨_, hrun s halive, ?_⟩⟩
  · have hsame : s.crown.timeSetGo = s.crown := by
      unfold Crown.timeSetGo
      split
      next hrole =>
        have hon : s.crown.on Node.timeSet = s.crown := by
          rw [Crown.on, Node.timeSet_stepped (hoff.resolve_left (not_not.2 hrole))]
        rw [hon, Crown.ingestWaiting_nil hnone]
      next => rfl
    rw [hrun s halive, hsame]
  · change s.crown.timeSetGo.toNode.now = _
    rw [Crown.timeSetGo, if_pos hrole, Crown.ingestWaiting_nil (c := s.crown.on Node.timeSet) hnone, Crown.on_toNode, Node.timeSet_now hstep]
    rfl

/-! ### The watchdog (R490) -/

/-- A write of BZ_WDOG_KICK by a master that is no host and no view reaches the watchdog. -/
theorem Crown.busWrite_wdogKick {c : Crown} (v : Nat) {mid : Nat} (hlive : c.live 17 = true) (hheld : c.regHeld BZ_WDOG_KICK = false) (hhost : mid ≠ 1)
    (hview : mid < 0x40) : c.busWrite BZ_WDOG_KICK v 3 mid = c.wdogWrite BZ_WDOG_KICK v mid := by
  have hoff : masterOffset BZ_WDOG_KICK mid = some BZ_WDOG_KICK := if_neg (fun h => absurd h.1 (Nat.not_le.2 hview))
  have hreg : c.regWrite BZ_WDOG_KICK v 3 mid = c.wdogWrite BZ_WDOG_KICK v mid := by
    unfold Crown.regWrite
    rw [hoff]
    dsimp only
    rw [hlive, hheld, if_neg (by decide), if_neg (by decide), if_neg (by decide), if_pos (by decide)]
  unfold Crown.busWrite
  extract_lets c' ok loads c1
  have hc' : c' = c := if_neg (fun h => h.2.elim hhost (fun x => absurd x.1 (Nat.not_le.2 hview)))
  have h1 : c1 = c.wdogWrite BZ_WDOG_KICK v mid := by rw [← hreg, ← hc']
  rw [h1]
  split <;> rfl

/-- Settles O55. -/
theorem watchdogKick : Obligations.WatchdogKick := by
  intro s v mid hstray hlive hheld hhost hview
  have hwrite : s.crown.busWrite BZ_WDOG_KICK v 3 mid = if v = 0x4B1C ∧ mid = 0 then s.crown.onHost (fun h => { h with wdogAt := s.crown.ns }) else s.crown := by
    rw [Crown.busWrite_wdogKick v hlive hheld hhost hview]
    unfold Crown.wdogWrite
    split
    next hmaster => rw [if_neg (fun h => hmaster.1 h.2)]
    next => rw [if_pos rfl]
  refine runsOnHbm.next_of_eq (f := (·.busWrite BZ_WDOG_KICK v 3 mid)) (runsOnHbm_of_byHbm fun _ => rfl) hwrite ?_
  split
  · exact hstray
  · exact hstray

end Sys2Proof.Machine
end

section
/-! ## CRC units (R161) -/

namespace Sys2Proof.Machine

/-! ### CRC units (R161) -/

theorem Leaf.crcUnit_s (l : Leaf) (f : Fld) (v u : Nat) : (l.s f v).crcUnit u = l.crcUnit u := (rfl)
theorem Leaf.crcUnit_inc (l : Leaf) (f : Fld) (v u : Nat) : (l.inc f v).crcUnit u = l.crcUnit u := (rfl)
theorem Leaf.inc_twigs (l : Leaf) (f : Fld) (v : Nat) : (l.inc f v).twigs = l.twigs := (rfl)
theorem Leaf.inc_boot (l : Leaf) (f : Fld) (v : Nat) : (l.inc f v).boot = l.boot := (rfl)
theorem Leaf.inc_toNode (l : Leaf) (f : Fld) (v : Nat) : (l.inc f v).toNode = l.toNode.inc f v := (rfl)

/-- The bytes of a DATA write: NBYTES, where 0 or above 4 acts as 4. -/
def Leaf.crcBytes (l : Leaf) (u : Nat) : Nat :=
  let nb := l.toNode.g (TZ_CRCu_CTRL_NBYTES u)
  if nb = 0 ∨ nb > 4 then 4 else nb

/-- What a unit holds, and the rest of the leaf that a unit's run leaves alone. -/
structure Leaf.CrcRun (l l' : Leaf) (u : Nat) (x : CrcUnit) : Prop where
  unit : l'.crcUnit u = x
  others : ∀ k, k ≠ u → l'.crcUnit k = l.crcUnit k
  bytes : l'.crcBytes u = l.crcBytes u
  boot : l'.boot = l.boot
  twigs : l'.twigs = l.twigs
  heart : l'.heart = l.heart

theorem Leaf.CrcRun.trans {a b c : Leaf} {u : Nat} {x y : CrcUnit} (h : a.CrcRun b u x) (k : b.CrcRun c u y) : a.CrcRun c u y where
  unit := k.unit
  others i hi := (k.others i hi).trans (h.others i hi)
  bytes := k.bytes.trans h.bytes
  boot := k.boot.trans h.boot
  twigs := k.twigs.trans h.twigs
  heart := k.heart.trans h.heart

/-- A count of the unit's enters no other register of it. -/
theorem Leaf.crcBytes_s_count (l : Leaf) (u v : Nat) : (l.s (TZ_CRCu_COUNT_COUNT u) v).crcBytes u = l.crcBytes u := by
  have hnb : (l.toNode.s (TZ_CRCu_COUNT_COUNT u) v).g (TZ_CRCu_CTRL_NBYTES u) = l.toNode.g (TZ_CRCu_CTRL_NBYTES u) :=
    Node.g_s_off _ _ _ _ (show 0x3000 + 0x20 * u ≠ _ by simp [TZ_CRCu_COUNT_COUNT])
  rw [Leaf.crcBytes, Leaf.s_toNode, hnb, Leaf.crcBytes]

theorem Leaf.crcStart_run (l : Leaf) (u : Nat) :
    l.CrcRun (l.crcStart u) u ⟨l.toNode.g (TZ_CRCu_CTRL_POLY u), crcInit (l.toNode.g (TZ_CRCu_CTRL_POLY u))⟩ where
  unit := (Leaf.crcUnit_s ..).trans (Tab.get_set_self _ _ _ _)
  others _ hk := (Leaf.crcUnit_s ..).trans (Tab.get_set_ne _ _ _ hk)
  bytes := Leaf.crcBytes_s_count _ _ _
  boot := Leaf.s_boot ..
  twigs := Leaf.s_twigs ..
  heart := Leaf.crcStart_heart ..

theorem Leaf.crcData_run (l : Leaf) (u v : Nat) :
    l.CrcRun (l.crcData u v) u { l.crcUnit u with run := (le (l.crcBytes u) v).foldl (crcFeed (l.crcUnit u).poly) (l.crcUnit u).run } where
  unit := (Leaf.crcUnit_inc ..).trans (Tab.get_set_self _ _ _ _)
  others _ hk := (Leaf.crcUnit_inc ..).trans (Tab.get_set_ne _ _ _ hk)
  bytes := Leaf.crcBytes_s_count _ _ _
  boot := Leaf.inc_boot ..
  twigs := Leaf.inc_twigs ..
  heart := Leaf.crcData_heart ..

/-- Any number of DATA writes. -/
theorem Leaf.crcDatas_run (vs : List Nat) (l : Leaf) (u : Nat) :
    l.CrcRun (vs.foldl (·.crcData u) l) u
      { l.crcUnit u with run := (vs.flatMap (le (l.crcBytes u))).foldl (crcFeed (l.crcUnit u).poly) (l.crcUnit u).run } := by
  induction vs generalizing l with
  | nil => exact ⟨rfl, fun _ _ => rfl, rfl, rfl, rfl, rfl⟩
  | cons v vs ih =>
    have hv := l.crcData_run u v
    have hvs := ih (l.crcData u v)
    rw [hv.unit, hv.bytes] at hvs
    rw [List.flatMap_cons, List.foldl_append]
    exact hv.trans hvs

theorem Leaf.sapHeld_of_boot {l l' : Leaf} (h : l'.boot = l.boot) : l'.sapHeld = l.sapHeld := by rw [Leaf.sapHeld, h, Leaf.sapHeld]

theorem State.onLeaf_onLeaf (s : State) (w : LeafSel) (f g : Leaf → Leaf) : (s.onLeaf w f).onLeaf w g = s.onLeaf w (fun l => g (f l)) := by
  cases w <;> rfl

/-- DATA writes run one after another. -/
theorem runAll_crcData (w : LeafSel) (u : Nat) (vs : List Nat) (s : State) (halive : (s.leafOf w).sapHeld = false) :
    runAll (vs.map (.crcData w u)) s = .next (s.onLeaf w (fun l => vs.foldl (·.crcData u) l)) := by
  induction vs generalizing s with
  | nil => exact congrArg Host.Outcome.next (State.onLeaf_self rfl).symm
  | cons v vs ih =>
    have hrun : exec (.crcData w u v) s = .next (s.onLeaf w (·.crcData u v)) := (runsOnLeaf_of_byLeafSap fun _ => rfl : runsOnLeaf _ w Leaf.sapHeld (·.crcData u v)) s halive
    have hnext : ((s.onLeaf w (·.crcData u v)).leafOf w).sapHeld = false := by
      rw [State.leafOf_onLeaf, Leaf.sapHeld_of_boot ((s.leafOf w).crcData_run u v).boot, halive]
    simp only [List.map_cons, runAll, hrun, List.foldl_cons]
    rw [ih _ hnext, State.onLeaf_onLeaf]

/-- Settles O32. -/
theorem crcOfEveryByte : Obligations.CrcOfEveryByte := by
  intro s w u vs halive
  have hstart : exec (.start w u) s = .next (s.onLeaf w (·.crcStart u)) := (runsOnLeaf_of_byLeafSap fun _ => rfl : runsOnLeaf _ w Leaf.sapHeld (·.crcStart u)) s halive
  have hbegin := (s.leafOf w).crcStart_run u
  have hnext : ((s.onLeaf w (·.crcStart u)).leafOf w).sapHeld = false := by
    rw [State.leafOf_onLeaf, Leaf.sapHeld_of_boot hbegin.boot, halive]
  have hall := hbegin.trans (((s.leafOf w).crcStart u).crcDatas_run vs u)
  rw [hbegin.unit, hbegin.bytes] at hall
  refine ⟨_, (by simp only [runAll, hstart]; exact runAll_crcData w u vs _ hnext), ?_⟩
  rw [State.leafOf_onLeaf, State.leafOf_onLeaf]
  exact ⟨by rw [Leaf.crcResult, hall.unit]; rfl, hall.others, hall.twigs, hall.heart⟩

end Sys2Proof.Machine
end

section
/-! ## Heartwood's tamper events and its queue -/

namespace Sys2Proof.Machine

/-! ### A tamper event in the store (R388, R392) -/

/-- An event that waits for room, or stands in the record store as a record of its own. -/
def Heart.holds (h : Heart) (e : HeartEvent) : Prop := e ∈ h.waiting ∨ ∃ q, ⟨q, 3, e.bytes q⟩ ∈ h.store

theorem Heart.put_store (h : Heart) (typ : Nat) (bytes : List Byte) : (h.put typ bytes).store = h.store ++ [⟨h.hseq, typ, bytes⟩] := rfl

theorem Heart.putDue_store (h : Heart) (d : HeartDue) : h.store ⊆ (h.putDue d).store := by
  unfold Heart.putDue
  split
  all_goals exact List.subset_append_left _ _

theorem Heart.putDue_waiting (h : Heart) (d : HeartDue) : (h.putDue d).waiting = h.waiting := by
  unfold Heart.putDue
  split <;> rfl

/-- Room in the store moves an event from the waiting ones into it, and loses none. -/
theorem Heart.letIn_holds {e : HeartEvent} (fuel : Nat) {h : Heart} (he : h.holds e) : (h.letIn fuel).holds e := by
  induction fuel generalizing h with
  | zero => exact he
  | succ m ih =>
    rcases hw : h.waiting with _ | ⟨x, r⟩
    · rcases hd : h.due with _ | ⟨d, ds⟩
      · unfold Heart.letIn
        simpa only [hw, hd] using he
      · unfold Heart.letIn
        simp only [hw, hd]
        split
        · refine ih (he.elim (fun hin => ?_) (fun ⟨q, hq⟩ => .inr ⟨q, Heart.putDue_store _ d hq⟩))
          rw [hw] at hin
          cases hin
        · exact he
    · unfold Heart.letIn
      simp only [hw]
      split
      · refine ih (he.elim (fun hin => ?_) (fun ⟨q, hq⟩ => .inr ⟨q, List.mem_append_left _ hq⟩))
        rw [hw] at hin
        obtain rfl | hin := List.mem_cons.1 hin
        · exact .inr ⟨_, List.mem_append_right _ (List.mem_singleton.2 rfl)⟩
        · exact .inl hin
      · exact he

theorem Leaf.heartPump_holds {e : HeartEvent} (fuel : Nat) {l : Leaf} (he : l.heart.holds e) : (l.heartPump fuel).heart.holds e := by
  induction fuel generalizing l with
  | zero => exact he
  | succ m ih =>
    unfold Leaf.heartPump
    split
    · exact he
    split
    · exact he
    refine ih ?_
    split <;> simp only [Leaf.log_heart, Leaf.s_heart] <;> exact he

/-- Every event of Heartwood stands in its store or waits for room there. -/
theorem Leaf.heartEvent_holds (l : Leaf) (evt code : Nat) (data : List Byte) :
    ∃ e : HeartEvent, e.evt = evt ∧ e.code = code ∧ (l.heartEvent evt code data).heart.holds e := by
  unfold Leaf.heartEvent
  extract_lets h e log l1
  refine ⟨e, rfl, rfl, Leaf.heartPump_holds 600 ?_⟩
  rw [Leaf.heartShow_heart, Leaf.heart_onHeart]
  exact Heart.letIn_holds _ (.inl (List.mem_append_right _ (List.mem_singleton.2 rfl)))

/-- A count, a total or a span that no record enters. -/
theorem Leaf.heartEvent_field {α : Type} (p : Heart → α) (hp : ∀ h : Heart, p h.unstored = p h) (l : Leaf) (evt code : Nat) (data : List Byte) :
    p (l.heartEvent evt code data).heart = p l.heart := by
  rw [← hp, Leaf.heartEvent_unstored, hp]

/-- The partition as a tamper event leaves its fuses, before the record. -/
def Heart.tampered (h : Heart) : Heart :=
  if h.sealed = 1 ∧ h.tamperCnt < 32 then { h with tamperCnt := h.tamperCnt + 1, sealed := 2, brokenSpan := true, ckptDue := true } else h

theorem Leaf.tamper_of_up {l : Leaf} (hup : l.heart.up = true) (code : Nat) : l.tamper code = (l.onHeart Heart.tampered).heartEvent 5 code [] := by
  unfold Leaf.tamper
  extract_lets h burn l1
  have hl1 : l1 = l.onHeart Heart.tampered := by
    by_cases hburn : l.heart.sealed = 1 ∧ l.heart.tamperCnt < 32
    · simp only [l1, burn, h, Leaf.onHeart, Heart.tampered, if_pos hburn]
      rw [if_pos (by simp [hburn])]
    · simp only [l1, burn, h, Leaf.onHeart, Heart.tampered, if_neg hburn]
      rw [if_neg (by simpa using hburn)]
  rw [hup, if_neg (by decide), hl1]

/-- Settles O45. -/
theorem tamperEvent : Obligations.TamperEvent := by
  intro s code hup
  have hrun : runsOnLeaf (.tamper code) .die free (·.tamper code) := runsOnLeaf_of_byLeaf fun _ => rfl
  refine ⟨_, hrun s rfl, ?_⟩
  rw [State.onLeaf_die_leaf, Leaf.tamper_of_up hup]
  obtain ⟨e, hevt, hcode, hholds⟩ := (s.leaf.onHeart Heart.tampered).heartEvent_holds 5 code []
  have hfield {α : Type} (p : Heart → α) (hp : ∀ h : Heart, p h.unstored = p h) :
      p ((s.leaf.onHeart Heart.tampered).heartEvent 5 code []).heart = p s.leaf.heart.tampered := Leaf.heartEvent_field p hp ..
  refine ⟨?_, ⟨e, hevt, hcode, hholds⟩, ?_⟩
  · rw [hfield Heart.tamperCnt (fun _ => rfl), hfield Heart.sealed (fun _ => rfl), hfield Heart.brokenSpan (fun _ => rfl)]
    unfold Heart.tampered
    split
    · exact ⟨rfl, rfl, rfl⟩
    · exact ⟨rfl, rfl⟩
  · rw [hfield Heart.sealCnt (fun _ => rfl), hfield Heart.unsealCnt (fun _ => rfl), hfield Heart.clearCnt (fun _ => rfl), hfield Heart.totals (fun _ => rfl),
      hfield Heart.accounts (fun _ => rfl)]
    unfold Heart.tampered
    split <;> exact ⟨rfl, rfl, rfl, rfl, rfl, rfl⟩

/-! ### Heartwood's queue (R27, R373) -/

/-- A command that is an operation of the die's leaf alone. -/
def actsOnDie (c : Instr) : Prop := ∃ f : Leaf → Leaf, ∀ s : State, exec c s = .next (s.onLeaf .die f)

/-- A queue of such commands drains, as one operation of the leaf, whatever the state is. -/
theorem run_of_actsOnDie (q : List Instr) (h : ∀ c ∈ q, actsOnDie c) :
    ∃ f : Leaf → Leaf, ∀ s : State, Sys2Proof.core.run q.length { s with pending := q } = .next { s with leaf := f s.leaf, pending := [] } := by
  induction q with
  | nil => exact ⟨id, fun _ => rfl⟩
  | cons c q ih =>
    obtain ⟨g, hg⟩ := h c (List.mem_cons_self ..)
    obtain ⟨f, hf⟩ := ih (fun c hc => h c (List.mem_cons_of_mem _ hc))
    refine ⟨fun l => f (g l), fun s => ?_⟩
    have hstep : Sys2Proof.core.step { s with pending := c :: q } = .next { s with leaf := g s.leaf, pending := q } :=
      (step_cons { s with pending := c :: q } c q rfl).trans (hg _)
    simp only [List.length_cons, Host.Core.run, hstep]
    exact hf { s with leaf := g s.leaf }

/-- Settles O58. -/
theorem heartwoodIsolated : Obligations.HeartwoodIsolated := by
  intro s q c' hq
  have hacts : ∀ c ∈ q, actsOnDie c := by
    intro c hc
    obtain ⟨v, i, rfl⟩ | rfl | rfl | ⟨k, rfl⟩ | ⟨x, rfl⟩ | rfl | ⟨n, rfl⟩ | ⟨n, m, b, rfl⟩ | ⟨n, b, rfl⟩ | ⟨n, b, rfl⟩ | ⟨n, b, rfl⟩ := hq c hc
    all_goals exact ⟨_, fun _ => rfl⟩
  obtain ⟨f, hf⟩ := run_of_actsOnDie q hacts
  exact ⟨_, hf s, rfl, rfl, _, hf { s with crown := c' }, rfl⟩

end Sys2Proof.Machine
end

section
/-! ## A CLEAR that the model takes (R177) -/

namespace Sys2Proof.Machine

/-! ### CLEAR and serial numbers (R165, R177) -/

/-- A CLEAR at the reset state whose HIGH_SEQ is the number 2^31: above HEAD as a number, before it as a SEQ. -/
theorem clear_taken_at_reset : (match exec (.rlogClear LeafSel.die.block (2 ^ 31) 0 0 []) State.reset with
    | .next t => t.leaf.ring.head
    | _ => 0) = 1 := by decide

/-- Refutes O35: SEQs compare modulo 2^32 (R165), so a HIGH_SEQ that is above HEAD as a number can lie before it. At the reset state, HEAD is 0, and the
CLEAR with the PCC of the ring and HIGH_SEQ 2^31 is taken: it writes its CLEAR record, and HEAD is 1. -/
theorem not_clearRefused : ¬ Obligations.ClearRefused := by
  intro h
  obtain ⟨t, ht, hring, -⟩ := h State.reset .die (2 ^ 31) 0 0 [] (by decide) (.inr (by decide))
  have htaken := clear_taken_at_reset
  rw [ht] at htaken
  have hhead : t.leaf.ring.head = 1 := htaken
  rw [show t.leaf.ring = State.reset.leaf.ring from hring] at hhead
  exact absurd hhead (by decide)

end Sys2Proof.Machine
end

section
/-! ## A write without a register that the guards see (R9) -/

namespace Sys2Proof.Machine

/-! ### The lines of a guard, which a write in the guards' window recomputes -/

/-- What the outputs of one guard are set to. -/
def Leaf.guardLine (l : Leaf) (g : Nat) : Leaf :=
  let l := if l.acting g 3 then l.s (TZ_GRDg_STAT_FENCE g) 1 else l
  let safe := bitOf l.guards.safe g
  let f := l.guards.forced
  let l := l.s (TZ_GRDg_STAT_STRETCH g) (b2n (!f && l.acting g 2))
  let l := l.s (TZ_GRDg_STAT_THROTTLE g) (b2n (if f then safe else !(l.throttlers g).isEmpty))
  let l := l.s (TZ_GRDg_STAT_DEPTH g) (if f then (if safe then 7 else 0) else l.depthOf g)
  let l := l.s (TZ_GRDg_STAT_RELIEF g) (b2n (l.acting g 4))
  let l := l.s (TZ_GRDg_STAT_SAFE g) (b2n safe)
  l.s (TZ_GRDg_STAT_RADIO g) (b2n (l.radio g))

theorem Leaf.guardLines_eq (l : Leaf) : l.guardLines = ((List.range 8).foldl Leaf.guardLine l.reliefShort).vfUpdate := rfl

theorem Leaf.s_guards (l : Leaf) (f : Fld) (v : Nat) : (l.s f v).guards = l.guards := (rfl)

theorem Leaf.guardLine_guards (l : Leaf) (g : Nat) : (l.guardLine g).guards = l.guards := by
  unfold Leaf.guardLine
  extract_lets l1
  have h1 : l1.guards = l.guards := by
    simp only [l1]
    split
    · exact Leaf.s_guards ..
    · rfl
  refine Eq.trans ?_ h1
  simp +zetaDelta only [Leaf.s_guards]

theorem Leaf.guardLine_safe (l : Leaf) (g : Nat) : (l.guardLine g).toNode.g (TZ_GRDg_STAT_SAFE g) = b2n (bitOf l.guards.safe g) := by
  have hlow (b : Bool) : b2n b % 2 = b2n b := by cases b <;> rfl
  have hguards : (if l.acting g 3 then l.s (TZ_GRDg_STAT_FENCE g) 1 else l).guards = l.guards := by
    split
    · exact Leaf.s_guards ..
    · rfl
  unfold Leaf.guardLine
  extract_lets l1 safe f l2 l3 l4 l5 l6
  rw [Leaf.s_toNode, Node.g_s_apart _ _ (by simp [Fld.apart, TZ_GRDg_STAT_RADIO, TZ_GRDg_STAT_SAFE]), Leaf.s_toNode,
    Node.g_s_self _ _ _ (show 24 < 32 by decide) (show 24 ≤ 24 by decide)]
  exact (hlow _).trans (by simp only [safe, l1, hguards])

theorem Leaf.reliefShort_safe (l : Leaf) : l.reliefShort.guards.safe = l.guards.safe := by
  unfold Leaf.reliefShort
  refine foldl_keeps (fun l : Leaf => l.guards.safe) _ (fun l w => ?_) _ _
  dsimp only
  split <;> rfl

theorem foldl_keeps_of_mem {σ α β : Type} (p : σ → β) (g : σ → α → σ) (xs : List α) (h : ∀ s, ∀ x ∈ xs, p (g s x) = p s) (s : σ) :
    p (xs.foldl g s) = p s := by
  induction xs generalizing s with
  | nil => rfl
  | cons x xs ih => exact (ih (fun s y hy => h s y (List.mem_cons_of_mem _ hy)) _).trans (h s x (List.mem_cons_self ..))

theorem lowest_lt {n d : Nat} {p : Nat → Bool} (h : lowest n p = some d) : d < n := List.mem_range.1 (List.mem_of_find?_eq_some h)

/-- The V/f port enters the registers of the domains alone. -/
theorem Leaf.vfPresent_g (l : Leaf) {d : Nat} (hd : d < 8) {f : Fld} (hf : 0x1060 ≤ f.off) : (l.vfPresent d).toNode.g f = l.toNode.g f := by
  have hkind (n : Node) (v : Nat) : (n.s (TZ_VFd_STAT_KIND d) v).g f = n.g f := Node.g_s_off _ _ _ _ (by simp only [TZ_VFd_STAT_KIND]; omega)
  have hpend (n : Node) (v : Nat) : (n.s (TZ_VFd_STAT_PENDING d) v).g f = n.g f := Node.g_s_off _ _ _ _ (by simp only [TZ_VFd_STAT_PENDING]; omega)
  unfold Leaf.vfPresent
  split
  rw [Leaf.onGuards_toNode, Leaf.s_toNode, hkind, Leaf.s_toNode, hpend]
  rfl

theorem Leaf.vfUpdate_g (l : Leaf) {f : Fld} (hf : 0x1060 ≤ f.off) : l.vfUpdate.toNode.g f = l.toNode.g f := by
  unfold Leaf.vfUpdate
  extract_lets l1
  have h1 : l1.toNode.g f = l.toNode.g f := by
    refine foldl_keeps_of_mem (fun l : Leaf => l.toNode.g f) _ _ (fun l d hd => ?_) _
    have hd := List.mem_range.1 hd
    have htarget (n : Node) (v : Nat) : (n.s (TZ_VFd_STAT_TARGET d) v).g f = n.g f := Node.g_s_off _ _ _ _ (by simp only [TZ_VFd_STAT_TARGET]; omega)
    dsimp only
    rw [Leaf.s_toNode, htarget]
    rfl
  split
  · exact h1
  · split
    next d hd => exact (l1.vfPresent_g (lowest_lt hd) hf).trans h1
    next => exact h1

/-- After a recomputation the SAFE line of the last guard is the one forced. -/
theorem Leaf.guardLines_safe (l : Leaf) : l.guardLines.toNode.g (TZ_GRDg_STAT_SAFE 7) = b2n (bitOf l.guards.safe 7) := by
  have hguards : ((List.range 7).foldl Leaf.guardLine l.reliefShort).guards = l.reliefShort.guards := foldl_keeps Leaf.guards _ Leaf.guardLine_guards _ _
  rw [Leaf.guardLines_eq, Leaf.vfUpdate_g _ (by decide), List.range_succ, List.foldl_append, List.foldl_cons, List.foldl_nil, Leaf.guardLine_safe, hguards,
    Leaf.reliefShort_safe]

/-- A die's leaf whose SAFE line of guard 7 reads 1, where nothing is forced. -/
def safeStale : Leaf := Leaf.reset.s (TZ_GRDg_STAT_SAFE 7) 1

/-- The leaf window holds no register at 0x102C. -/
theorem findReg_leafTable_102C : findReg leafTable 0x102C = none := by decide

/-- A write there recomputes the guards' lines all the same. -/
theorem safeStale_write : safeStale.regWrite 0x102C 0 3 0 = safeStale.guardLines := by
  have hheld : safeStale.regHeld 0x102C = false := by rw [Leaf.regHeld, findReg_leafTable_102C]
  have hwrite : safeStale.on (·.write 0x102C 0) = safeStale := by
    have htable : findReg safeStale.toNode.table 0x102C = none := findReg_leafTable_102C
    rw [Leaf.on, Node.write, htable]
  have hguard : safeStale.guardWrite 0x102C 0 3 = (safeStale.on (·.write 0x102C 0)).guardLines := by
    unfold Leaf.guardWrite
    rw [show famIx 0x102C 0x1400 4 128 = none by decide, show famIx 0x102C 0x1100 4 64 = none by decide]
    rfl
  unfold Leaf.regWrite
  rw [hheld, if_neg (by decide), if_neg (by decide), if_pos (by decide), hguard, hwrite]

/-- Refutes O16: a write anywhere in the guards' window recomputes the guards' lines, also at an offset without a register. On a leaf whose SAFE line of
guard 7 reads 1 while nothing is forced, the write at 0x102C takes it to 0. The statement is about every state; that a run reaches this one is not claimed. -/
theorem not_unmappedLeafOffset : ¬ Obligations.UnmappedLeafOffset := by
  intro h
  obtain ⟨hwrite, -⟩ := h { State.reset with leaf := safeStale } .die ⟨0x102C, 0xF⟩ 0 3 0 findReg_leafTable_102C
  have hrun : runsOnLeaf (.registerWrite LeafSel.die.block ⟨0x102C, 0xF⟩ 0 3 0 false) .die free
      (fun l => l.unless (!wholeWord 0x102C 0xF) (fun l => (l.noteDefer false).regWrite 0x102C 0 3 0)) := runsOnLeaf_of_byLeaf fun _ => rfl
  have hleaf := congrArg State.leaf (Host.Outcome.next.inj ((hrun _ rfl).symm.trans hwrite))
  rw [State.onLeaf_die_leaf, show (!wholeWord 0x102C 0xF) = false by decide, Leaf.unless_alive, Leaf.noteDefer, if_neg (by decide)] at hleaf
  dsimp only at hleaf
  have hafter : safeStale.toNode.g (TZ_GRDg_STAT_SAFE 7) = b2n (bitOf safeStale.guards.safe 7) := by
    rw [← Leaf.guardLines_safe, ← safeStale_write, hleaf]
  have hbefore : safeStale.toNode.g (TZ_GRDg_STAT_SAFE 7) = 1 := Node.g_s_self _ _ _ (by decide) (by decide)
  rw [hbefore] at hafter
  exact absurd hafter (by decide)

end Sys2Proof.Machine
end

section
/-! ## What the units of the crown leave alone, and the causes of basic mode (R430) -/

namespace Sys2Proof.Machine

/-! ### What the crown's units leave alone -/

/-- A reading of the crown that only its node enters, by the reading `q`; no register, no queue, no ring, no output and no draw of the node is read. -/
structure Crown.Apart {α β : Type} (q : Node → β) (p : Crown → α) : Prop where
  pack : Node.ApartFromPacker q
  node_s : ∀ n f v, q (Node.s n f v) = q n
  node_emit : ∀ n o, q (Node.emit n o) = q n
  node_fresh : ∀ (n : Node) k, q { n with fresh := k } = q n
  on : ∀ c f, q (f c.toNode) = q c.toNode → p (Crown.on c f) = p c
  grove : ∀ c f, p (Crown.onGrove c f) = p c
  win : ∀ c f, p (Crown.onWin c f) = p c
  aud : ∀ c f, p (Crown.onAud c f) = p c
  age : ∀ (c : Crown) a, p { c with age := a } = p c
  eng : ∀ (c : Crown) e, p { c with eng := e } = p c
  tree : ∀ (c : Crown) t, p { c with tree := t } = p c
  hbmPut : ∀ c a b, p (Crown.hbmPut c a b) = p c
  stray : ∀ (c : Crown) b, p { c with stray := b } = p c

/-- Bring-up's own state is such a reading. -/
theorem Crown.apart_bring : Crown.Apart (fun _ => ()) Crown.bring where
  pack := ⟨fun _ _ _ => rfl, fun _ _ _ _ => rfl, fun _ _ => rfl⟩
  node_s _ _ _ := rfl
  node_emit _ _ := rfl
  node_fresh _ _ := rfl
  on _ _ _ := rfl
  grove _ _ := rfl
  win _ _ := rfl
  aud _ _ := rfl
  age _ _ := rfl
  eng _ _ := rfl
  tree _ _ := rfl
  hbmPut _ _ _ := rfl
  stray _ _ := rfl

namespace Crown.Apart

variable {α β : Type} {q : Node → β} {p : Crown → α} (hp : Crown.Apart q p)
include hp

theorem s (c : Crown) (f : Fld) (v : Nat) : p (c.s f v) = p c := hp.on _ _ (hp.node_s ..)
theorem inc (c : Crown) (f : Fld) (k : Nat) : p (c.inc f k) = p c := hp.on _ _ (hp.node_s ..)
theorem count (c : Crown) (f : Fld) : p (c.count f) = p c := hp.on _ _ (hp.node_s ..)
theorem emit (c : Crown) (o : Out) : p (c.emit o) = p c := hp.on _ _ (hp.node_emit ..)
theorem log (c : Crown) (typ : Nat) (body : List Byte) : p (c.log typ body) = p c := hp.on _ _ (hp.pack.log ..)
theorem bulkDown (c : Crown) (k : Nat) (body : List Byte) : p (c.bulkDown k body) = p c := hp.on _ _ (hp.pack.post _ _ (show 7 < 8 by decide))
theorem draw (c : Crown) (w : Nat) : p (c.draw w).2 = p c := hp.on c (fun n => { n with fresh := n.fresh + 1 }) (hp.node_fresh ..)

omit hp in
/-- Both branches read the same. -/
theorem ite {x : Prop} [Decidable x] {c d e : Crown} (hc : p c = p e) (hd : p d = p e) : p (if x then c else d) = p e := by
  split
  · exact hc
  · exact hd

theorem sendUp (c : Crown) {r : Rec} (h : r.cls < 8) : p (c.sendUp r) = p c := by
  have hemit : p (if c.exitHere then c.emit (.word "host" r.bytes) else c) = p c := by
    split
    · exact hp.emit ..
    · rfl
  unfold Crown.sendUp
  generalize (if c.exitHere then c.emit (.word "host" r.bytes) else c) = d at hemit ⊢
  dsimp only
  split
  · exact hemit
  · exact (hp.on d _ (hp.pack.foldl_post _ _ h)).trans hemit

theorem nextGseq (c : Crown) : p c.nextGseq.2 = p c := by
  unfold Crown.nextGseq
  dsimp only
  rw [hp.grove]

theorem sendConfig (c : Crown) (k thresh : Nat) : p (c.sendConfig k thresh) = p c := hp.on _ _ (hp.pack.post _ _ (show 3 < 8 by decide))

theorem groveInput (c : Crown) : p c.groveInput = p c := (hp.s ..).trans (hp.grove ..)

/-! #### HBM and the drift engine -/

theorem bound (c : Crown) (a n : Nat) : p (c.bound a n) = p c := by
  unfold Crown.bound
  split
  · rfl
  · exact hp.stray ..

theorem countUnits (c : Crown) (f : Nat → Fld) (l : List (Nat × Nat)) : p (c.countUnits f l) = p c :=
  foldl_keeps p _ (fun _ _ => ite rfl (hp.inc ..)) _ _

theorem hbmWrite (c : Crown) (a : Nat) (l : List Byte) : p (c.hbmWrite a l) = p c :=
  (foldl_keeps p _ (fun c i => hp.hbmPut c (a + i) (l.getD i 0)) _ _).trans ((hp.countUnits _ _ _).trans (hp.bound _ _ _))

theorem ringWrite (c : Crown) (h : History) (off : Nat) (l : List Byte) : p (c.ringWrite h off l) = p c := by
  rw [Crown.ringWrite, hp.hbmWrite, hp.hbmWrite]

theorem setWin (c : Crown) (slot : Nat) (x : WinPlan) : p (c.setWin slot x) = p c := by
  simp only [Crown.setWin, hp.s, hp.win]

theorem closeSegment (c : Crown) (slot : Nat) (x : WinPlan) (y : DriftSeries) : p (c.closeSegment slot x y).1 = p c := by
  unfold Crown.closeSegment
  split
  · rfl
  · split
    · rfl
    · exact (hp.ringWrite _ _ _ _).trans (hp.inc _ _ _)

theorem breakHistory (c : Crown) (slot : Nat) (x : WinPlan) (flag : Nat) (y : DriftSeries) : p (c.breakHistory slot x flag y).1 = p c :=
  hp.closeSegment c slot x y

theorem breakAll (c : Crown) (slot : Nat) (x : WinPlan) (flag : Nat) (pick : DriftSeries → Bool) : p (c.breakAll slot x flag pick).1 = p c :=
  foldl_keeps (fun a : Crown × List DriftSeries => p a.1) _ (fun a y => by
    dsimp only
    split
    · exact hp.breakHistory a.1 slot x flag y
    · rfl) _ _

theorem writeDirectory (c : Crown) : p c.writeDirectory = p c := ite rfl (hp.hbmWrite ..)

theorem skipWindow (c : Crown) (slot : Nat) (x : WinPlan) (k : Nat) (basic : Bool) : p (c.skipWindow slot x k basic) = p c := by
  rw [Crown.skipWindow, hp.setWin]
  exact ite rfl (hp.inc ..)

theorem winResume (fuel : Nat) (c : Crown) : p (c.winResume fuel) = p c := by
  induction fuel generalizing c with
  | zero => rfl
  | succ n ih =>
    unfold Crown.winResume
    split
    · rw [hp.writeDirectory]
      refine foldl_keeps p _ (fun c e => ?_) _ _
      rw [hp.setWin, hp.breakAll]
    · rw [ih, hp.skipWindow]

/-! #### Margins and Grove -/

theorem groveRegs (c : Crown) : p c.groveRegs = p c := by
  unfold Crown.groveRegs
  refine (foldl_keeps p _ (fun c g => ?_) _ _).trans ?_ <;> simp only [hp.s]

theorem healthRec (c : Crown) (k old : Nat) : p (c.healthRec k old) = p c := (hp.sendUp _ (show 5 < 8 by decide)).trans (hp.nextGseq c)

theorem withdrawReason (c : Crown) (d : Die) : p (c.withdrawReason d).2 = p c := by
  unfold Crown.withdrawReason
  split
  · rfl
  · split
    · rfl
    · exact hp.draw c 8

theorem withdraw (c : Crown) (k job : Nat) (radio : Bool) (reason : Nat) : p (c.withdraw k job radio reason) = p c :=
  (hp.sendUp _ (show 5 < 8 by decide)).trans ((hp.count _ _).trans (hp.nextGseq c))

theorem sendSummary (c : Crown) : p c.sendSummary = p c := by
  unfold Crown.sendSummary
  split
  · rfl
  · exact (hp.on _ _ (hp.pack.post _ _ (show 5 < 8 by decide))).trans (hp.nextGseq c)

theorem setDie (c : Crown) (k : Nat) (d : Die) : p (c.setDie k d) = p c := by
  unfold Crown.setDie
  extract_lets o free c1 moved c2 c3 c4 c5
  have h1 : p c1 = p c := hp.grove ..
  clear_value c1
  have h2 : p c2 = p c1 := ite (hp.s ..) rfl
  clear_value c2
  have h3 : p c3 = p c2 := ite (hp.groveRegs _) rfl
  clear_value c3
  have h4 : p c4 = p c3 := ite (hp.healthRec ..) rfl
  clear_value c4
  have h5 : p c5 = p c4 := ite ((hp.withdraw ..).trans (hp.withdrawReason ..)) rfl
  clear_value c5
  have h6 : p (if c5.isTray && free != 0 && c5.freeRadio == 0 then c5.sendSummary else c5) = p c5 := ite (hp.sendSummary _) rfl
  exact h6.trans (h5.trans (h4.trans (h3.trans (h2.trans h1))))

theorem condition (c : Crown) (k : Nat) (f : Die → Die) : p (c.condition k f) = p c := hp.setDie ..

theorem ageTell (c : Crown) (k ch : Nat) : p (c.ageTell k ch) = p c := by
  unfold Crown.ageTell
  extract_lets a ok c'
  have hrec : p c' = p c := (hp.age ..).trans (hp.sendUp _ (show 5 < 8 by decide))
  clear_value c'
  split
  · rw [hp.condition, hp.groveInput, hrec]
  · exact (hp.age ..).trans hrec

end Crown.Apart

/-- The crown with the margin `t` sent to a die, before the ageing channels of the domain are told. -/
def Crown.marginOut (c : Crown) (p dom t : Nat) : Crown :=
  let c : Crown := { c with age := { c.age with sent := c.age.sent.set (fun _ => 0) (8 * p + dom) t } }
  if p < 64 then c.bulkDown p (byte 0x14 ++ byte dom ++ byte t ++ zeros 1) else c.emit (.word "pmbus" (byte dom ++ byte t))

theorem Crown.sendMargin_eq (c : Crown) (p dom : Nat) : c.sendMargin p dom =
    if c.vfTarget p dom = c.age.sent.get (fun _ => 0) (8 * p + dom) ∨ c.basic ∨
      (p < 64 ∧ c.vfTarget p dom > c.age.sent.get (fun _ => 0) (8 * p + dom) ∧ c.carriesRadio p) then c
    else (((c.marginOut p dom (c.vfTarget p dom)).inService p).filter (fun x => x.2.dom == dom)).foldl (fun (c : Crown) x => c.ageTell p x.1)
      (c.marginOut p dom (c.vfTarget p dom)) := rfl

namespace Crown.Apart

variable {α β : Type} {q : Node → β} {p : Crown → α} (hp : Crown.Apart q p)
include hp

theorem marginOut (c : Crown) (k dom t : Nat) : p (c.marginOut k dom t) = p c := by
  unfold Crown.marginOut
  exact (ite (hp.bulkDown ..) (hp.emit ..)).trans (hp.age c _)

theorem sendMargin (c : Crown) (k dom : Nat) : p (c.sendMargin k dom) = p c := by
  rw [Crown.sendMargin_eq]
  split
  · rfl
  · exact (foldl_keeps p (fun (c : Crown) (x : Nat × AgeChan) => c.ageTell k x.1) (fun c x => hp.ageTell c k x.1) _ _).trans (hp.marginOut ..)

theorem dueMargins (c : Crown) (k : Nat) : p (c.dueMargins k) = p c := foldl_keeps p _ (fun c d => hp.sendMargin c k d) _ _

/-! #### The job queues and the audit -/

theorem engRescan (c : Crown) : p c.engRescan = p c := by
  unfold Crown.engRescan
  refine (foldl_keeps p Crown.engStat (fun c k => ?_) _ _).trans (hp.eng ..)
  simp only [Crown.engStat, hp.s]

theorem treeRescan (c : Crown) : p c.treeRescan = p c := by
  unfold Crown.treeRescan
  refine (foldl_keeps p Crown.treeStat (fun c k => ?_) _ _).trans (hp.tree ..)
  simp only [Crown.treeStat, hp.s]

theorem hostQueues (c : Crown) (en : Bool) : p (c.hostQueues en) = p c := by
  simp only [Crown.hostQueues, hp.treeRescan, hp.engRescan, hp.s]

theorem audBasic (c : Crown) : p c.audBasic = p c := by
  unfold Crown.audBasic
  split
  · exact foldl_keeps p _ (fun c k => hp.sendConfig c k 0) _ _
  · rfl

theorem newSeed (c : Crown) : p c.newSeed = p c := (foldl_keeps p _ (fun c k => hp.sendConfig c k _) _ _).trans ((hp.aud _ _).trans (hp.draw c 64))

theorem basicBits (c : Crown) (v : Nat) : p (c.basicBits v) = p c := by simp only [Crown.basicBits, hp.s]

theorem modeRec (c : Crown) (old new cause : Nat) : p (c.modeRec old new cause) = p c := hp.log ..

theorem readyRec (c : Crown) : p c.readyRec = p c := hp.sendUp _ (show 5 < 8 by decide)

end Crown.Apart

/-! ### The causes of basic mode (R430) -/

theorem Crown.onModes_bring_modes (c : Crown) (f : Modes → Modes) : (c.onModes f).bring.modes = f c.bring.modes := (rfl)

/-- An aborted rehearsal leaves the causes of basic mode. -/
theorem Crown.rhAbort_causes (c : Crown) (r : Rehearsal) : (c.rhAbort r).bring.modes.causes = c.bring.modes.causes := by
  have hend (c : Crown) (us : Nat) : (c.rhEnd r 2 us).bring.modes.causes = c.bring.modes.causes := by
    rw [Crown.rhEnd, Crown.apart_bring.s, Crown.onModes_bring_modes, Crown.apart_bring.log]
  unfold Crown.rhAbort
  rw [Crown.apart_bring.count, hend]
  split
  · rw [Crown.on_bring]
  · rfl

/-- The causes of basic mode are `m`. -/
def Crown.CausesAre (m : Nat) (c : Crown) : Prop := c.bring.modes.causes = m

theorem Crown.CausesAre.of_bring {m : Nat} {c d : Crown} (h : c.CausesAre m) (e : d.bring = c.bring) : d.CausesAre m := by
  rw [Crown.CausesAre, e, ← Crown.CausesAre]
  exact h

theorem Crown.CausesAre.rhAbort {m : Nat} {c : Crown} (h : c.CausesAre m) (r : Rehearsal) : (c.rhAbort r).CausesAre m := (c.rhAbort_causes r).trans h

/-- What basic mode stops as it is entered leaves the causes. -/
theorem Crown.CausesAre.stopRehearsal {m : Nat} {c : Crown} (h : c.CausesAre m) :
    Crown.CausesAre m (match c.bring.modes.rh with | none => c | some r => c.rhAbort r) := by
  split
  · exact h
  · exact h.rhAbort _

theorem Crown.CausesAre.resumed {m : Nat} {c : Crown} (h : c.CausesAre m) :
    ((List.range 65).foldl Crown.dueMargins (if c.isTray then c.newSeed else c)).engRescan.treeRescan.CausesAre m := by
  refine h.of_bring ?_
  rw [Crown.apart_bring.treeRescan, Crown.apart_bring.engRescan, foldl_keeps Crown.bring _ Crown.apart_bring.dueMargins]
  exact Crown.Apart.ite (Crown.apart_bring.newSeed c) rfl

/-- A change of mode leaves the causes. -/
theorem Crown.CausesAre.setMode {m : Nat} {c : Crown} (h : c.CausesAre m) (new : Nat) : (c.setMode new).CausesAre m := by
  unfold Crown.setMode
  extract_lets old c1 cBasic cAud cResumed cSeeded c2 c3 c4
  clear_value old
  have h1 : c1.CausesAre m := h.of_bring (Crown.apart_bring.s ..)
  clear_value c1
  have hb : cBasic.CausesAre m := h1.of_bring ((Crown.apart_bring.basicBits _ _).trans (Crown.apart_bring.count _ _))
  clear_value cBasic
  have ha : cAud.CausesAre m := hb.of_bring (Crown.apart_bring.audBasic _)
  clear_value cAud
  have hr : cResumed.CausesAre m := h1.of_bring ((Crown.apart_bring.winResume _ _).trans (Crown.apart_bring.basicBits _ _))
  clear_value cResumed
  have h2 : c2.CausesAre m := by
    dsimp only [c2]
    split
    · exact ha.stopRehearsal
    · split
      · exact hr.resumed
      · exact h1
  clear_value c2
  have h3 : c3.CausesAre m := by
    dsimp only [c3]
    exact h2.of_bring (Crown.Apart.ite (Crown.apart_bring.hostQueues c2 _) (Crown.Apart.ite (Crown.apart_bring.hostQueues c2 _) rfl))
  clear_value c3
  have h4 : c4.CausesAre m := h3.of_bring (Crown.apart_bring.modeRec ..)
  clear_value c4
  split
  · exact h
  · exact h4.of_bring (Crown.Apart.ite (Crown.apart_bring.readyRec _) rfl)

theorem Crown.setCauses_causes (c : Crown) (m : Nat) : (c.setCauses m).bring.modes.causes = m := by
  have hset (c : Crown) (v : Nat) : ((c.onModes (fun x => { x with causes := m })).s BZ_MODE_STAT_CAUSE v).CausesAre m := by
    rw [Crown.CausesAre, Crown.apart_bring.s, Crown.onModes_bring_modes]
  exact (hset c _).setMode _

theorem testBit_bitsOf (x hi lo i : Nat) : (bitsOf x hi lo).testBit i = (decide (i < hi + 1 - lo) && x.testBit (lo + i)) := by
  rw [bitsOf, Nat.testBit_mod_two_pow, Nat.testBit_shiftRight]

/-- A bit of a word in which bits `hi` down to `lo` were cleared. -/
theorem bitOf_putBits_zero (x i : Nat) {hi lo : Nat} (hl : lo ≤ hi) : bitOf (putBits x hi lo 0) i = (bitOf x i && decide (i < lo ∨ hi < i)) := by
  have hzero := bitsOf_putBits_self x hi lo 0
  have hpart := congrArg (fun y => y.testBit (i - lo)) hzero
  simp only [testBit_bitsOf, Nat.zero_mod, Nat.zero_testBit] at hpart
  rcases Nat.lt_or_ge i lo with hlow | hlow
  · have hbelow := congrArg (fun y => y.testBit i) (bitsOf_putBits_below x hi lo 0 i 0 hlow (Nat.zero_le _))
    simpa [testBit_bitsOf, bitOf, hlow] using hbelow
  rcases Nat.lt_or_ge hi i with hhigh | hhigh
  · have habove := congrArg (fun y => y.testBit 0) (bitsOf_putBits_above x hi lo 0 i i hhigh hl)
    simpa only [testBit_bitsOf, bitOf, hhigh, Nat.add_sub_cancel_left, Nat.zero_lt_one, decide_true, Bool.true_and, Nat.add_zero, or_true, Bool.and_true]
      using habove
  · rw [show lo + (i - lo) = i by omega, decide_eq_true (by omega), Bool.true_and] at hpart
    simp [bitOf, hpart, Nat.not_lt.2 hlow, Nat.not_lt.2 hhigh]

/-- Settles O54. -/
theorem exitClearsTwoCauses : Obligations.ExitClearsTwoCauses := by
  intro s hstray
  have hrun : runsOnHbm .modeExit Crown.modeExit := runsOnHbm_of_byHbm fun _ => rfl
  refine ⟨_, hrun s hstray, fun i => ?_⟩
  rw [Crown.modeExit, Crown.setCauses_causes, bitOf_putBits_zero _ _ (by decide)]
  congr 2
  simp
  omega

end Sys2Proof.Machine
end

section
/-! ## REMAP and UNLOAD (R244, R286) -/

namespace Sys2Proof.Machine

/-! ### Fields of the crown -/

theorem Crown.g_s_self (c : Crown) {f : Fld} (v : Nat) (h : f.hi < 32) (hl : f.lo ≤ f.hi) : (c.s f v).g f = v % 2 ^ (f.hi + 1 - f.lo) := Node.g_s_self _ _ _ h hl
theorem Crown.g_s_apart (c : Crown) {f e : Fld} (v : Nat) (h : f.apart e = true) : (c.s f v).g e = c.g e := Node.g_s_apart _ _ h
theorem Crown.flag_s_self (c : Crown) {f : Fld} {v : Nat} (h : f.hi < 32) (hl : f.lo ≤ f.hi) : (c.s f v).flag f = (v % 2 ^ (f.hi + 1 - f.lo) != 0) :=
  Node.flag_s_self _ h hl
theorem Crown.flag_s_apart (c : Crown) {f e : Fld} (v : Nat) (h : f.apart e = true) : (c.s f v).flag e = c.flag e := Node.flag_s_apart _ _ h
theorem Crown.s_hbm (c : Crown) (f : Fld) (v : Nat) : (c.s f v).hbm = c.hbm := (rfl)

/-- Fields of two registers share no bit. -/
theorem Fld.apart_of_off {f e : Fld} (h : e.off ≠ f.off) : f.apart e = true := by
  rw [Fld.apart, bne_iff_ne.2 h, Bool.true_or]

/-! ### REMAP (R244) -/

/-- A map command begun with no job on the cell takes no job down. -/
theorem Crown.mapBegin_idle (c : Crown) (q l : Nat) (h : c.holders (128 * q + l) = []) :
    c.mapBegin q l = { c.s BZ_CMAP_STAT_BUSY 1 with eng := { c.eng with mapping := some (q, l) } } := by
  rw [Crown.mapBegin, h]
  rfl

theorem Crown.remap_good (c : Crown) {q l p : Nat} (hbusy : c.flag BZ_CMAP_STAT_BUSY = false) (hp : p < 144) (hbad : c.cellBad q p = false)
    (huser : c.cellUser q p = none ∨ c.cellUser q p = some l) : c.remap q l p = (c.mapBegin q l).mapCell q l (some p) := by
  have hany : ((c.cellUser q p).any (fun x => x != l)) = false := by
    obtain h | h := huser <;> simp [h]
  rw [Crown.remap, hbusy, hbad, hany, if_neg (by decide), if_neg (by omega), if_neg (by decide), if_neg (by decide)]

/-- The busy flag of the map stands apart from every cell's entry. -/
theorem cmap_apart (q l : Nat) : (BZ_CMAPq_l_VALID q l).apart BZ_CMAP_STAT_BUSY = true ∧ (BZ_CMAPq_l_PHYS q l).apart BZ_CMAP_STAT_BUSY = true := by
  constructor <;> refine Fld.apart_of_off ?_ <;> dsimp only [BZ_CMAP_STAT_BUSY, BZ_CMAPq_l_VALID, BZ_CMAPq_l_PHYS] <;> omega

/-- VALID and PHYS of a cell's entry share no bit. -/
theorem cmapPhys_apart_valid (q l : Nat) : (BZ_CMAPq_l_PHYS q l).apart (BZ_CMAPq_l_VALID q l) = true := by
  simp [Fld.apart, BZ_CMAPq_l_VALID, BZ_CMAPq_l_PHYS]

/-- A cell mapped to `p` is valid and shows `p`; BUSY and HBM stay. -/
theorem Crown.mapCell_some (c : Crown) (q l : Nat) {p : Nat} (hp : p < 256) : (c.mapCell q l (some p)).cellValid q l = true ∧
    (c.mapCell q l (some p)).g (BZ_CMAPq_l_PHYS q l) = p ∧ (c.mapCell q l (some p)).flag BZ_CMAP_STAT_BUSY = c.flag BZ_CMAP_STAT_BUSY ∧
    (c.mapCell q l (some p)).hbm = c.hbm ∧ (c.mapCell q l (some p)).stray = c.stray := by
  obtain ⟨hvalid, hphys⟩ := cmap_apart q l
  rw [Crown.mapCell, Crown.cellValid]
  refine ⟨?_, ?_, ?_, ?_, ?_⟩
  · rw [Crown.flag_s_apart _ _ (cmapPhys_apart_valid q l), Crown.flag_s_self _ (show 31 < 32 by decide) (show 31 ≤ 31 by decide)]
    rfl
  · rw [Crown.g_s_self _ _ (show 7 < 32 by decide) (show 0 ≤ 7 by decide)]
    exact Nat.mod_eq_of_lt hp
  · rw [Crown.flag_s_apart _ _ hphys, Crown.flag_s_apart _ _ hvalid]
  · rw [Crown.s_hbm, Crown.s_hbm]
  · rw [Crown.s_stray, Crown.s_stray]

/-- The map command of a cell that no job holds sets BUSY and accesses no HBM. -/
theorem Crown.mapBegin_idle_facts (c : Crown) (q l : Nat) (h : c.holders (128 * q + l) = []) : (c.mapBegin q l).flag BZ_CMAP_STAT_BUSY = true ∧
    (c.mapBegin q l).hbm = c.hbm ∧ (c.mapBegin q l).stray = c.stray := by
  have hmap (d : Crown) (m : Option (Nat × Nat)) : ({ d with eng := { c.eng with mapping := m } } : Crown).flag BZ_CMAP_STAT_BUSY = d.flag BZ_CMAP_STAT_BUSY ∧
      ({ d with eng := { c.eng with mapping := m } } : Crown).hbm = d.hbm ∧ ({ d with eng := { c.eng with mapping := m } } : Crown).stray = d.stray :=
    ⟨rfl, rfl, rfl⟩
  obtain ⟨hflag, hhbm, hstray⟩ := hmap (c.s BZ_CMAP_STAT_BUSY 1) (some (q, l))
  rw [Crown.mapBegin_idle c q l h]
  refine ⟨hflag.trans ?_, hhbm.trans (Crown.s_hbm ..), hstray.trans (Crown.s_stray ..)⟩
  rw [Crown.flag_s_self _ (by decide) (by decide)]
  decide

/-- Settles O39. -/
theorem remapMaps : Obligations.RemapMaps := by
  intro s q l p hstray _ _ hp hbusy hbad huser hheld
  have hrun : runsOnHbm (.remap q l p) (·.remap q l p) := runsOnHbm_of_byHbm fun _ => rfl
  obtain ⟨hset, hbegun, hstrayBegun⟩ := s.crown.mapBegin_idle_facts q l hheld
  obtain ⟨hvalid, hphys, hflag, hhbm, hstrayed⟩ := (s.crown.mapBegin q l).mapCell_some q l (p := p) (by omega)
  exact ⟨_, runsOnHbm.next_of_eq (f := (·.remap q l p)) hrun (s.crown.remap_good hbusy hp hbad huser) (by rw [hstrayed, hstrayBegun, hstray]),
    hvalid, hphys, hflag.trans hset, hhbm.trans hbegun, rfl⟩

/-! ### UNLOAD (R286) -/

theorem Crown.setEns_hbm (c : Crown) (e : Nat) (x : Option Ensemble) : (c.setEns e x).hbm = c.hbm := (rfl)
theorem Crown.setEns_ens (c : Crown) (e : Nat) (x : Option Ensemble) : (c.setEns e x).tree.ens = c.tree.ens.set (fun _ => none) e x := (rfl)
theorem Crown.s_tree (c : Crown) (f : Fld) (v : Nat) : (c.s f v).tree = c.tree := (rfl)

theorem Crown.s_ensInUse (c : Crown) (f : Fld) (v e : Nat) : (c.s f v).ensInUse e = c.ensInUse e := (rfl)

/-- The slot's own registers after UNLOAD are those of a FREE slot. -/
def Crown.ensFree (c : Crown) (e : Nat) : Crown :=
  (((c.setEns e none).on (fun n => (n.setWord (BZ_ENSe_STAT e) 0).setWord (BZ_ENSe_INFO e) 0)).s (BZ_ENSe_TAG_LO_TAG_LO e) 0).s (BZ_ENSe_TAG_HI_TAG_HI e) 0

theorem Crown.ensSettle_idle (c : Crown) {e : Nat} (hstate : c.ensState e = 4) (hidle : c.ensInUse e = false) : c.ensSettle e = c.ensFree e := by
  unfold Crown.ensSettle
  rw [if_pos (by simp [hstate, hidle])]
  rfl

theorem Crown.ensFree_state (c : Crown) (e : Nat) : (c.ensFree e).ensState e = 0 := by
  have hoff {o : Nat} (h : o ≠ 0) : 0xC0108 + 0x20 * e ≠ 0xC0108 + o + 0x20 * e := by omega
  have hword (n : Node) : ((n.setWord (BZ_ENSe_STAT e) 0).setWord (BZ_ENSe_INFO e) 0).g (BZ_ENSe_STAT_STATE e) = 0 := by
    have hread : ((n.setWord (BZ_ENSe_STAT e) 0).setWord (BZ_ENSe_INFO e) 0).word (BZ_ENSe_STAT e) = 0 := by
      rw [Node.word_setWord_ne _ _ (by dsimp only [BZ_ENSe_STAT, BZ_ENSe_INFO]; omega), Node.word_setWord_self]
    rw [Node.g, show (BZ_ENSe_STAT_STATE e).off = BZ_ENSe_STAT e from rfl, hread]
    rfl
  rw [Crown.ensFree, Crown.ensState, Crown.g_s_apart _ _ (Fld.apart_of_off (hoff (o := 0xC) (by decide))),
    Crown.g_s_apart _ _ (Fld.apart_of_off (hoff (o := 8) (by decide)))]
  exact hword _

theorem Crown.ensFree_ens (c : Crown) (e : Nat) : (c.ensFree e).tree.ens.get (fun _ => none) e = none := by
  rw [Crown.ensFree, Crown.s_tree, Crown.s_tree, Crown.on_tree, Crown.setEns_ens, Tab.get_set_self]

theorem Crown.ensFree_hbm (c : Crown) (e : Nat) : (c.ensFree e).hbm = c.hbm := by
  rw [Crown.ensFree, Crown.s_hbm, Crown.s_hbm, Crown.on_hbm, Crown.setEns_hbm]

/-- UNLOAD of an idle slot frees it. -/
theorem Crown.ensUnload_idle (c : Crown) {e : Nat} (h : c.ensState e ≠ 0) (hidle : c.ensInUse e = false) :
    c.ensUnload e = (c.s (BZ_ENSe_STAT_STATE e) 4).ensFree e := by
  rw [Crown.ensUnload, if_neg h, Crown.ensSettle_idle _ _ ((Crown.s_ensInUse ..).trans hidle)]
  rw [Crown.ensState, Crown.g_s_self _ _ (show 31 < 32 by decide) (show 29 ≤ 31 by decide)]
  rfl

/-- Settles O40. -/
theorem unloadFreesSlot : Obligations.UnloadFreesSlot := by
  intro s e _ hidle
  have hrun : runsOnCrown (.unload e) free (·.ensUnload e) := runsOnCrown_of_byCrown fun _ => rfl
  by_cases hfree : s.crown.ensState e = 0
  · have hsame : s.crown.ensUnload e = s.crown := if_pos hfree
    exact ⟨_, runsOnCrown.next_of_eq (f := (·.ensUnload e)) hrun hsame, hfree, fun h => absurd hfree h, rfl, rfl⟩
  · exact ⟨_, runsOnCrown.next_of_eq (f := (·.ensUnload e)) hrun (s.crown.ensUnload_idle hfree hidle), Crown.ensFree_state _ _, fun _ => Crown.ensFree_ens _ _,
      (Crown.ensFree_hbm _ _).trans (Crown.s_hbm ..), rfl⟩

end Sys2Proof.Machine
end

section
/-! ## A Twig's cycle (R63, R86) -/

namespace Sys2Proof.Machine

/-! ### What a Twig's cycle does before it counts -/

/-- The Twig `u` has the counters of `t`, its waiting restarts and its configuration but for TWIG_ERR. -/
structure Twig.Counts (t u : Twig) : Prop where
  ctr : u.ctr = t.ctr
  starts : u.starts = t.starts
  raw : ∀ n, n ≠ 2 → u.raw n = t.raw n

namespace Twig.Counts

theorem refl (t : Twig) : t.Counts t := ⟨rfl, rfl, fun _ _ => rfl⟩

theorem trans {t u v : Twig} (h : t.Counts u) (k : u.Counts v) : t.Counts v :=
  ⟨k.ctr.trans h.ctr, k.starts.trans h.starts, fun n hn => (k.raw n hn).trans (h.raw n hn)⟩

/-- TWIG_ERR is word 2. -/
theorem err (t : Twig) (hi : Bool) : t.Counts (t.err hi) := ⟨rfl, rfl, fun _ hn => Tab.get_set_ne _ _ _ hn⟩

theorem close (t : Twig) (b : Nat) : t.Counts (t.close b) := ⟨rfl, rfl, fun _ _ => rfl⟩

theorem openBin (t : Twig) (b tag : Nat) : t.Counts (t.openBin b tag) := ⟨rfl, rfl, fun _ _ => rfl⟩

theorem charge (t : Twig) (b state : Nat) : t.Counts (t.charge b state) := ⟨rfl, rfl, fun _ _ => rfl⟩

theorem flushStep (t : Twig) : t.Counts t.flushStep.1 := by
  unfold Twig.flushStep
  split
  · exact ⟨rfl, rfl, fun _ _ => rfl⟩
  · split <;> exact ⟨rfl, rfl, fun _ _ => rfl⟩

theorem sample (t : Twig) (i : TwigIn) : t.Counts (t.sample i) := by
  unfold Twig.sample
  split
  · split
    · exact ⟨rfl, rfl, fun _ _ => rfl⟩
    · exact (err t true).trans ⟨rfl, rfl, fun _ _ => rfl⟩
  · exact ⟨rfl, rfl, fun _ _ => rfl⟩

theorem place (t : Twig) (tag : Nat) : t.Counts (t.place tag).1 := by
  unfold Twig.place
  split
  · exact refl t
  · split
    · exact refl t
    · split
      · exact openBin ..
      · split
        · exact (close ..).trans (openBin ..)
        · split
          · exact refl t
          · exact ⟨rfl, rfl, fun _ _ => rfl⟩

end Twig.Counts

/-! ### Counting (R63, R86) -/

theorem Twig.counter_setCounter (t : Twig) (c d : Nat) (k : Counter) : (t.setCounter c k).counter d = if d = c then k else t.counter d := Tab.get_set ..

/-- Each counter below `n` adds its own amount. -/
theorem Twig.counter_adds (t : Twig) (f : Nat → Nat) (n d : Nat) :
    ((List.range n).foldl (fun u c => u.setCounter c ((u.counter c).add (f c))) t).counter d = if d < n then (t.counter d).add (f d) else t.counter d := by
  induction n with
  | zero => simp
  | succ n ih =>
    rw [List.range_succ, List.foldl_append, List.foldl_cons, List.foldl_nil, Twig.counter_setCounter]
    by_cases hd : d = n
    · subst hd
      rw [if_pos rfl, ih, if_neg (by omega), if_pos (by omega)]
    · rw [if_neg hd, ih]
      exact if_congr (by omega) rfl rfl

/-- A counter of class CYCLES adds 1, whatever the privilege level and the cycle. -/
theorem Twig.amount_cycles (t : Twig) (i : TwigIn) {c : Nat} (changes closes : Nat) (h : bitsOf (t.raw (16 + c)) 27 25 = 0) : t.amount i c changes closes = 1 := by
  simp only [Twig.amount, h]

/-- The end of a cycle: the counters add, SLOT_ERR counts, and the cycle's command is kept for the next. -/
def Twig.countCycle (t : Twig) (i : TwigIn) (changes closes : Nat) : Twig :=
  let adds := (List.range 16).map (fun c => t.amount i c changes closes)
  let t := (List.range 16).foldl (fun u c => u.setCounter c ((u.counter c).add (adds.getD c 0))) t
  let t := if i.nIssue > t.slotW then t.err false else t
  { t with prevTag := if i.cmd then some i.tag else t.prevTag, lastPriv := if i.cmd then i.priv else t.lastPriv, prevState := i.state }

theorem Twig.countCycle_counter (t : Twig) (i : TwigIn) (changes closes : Nat) {c : Nat} (hc : c < 16) :
    (t.countCycle i changes closes).counter c = (t.counter c).add (t.amount i c changes closes) := by
  have hend (u : Twig) : (if i.nIssue > u.slotW then u.err false else u).counter c = u.counter c := by
    split <;> rfl
  have hadd : ((List.range 16).map (fun c => t.amount i c changes closes)).getD c 0 = t.amount i c changes closes := by
    simp [List.getD, hc]
  refine (hend _).trans ?_
  rw [Twig.counter_adds, if_pos hc, hadd]

/-- The Twig of a cycle after its flush. -/
def Twig.flushed (t : Twig) : Twig × Nat := ({ t with cyc := t.cyc + 1 } : Twig).flushStep

/-- The Twig of a cycle after its tag change and the restarts of its counters. -/
def Twig.restarted (t : Twig) (i : TwigIn) : Twig := (t.flushed.1.sample i).starts.foldl Twig.restart { t.flushed.1.sample i with starts := [] }

/-- The bin of a cycle, found or opened. -/
def Twig.placed (t : Twig) (i : TwigIn) : Twig × Option Nat × Nat := if i.cmd && i.state != 0 then t.place i.tag else (t, none, 0)

/-- The Twig of a cycle after its bin is charged. -/
def Twig.charged (t : Twig) (i : TwigIn) : Twig := match (t.placed i).2.1 with
  | none => (t.placed i).1
  | some b => (t.placed i).1.charge b i.state

theorem Twig.cycle_eq (t : Twig) (i : TwigIn) (h : t.inReset = false) : t.cycle i =
    ((t.restarted i).charged i).countCycle i (b2n (t.flushed.1.changed i)) (t.flushed.2 + ((t.restarted i).placed i).2.2) :=
  if_neg (by rw [h]; decide)

namespace Twig.Counts

theorem flushed (t : Twig) : t.Counts t.flushed.1 := Twig.Counts.trans (u := { t with cyc := t.cyc + 1 }) ⟨rfl, rfl, fun _ _ => rfl⟩ (.flushStep _)

/-- With no restart waiting, no counter restarts. -/
theorem restarted {t : Twig} (i : TwigIn) (h : t.starts = []) : t.Counts (t.restarted i) := by
  have hsample := (flushed t).trans (sample _ i)
  unfold Twig.restarted
  generalize t.flushed.1.sample i = u at hsample
  have hstarts : u.starts = [] := hsample.starts.trans h
  rw [hstarts, List.foldl_nil]
  exact ⟨hsample.ctr, h.symm, hsample.raw⟩

theorem placed (t : Twig) (i : TwigIn) : t.Counts (t.placed i).1 := by
  unfold Twig.placed
  split
  · exact place ..
  · exact refl t

theorem charged (t : Twig) (i : TwigIn) : t.Counts (t.charged i) := by
  unfold Twig.charged
  split
  · exact placed ..
  · exact (placed ..).trans (charge ..)

end Twig.Counts

theorem Twig.cycle_counter (t : Twig) (i : TwigIn) {c : Nat} (hin : t.inReset = false) (hstarts : t.starts = []) (hc : c < 16)
    (hclass : bitsOf (t.raw (16 + c)) 27 25 = 0) : (t.cycle i).counter c = (t.counter c).add 1 := by
  have hcounts := (Twig.Counts.restarted i hstarts).trans (.charged _ i)
  have hraw := hcounts.raw (16 + c) (by omega)
  have hctr : ((t.restarted i).charged i).counter c = t.counter c := congrArg (fun k => Tab.get (fun _ => Counter.zero) k c) hcounts.ctr
  rw [Twig.cycle_eq t i hin, Twig.countCycle_counter _ i _ _ hc, Twig.amount_cycles _ i _ _ (by rw [hraw, hclass]), hctr]

/-! ### A Twig's cycle in the leaf -/

/-- While L-SAP runs a cycle is the Twig's own. -/
theorem Leaf.twigCycle_running (l : Leaf) (t : Nat) (i : TwigIn) (h : l.sapHeld = false) : l.twigCycle t i = l.setTwig t ((l.twig t).cycle i) := by
  have hheld : (bitOf l.boot.held 2 || l.boot.held % 2 == 1) = false := by
    have hbits := h
    simp only [Leaf.sapHeld, Bool.or_eq_false_iff] at hbits
    obtain ⟨⟨h2, h0⟩, -⟩ := hbits
    rw [bitOf, Nat.testBit_zero, decide_eq_false_iff_not] at h0
    rw [h2, Bool.false_or, beq_eq_false_iff_ne]
    exact h0
  rw [Leaf.twigCycle, h, hheld, if_neg (by decide), if_neg (by decide)]

theorem Leaf.counter_setTwig (l : Leaf) (t c : Nat) (w : Twig) : ((l.setTwig t w).twig t).counter c = w.counter c := by
  obtain ⟨p, hp⟩ := l.twig_setTwig_self t w
  rw [hp]
  rfl

/-- Settles O24. -/
theorem cyclesCounter : Obligations.CyclesCounter := by
  have hrun (w : LeafSel) (t : Nat) (i : TwigIn) : runsOnLeaf (.twigHostCycle w t i) w free (·.twigCycle t i) := runsOnLeaf_of_byLeaf fun _ => rfl
  refine ⟨fun s w t i halive hreset => ?_, fun s w t c i halive hreset hstarts hc hclass => ?_⟩
  · have hcycle : ((s.leafOf w).twig t).cycle i = (s.leafOf w).twig t := if_pos hreset
    exact runsOnLeaf.next_of_eq (hrun w t i) rfl (by rw [Leaf.twigCycle_running _ _ _ halive, hcycle])
  · refine ⟨_, runsOnLeaf.next_of_eq (g := (·.setTwig t (((s.leafOf w).twig t).cycle i))) (hrun w t i) rfl (Leaf.twigCycle_running _ _ _ halive), ?_⟩
    rw [State.leafOf_onLeaf, Leaf.counter_setTwig, Twig.cycle_counter _ i hreset hstarts hc hclass]
    exact ⟨rfl, rfl, rfl⟩

end Sys2Proof.Machine
end

section
/-! ## A lane that is silenced (R203) -/

namespace Sys2Proof.Machine

/-! ### The time parent of a leaf (R41) -/

/-- What a change of the time parent leaves: a reading apart from the packer, from time and from the outputs, if the two registers entered are not read. -/
theorem Node.ApartFromPacker.reparent {α : Type} {p : Node → α} (hp : Node.ApartFromPacker p) (hemit : ∀ n o, p (Node.emit n o) = p n)
    (htime : ∀ (n : Node) t, p { n with time := t } = p n) {n : Node} (lane : Nat)
    (hs : ∀ (m : Node) (f : Fld) (v : Nat), m.crown = n.crown → (m.crown = true ∧ f.off = BZ_TIME_SRC_LANE.off ∨ f.off = n.tb + 0x10) → p (m.s f v) = p m) :
    p (n.reparent lane) = p n := by
  have hchange (m : Node) : p m.reportChange = p m := by
    unfold Node.reportChange
    split
    · rfl
    · exact (hp.report hemit _ (by decide)).trans (htime ..)
  have hfollow (m : Node) (v : Nat) (hc : m.crown = n.crown) :
      p (m.s (TIME_STATUS_UPHOLD m.tb) v).reportChange = p m := by
    have htb : m.tb = n.tb := by rw [Node.tb, hc, Node.tb]
    rw [hchange]
    exact hs m _ v hc (.inr (congrArg (· + 0x10) htb))
  unfold Node.reparent
  split
  · rfl
  extract_lets t0 t n1 n2
  have h1 : p n1 = p n := htime n t
  have hc1 : n1.crown = n.crown := rfl
  clear_value n1
  have hsrc : p n2 = p n1 ∧ n2.crown = n.crown := by
    dsimp only [n2]
    split
    · exact ⟨hs n1 _ _ hc1 (.inl ⟨‹_›, rfl⟩), hc1⟩
    · exact ⟨rfl, hc1⟩
  exact (hfollow n2 _ hsrc.2).trans (hsrc.1.trans h1)

theorem Node.leafParent_crown (n : Node) : n.leafParent.crown = n.crown :=
  Node.apartFromPacker_crown.reparent (fun _ _ => rfl) (fun _ _ => rfl) _ (fun _ _ _ _ _ => rfl)

/-- The registers of a lane are none of those that a change of the time parent enters. -/
theorem Node.leafParent_word (n : Node) {k o : Nat} (hk : k < 2) (ho : o < 0x100) : n.leafParent.word (n.lb k + o) = n.word (n.lb k + o) := by
  refine Node.ApartFromPacker.reparent (p := (·.word (n.lb k + o))) (Node.apartFromPacker_word (not_packCount ?_)) (fun _ _ => rfl) (fun _ _ => rfl) _
    (fun m f v hc hf => m.word_s_ne f v ?_)
  · rw [Node.lb]
    split <;> omega
  · rw [hc, show BZ_TIME_SRC_LANE.off = 0x10104 from rfl] at hf
    obtain ⟨hcrown, hoff⟩ | hoff := hf
    · rw [Node.lb, if_pos hcrown, hoff]
      omega
    · rw [hoff, Node.lb, Node.tb]
      split <;> omega

/-! ### A lane that is silenced (R203) -/

/-- The registers of a state entered. -/
def Node.stateRegs (n : Node) (k st : Nat) : Node := (n.s (BK_STAT_STATE (n.lb k)) st).s (BK_STAT_IN_SERVICE (n.lb k)) (if st = 10 then 1 else 0)

theorem Node.s_crown (n : Node) (f : Fld) (v : Nat) : (n.s f v).crown = n.crown := (rfl)

theorem Node.stateRegs_crown (n : Node) (k st : Nat) : (n.stateRegs k st).crown = n.crown := by rw [Node.stateRegs, Node.s_crown, Node.s_crown]

/-- A lane that has entered a state, from the node with the state's registers. -/
def Node.entered (n : Node) (k st : Nat) (on : Bool) : Node :=
  let n := n.setLane k { n.lane k with since := n.ns }
  if on then n else (n.onTx k (·.begin_ (st == 8) (n.transmits k))).onRx k (fun x => { x with slot := 0 })

theorem Node.enter_eq (n : Node) (k st : Nat) : n.enter k st =
    (n.stateRegs k st).entered k st (decide (8 ≤ n.laneState k) && n.laneState k != 9 && (st == 10 || st == 11)) := rfl

/-- Entering a state writes no further register. -/
theorem Node.entered_regs (n : Node) (k st : Nat) (on : Bool) : (n.entered k st on).crown = n.crown ∧ ∀ o, (n.entered k st on).word o = n.word o := by
  have hset (m : Node) (x : Lane) : (m.setLane k x).crown = m.crown ∧ ∀ o, (m.setLane k x).word o = m.word o := ⟨rfl, fun _ => rfl⟩
  obtain ⟨hc, hw⟩ := hset n { n.lane k with since := n.ns }
  unfold Node.entered
  generalize n.setLane k { n.lane k with since := n.ns } = m at hc hw ⊢
  dsimp only
  split
  · exact ⟨hc, hw⟩
  · rw [Node.onRx, Node.onTx]
    exact ⟨(hset _ _).1.trans ((hset _ _).1.trans hc), fun o => ((hset _ _).2 o).trans (((hset _ _).2 o).trans (hw o))⟩

/-- The lane's EN is 0. -/
def Node.LaneDisabled (k : Nat) (n : Node) : Prop := n.flag (BK_CTRL_EN (n.lb k)) = false

theorem Node.lb_congr {n m : Node} (h : m.crown = n.crown) (k : Nat) : m.lb k = n.lb k := by rw [Node.lb, h, Node.lb]

theorem Node.flag_congr {n m : Node} {f : Fld} (h : m.word f.off = n.word f.off) : m.flag f = n.flag f := by rw [Node.flag, Node.g, h, Node.flag, Node.g]

namespace Node.LaneDisabled

variable {k : Nat} {n : Node} (h : n.LaneDisabled k)
include h

/-- EN is in the first of a lane's registers. -/
theorem of_word {m : Node} (hc : m.crown = n.crown) (hw : m.word (n.lb k) = n.word (n.lb k)) : m.LaneDisabled k := by
  rw [Node.LaneDisabled, Node.lb_congr hc]
  exact (Node.flag_congr hw).trans h

theorem s {f : Fld} (v : Nat) (hf : n.lb k ≠ f.off) : (n.s f v).LaneDisabled k := h.of_word rfl (n.word_s_ne f v hf)

theorem s_lane (hi lo o v : Nat) (ho : o ≠ 0) : (n.s ⟨n.lb k + o, hi, lo⟩ v).LaneDisabled k := h.s v (show n.lb k ≠ n.lb k + o by omega)

theorem setLane (x : Lane) : (n.setLane k x).LaneDisabled k := h.of_word rfl rfl

theorem enter (st : Nat) : (n.enter k st).LaneDisabled k := by
  have hlb : n.lb k ≠ n.lb k + 0x10 := by omega
  have hup : (n.stateRegs k st).LaneDisabled k := h.of_word (n.stateRegs_crown k st) (by
    rw [Node.stateRegs, Node.word_s_ne _ (BK_STAT_IN_SERVICE (n.lb k)) _ hlb, Node.word_s_ne _ (BK_STAT_STATE (n.lb k)) _ hlb])
  have hrest := (n.stateRegs k st).entered_regs k st (decide (8 ≤ n.laneState k) && n.laneState k != 9 && (st == 10 || st == 11))
  rw [Node.enter_eq]
  exact of_word (n := n.stateRegs k st) hup hrest.1 (hrest.2 _)

theorem dropEngine (hk : k < 2) : (n.dropEngine k).LaneDisabled k := by
  unfold Node.dropEngine
  split
  · exact h
  · next e _ =>
    have hset := h.setLane { n.lane k with engine := none }
    dsimp only
    split
    · next hcrown =>
      refine hset.s _ ?_
      rw [Node.lb, if_pos hcrown, show BZ_BK_ENG_BUSY.off = 0x7F004 from rfl]
      omega
    · exact hset

theorem freezeStore (c : Nat) : (n.freezeStore c).LaneDisabled k := by
  unfold Node.freezeStore
  dsimp only
  split
  · exact h
  · exact h.of_word rfl rfl

theorem log (typ : Nat) (body : List Byte) (hk : k < 2) : (n.log typ body).LaneDisabled k := by
  refine h.of_word (Node.apartFromPacker_crown.log ..) (Node.ApartFromPacker.log (p := (·.word (n.lb k))) (Node.apartFromPacker_word (not_packCount ?_)) ..)
  rw [Node.lb]
  split <;> omega

theorem laneDown (event : Nat) (hk : k < 2) : (n.laneDown k event).LaneDisabled k := by
  have hfreeze : ∀ (xs : List Nat) (m : Node), m.LaneDisabled k → (xs.foldl Node.freezeStore m).LaneDisabled k := by
    intro xs
    induction xs with
    | nil => exact fun _ hm => hm
    | cons c xs ih => exact fun m hm => ih _ (hm.freezeStore c)
  unfold Node.laneDown
  extract_lets n1 n2 x n3
  have h1 : n1.LaneDisabled k := hfreeze _ _ h
  have h2 : n2.LaneDisabled k := (h1.s_lane 31 0 0x34 _ (by decide)).log _ _ hk
  have h3 : n3.LaneDisabled k := h2.setLane _
  have hdrop := (h3.s_lane 27 25 0x10 0 (by decide)).dropEngine hk
  exact (hdrop.s_lane 31 16 0x20 0x8000 (by decide)).enter 1

end Node.LaneDisabled

/-- A lane that has entered OFF shows it, and is out of service. -/
theorem Node.enter_off (n : Node) (k : Nat) : (n.enter k 0).laneState k = 0 ∧ (n.enter k 0).up k = false := by
  have hrest := (n.stateRegs k 0).entered_regs k 0 (decide (8 ≤ n.laneState k) && n.laneState k != 9 && ((0 : Nat) == 10 || (0 : Nat) == 11))
  have hlb : ((n.stateRegs k 0).entered k 0 (decide (8 ≤ n.laneState k) && n.laneState k != 9 && ((0 : Nat) == 10 || (0 : Nat) == 11))).lb k = n.lb k :=
    Node.lb_congr (hrest.1.trans (n.stateRegs_crown k 0)) k
  have hapart : Fld.apart (BK_STAT_IN_SERVICE (n.lb k)) (BK_STAT_STATE (n.lb k)) = true := by simp [Fld.apart, BK_STAT_IN_SERVICE, BK_STAT_STATE]
  rw [Node.enter_eq, Node.laneState, Node.up, hlb]
  generalize (n.stateRegs k 0).entered k 0 (decide (8 ≤ n.laneState k) && n.laneState k != 9 && ((0 : Nat) == 10 || (0 : Nat) == 11)) = m at hrest
  constructor
  · have hword : m.g (BK_STAT_STATE (n.lb k)) = (n.stateRegs k 0).g (BK_STAT_STATE (n.lb k)) := by
      rw [Node.g, hrest.2, Node.g]
    rw [hword, Node.stateRegs, Node.g_s_apart _ _ hapart, Node.g_s_self _ _ _ (show 31 < 32 by decide) (show 28 ≤ 31 by decide), Nat.zero_mod]
  · refine (Node.flag_congr (hrest.2 _)).trans ?_
    rw [Node.stateRegs, Node.flag_s_self _ (show 22 < 32 by decide) (show 22 ≤ 22 by decide)]
    rfl

/-- EN of 0 leaves the lane OFF and out of service. -/
theorem Node.laneEn_false (n : Node) {k : Nat} (hk : k < 2) : (n.laneEn k false).laneState k = 0 ∧ (n.laneEn k false).up k = false ∧
    (n.laneEn k false).LaneDisabled k := by
  have hoff : (n.s (BK_CTRL_EN (n.lb k)) (b2n false)).LaneDisabled k := by
    rw [Node.LaneDisabled, Node.lb_congr (n.s_crown _ _),
      Node.flag_s_self _ (show 31 < 32 by decide) (show 31 ≤ 31 by decide)]
    rfl
  unfold Node.laneEn
  generalize n.s (BK_CTRL_EN (n.lb k)) (b2n false) = m at hoff ⊢
  dsimp only
  rw [if_neg Bool.false_ne_true]
  have hdown : (if m.serving k then m.laneDown k 1 else m.dropEngine k).LaneDisabled k := by
    split
    · exact hoff.laneDown 1 hk
    · exact hoff.dropEngine hk
  generalize (if m.serving k then m.laneDown k 1 else m.dropEngine k) = d at hdown ⊢
  obtain ⟨hstate, hup⟩ := (d.s (BK_STAT_MODE (d.lb k)) 0).enter_off k
  exact ⟨hstate, hup, (hdown.s_lane 27 25 0x10 0 (by decide)).enter 0⟩

/-- A change of the time parent leaves the lane as it is. -/
theorem Node.leafParent_lane (n : Node) {k : Nat} (hk : k < 2) : n.leafParent.laneState k = n.laneState k ∧ n.leafParent.up k = n.up k ∧
    n.leafParent.flag (BK_CTRL_EN (n.leafParent.lb k)) = n.flag (BK_CTRL_EN (n.lb k)) := by
  rw [Node.laneState, Node.up, Node.lb_congr n.leafParent_crown, Node.laneState, Node.up, Node.g, Node.g]
  refine ⟨?_, Node.flag_congr (n.leafParent_word hk (show 0x10 < 0x100 by decide)), Node.flag_congr (n.leafParent_word hk (show 0 < 0x100 by decide))⟩
  exact congrArg (fun w => bitsOf (BitVec.toNat w) 31 28) (n.leafParent_word hk (show 0x10 < 0x100 by decide))

/-- Settles O36. -/
theorem laneSilenced : Obligations.LaneSilenced := by
  intro s w k halive hk
  have hrun : runsOnLeaf (.laneEnWrite w.block k false) w (·.laneDead k) (·.on (fun n => (n.laneEn k false).leafParent)) := runsOnLeaf_of_byLane fun _ => rfl
  refine ⟨_, hrun s halive, ?_⟩
  obtain ⟨hstate, hup, hen⟩ := (s.leafOf w).toNode.laneEn_false hk
  obtain ⟨hstateKept, hupKept, henKept⟩ := ((s.leafOf w).toNode.laneEn k false).leafParent_lane hk
  rw [State.leafOf_onLeaf, Leaf.on_toNode]
  exact ⟨hstateKept.trans hstate, hupKept.trans hup, henKept.trans hen⟩

end Sys2Proof.Machine
end

section
/-! ## The clocks of a leaf in a nanosecond (R32) -/

namespace Sys2Proof.Machine

/-! ### What a lane's nanosecond leaves alone -/

/-- A reading of the node that no lane, no class queue, no output and no stamp of an exchange enters. -/
structure Node.ApartFromSending {α : Type} (p : Node → α) : Prop where
  setQ : ∀ n k x, p (Node.setQ n k x) = p n
  setLane : ∀ n k x, p (Node.setLane n k x) = p n
  emit : ∀ n o, p (Node.emit n o) = p n
  served : ∀ (n : Node) x, p { n with time := { n.time with served := x } } = p n
  opened : ∀ (n : Node) x, p { n with time := { n.time with open_ := x } } = p n

theorem Node.apartFromSending_timeWord : Node.ApartFromSending (fun n => n.time.word) :=
  ⟨fun _ _ _ => rfl, fun _ _ _ => rfl, fun _ _ => rfl, fun _ _ => rfl, fun _ _ => rfl⟩

theorem Node.apartFromSending_ns : Node.ApartFromSending Node.ns := ⟨fun _ _ _ => rfl, fun _ _ _ => rfl, fun _ _ => rfl, fun _ _ => rfl, fun _ _ => rfl⟩

theorem Node.apartFromSending_crown : Node.ApartFromSending Node.crown := ⟨fun _ _ _ => rfl, fun _ _ _ => rfl, fun _ _ => rfl, fun _ _ => rfl, fun _ _ => rfl⟩

theorem Node.apartFromSending_regs : Node.ApartFromSending Node.regs := ⟨fun _ _ _ => rfl, fun _ _ _ => rfl, fun _ _ => rfl, fun _ _ => rfl, fun _ _ => rfl⟩

section
variable {α : Type} {p : Node → α} (hp : Node.ApartFromSending p)
include hp

theorem Node.ApartFromSending.onTx (n : Node) (k : Nat) (f : LaneTx → LaneTx) : p (n.onTx k f) = p n := hp.setLane ..

theorem Node.ApartFromSending.stampTimes (fuel : Nat) (n : Node) (lane t : Nat) (l : List Byte) : p (n.stampTimes fuel lane t l).1 = p n := by
  induction fuel generalizing n l with
  | zero => rfl
  | succ m ih =>
    unfold Node.stampTimes
    extract_lets len
    split
    · rfl
    · rename_i seq t0 m0 x hlen
      refine (ih _ _).trans ?_
      dsimp only [m0]
      split
      · split
        · exact hp.served ..
        · rfl
      · split
        · exact hp.opened ..
        · rfl
      · rfl

theorem Node.ApartFromSending.sendTimed (n : Node) (lane at_ : Nat) (f : Frame) : p (n.sendTimed lane at_ f).1 = p n := by
  have hstamp := hp.stampTimes 16 n lane (at_ + n.latTx lane) f.payload
  rw [Node.sendTimed]
  generalize n.stampTimes 16 lane (at_ + n.latTx lane) f.payload = x at hstamp ⊢
  obtain ⟨m, payload⟩ := x
  exact (hp.emit _ _).trans ((hp.setQ _ _ _).trans hstamp)

theorem Node.ApartFromSending.placeTimed (n : Node) (k at_ : Nat) : p (n.placeTimed k at_).1 = p n := by
  unfold Node.placeTimed
  split
  · next f r _ _ =>
    split
    · rfl
    · have hsent := hp.sendTimed n k at_ f
      generalize n.sendTimed k at_ f = x at hsent ⊢
      obtain ⟨m, g⟩ := x
      dsimp only
      rw [hp.onTx, hsent]
  · rfl

theorem Node.ApartFromSending.dataCodeword (n : Node) (k i at_ : Nat) : p (n.dataCodeword k i at_).1 = p n := by
  have htimed : p (if i = 0 then n.placeTimed k at_ else (n, false)).1 = p n := by
    split
    · exact hp.placeTimed ..
    · rfl
  unfold Node.dataCodeword
  generalize (if i = 0 then n.placeTimed k at_ else (n, false)) = x at htimed ⊢
  obtain ⟨m, tsm⟩ := x
  dsimp only
  rw [hp.onTx, htimed]

theorem Node.ApartFromSending.laneCodeword (n : Node) (k i at_ : Nat) : p (n.laneCodeword k i at_).1 = p n := by
  unfold Node.laneCodeword
  split
  · dsimp only
    rw [hp.onTx]
  · split
    · exact hp.dataCodeword ..
    · rfl

theorem Node.ApartFromSending.nextBark (n : Node) (k at_ : Nat) : p (n.nextBark k at_) = p n := by
  have hcws := foldl_keeps (fun a : Node × List Codeword => p a.1) (fun a i => ((a.1.laneCodeword k i at_).1, a.2 ++ [(a.1.laneCodeword k i at_).2]))
    (fun a i => hp.laneCodeword a.1 k i at_) (List.range 8) (n, [])
  unfold Node.nextBark
  generalize (List.range 8).foldl (fun (a : Node × List Codeword) i => ((a.1.laneCodeword k i at_).1, a.2 ++ [(a.1.laneCodeword k i at_).2])) (n, []) = x
    at hcws ⊢
  obtain ⟨m, cws⟩ := x
  dsimp only
  rw [hp.onTx, hcws]

theorem Node.ApartFromSending.nextTraining (n : Node) (k typ total : Nat) : p (n.nextTraining k typ total) = p n := by
  unfold Node.nextTraining
  dsimp only
  rw [hp.onTx, hp.emit]

theorem Node.ApartFromSending.laneTick (n : Node) (k : Nat) : p (n.laneTick k) = p n := by
  unfold Node.laneTick
  split
  · rfl
  · refine (hp.onTx _ _ _).trans ?_
    split
    · rfl
    · split
      · exact hp.nextTraining ..
      · exact hp.nextBark ..

theorem Node.ApartFromSending.lanesTick (n : Node) (dead : Nat → Bool) : p (n.lanesTick dead) = p n :=
  foldl_keeps p _ (fun n e => by
    split
    · rfl
    · exact hp.laneTick ..) _ _

end

/-! ### The clocks of a leaf in a nanosecond (R32) -/

/-- A reading of the leaf's node that neither an armed job nor the trace port enters. -/
structure Node.ApartFromTick {α : Type} (p : Node → α) : Prop extends Node.ApartFromPacker p where
  s : ∀ n f v, p (Node.s n f v) = p n

theorem Node.apartFromTick_timeWord : Node.ApartFromTick (fun n => n.time.word) := ⟨Node.apartFromPacker_timeWord, fun _ _ _ => rfl⟩

theorem Node.apartFromTick_ns : Node.ApartFromTick Node.ns := ⟨⟨fun _ _ _ => rfl, fun _ _ _ _ => rfl, fun _ _ => rfl⟩, fun _ _ _ => rfl⟩

section
variable {α : Type} {p : Node → α} (hp : Node.ApartFromTick p)
include hp

theorem Node.ApartFromTick.leaf_s (l : Leaf) (f : Fld) (v : Nat) : p (l.s f v).toNode = p l.toNode := hp.s ..

theorem Node.ApartFromTick.jobReport (l : Leaf) (a : Armed) (started : Bool) : p (l.jobReport a started).toNode = p l.toNode :=
  hp.toApartFromPacker.bulkUp ..

theorem Node.ApartFromTick.jobStart (l : Leaf) (a : Armed) : p (l.jobStart a).toNode = p l.toNode := by
  unfold Leaf.jobStart
  split
  · exact hp.jobReport ..
  · extract_lets full now l1
    have h1 : p l1.toNode = p l.toNode := by
      dsimp only [l1]
      split
      · exact hp.leaf_s ..
      · rfl
    clear_value l1
    exact (hp.jobReport ..).trans ((hp.leaf_s ..).trans h1)

theorem Node.ApartFromTick.jobTime (l : Leaf) : p l.jobTime.toNode = p l.toNode :=
  foldl_keeps (fun l : Leaf => p l.toNode) _ (fun l a => hp.jobStart l a) _ _

theorem Node.ApartFromTick.trcStatus (l : Leaf) (c : Nat) : p (l.trcStatus c).toNode = p l.toNode := by
  unfold Leaf.trcStatus
  simp only [hp.leaf_s]

theorem Node.ApartFromTick.tracePort (l : Leaf) : p l.tracePort.toNode = p l.toNode := by
  have hconflict (l : Leaf) : p (l.count TZ_TRC_CONFLICT_COUNT).toNode = p l.toNode := hp.leaf_s ..
  unfold Leaf.tracePort
  extract_lets busy l1 want age
  have h1 : p l1.toNode = p l.toNode := rfl
  clear_value l1 want age
  split
  · exact h1
  · split
    · exact (hconflict _).trans h1
    · extract_lets c l2 x
      have h2 : p l2.toNode = p l1.toNode := by
        dsimp only [l2]
        split
        · rfl
        · exact hconflict _
      clear_value l2
      split
      · exact h2.trans h1
      · exact (hp.trcStatus ..).trans ((hp.leaf_s ..).trans (h2.trans h1))

theorem Node.ApartFromTick.leafTick (l : Leaf) :
    p l.tick.toNode = p (l.toNode.tick (!bitOf l.boot.failed 1 && !bitOf l.boot.held 1 && !bitOf l.boot.held 0) (!bitOf l.boot.failed 0 && !bitOf l.boot.held 0)) := by
  unfold Leaf.tick
  extract_lets runs sap l1 g l2 l3
  have h1 : p l1.toNode = p (l.toNode.tick runs (!bitOf l.boot.failed 0 && !bitOf l.boot.held 0)) := rfl
  have h2 : p l2.toNode = p l1.toNode := by
    dsimp only [l2]
    split <;> rfl
  have h3 : p l3.toNode = p l2.toNode := by
    dsimp only [l3]
    split
    · exact hp.jobTime ..
    · rfl
  split
  · exact (hp.tracePort ..).trans (h3.trans (h2.trans h1))
  · exact h3.trans (h2.trans h1)

end

/-! ### The time word in a step on an empty queue -/

/-- A nanosecond of a running clock, with RATE. -/
theorem Node.tick_timeWord (n : Node) (aon : Bool) : ((n.tick true aon).time.word : Int) = n.time.word + 2 ^ 48 +
    sgn 40 (n.g (TIME_RATE_HI_RATE_HI n.tb) * 2 ^ 32 + n.g (TIME_RATE_LO_RATE_LO n.tb)) := by
  have hrate (x : Nat) (hx : x < 2 ^ 40) : -2 ^ 39 ≤ sgn 40 x := by
    unfold sgn
    split <;> omega
  have hhi := bitsOf_lt (n.word (TIME_RATE_HI_RATE_HI n.tb).off).toNat 7 0
  have hlo := bitsOf_lt (n.word (TIME_RATE_LO_RATE_LO n.tb).off).toNat 31 0
  have hbound : n.g (TIME_RATE_HI_RATE_HI n.tb) * 2 ^ 32 + n.g (TIME_RATE_LO_RATE_LO n.tb) < 2 ^ 40 := by
    have hhi' : n.g (TIME_RATE_HI_RATE_HI n.tb) < 2 ^ 8 := hhi
    have hlo' : n.g (TIME_RATE_LO_RATE_LO n.tb) < 2 ^ 32 := hlo
    omega
  have hge := hrate _ hbound
  have hword : (n.tick true aon).time.word =
      ((n.time.word : Int) + 2 ^ 48 + sgn 40 (n.g (TIME_RATE_HI_RATE_HI n.tb) * 2 ^ 32 + n.g (TIME_RATE_LO_RATE_LO n.tb))).toNat := rfl
  rw [hword]
  generalize sgn 40 (n.g (TIME_RATE_HI_RATE_HI n.tb) * 2 ^ 32 + n.g (TIME_RATE_LO_RATE_LO n.tb)) = r at hge
  omega

/-- The leaf's time word after a nanosecond, where L-TIME runs. -/
theorem Leaf.dieTick_timeWord (l : Leaf) (h : l.timeDead = false) : (l.dieTick.toNode.time.word : Int) = l.toNode.time.word + 2 ^ 48 +
    sgn 40 (l.toNode.g (TIME_RATE_HI_RATE_HI l.toNode.tb) * 2 ^ 32 + l.toNode.g (TIME_RATE_LO_RATE_LO l.toNode.tb)) := by
  have hruns : (!bitOf l.boot.failed 1 && !bitOf l.boot.held 1 && !bitOf l.boot.held 0) = true := by
    simp only [Leaf.timeDead, Leaf.aonDead, Bool.or_eq_false_iff] at h
    obtain ⟨⟨hf, h1⟩, h0⟩ := h
    rw [hf, h1, h0]
    rfl
  have hcrown : (l.toNode.lanesTick l.laneDead).crown = l.toNode.crown := Node.apartFromSending_crown.lanesTick ..
  have hregs : (l.toNode.lanesTick l.laneDead).regs = l.toNode.regs := Node.apartFromSending_regs.lanesTick ..
  have hword : (l.toNode.lanesTick l.laneDead).time.word = l.toNode.time.word := Node.apartFromSending_timeWord.lanesTick ..
  have htb : (l.toNode.lanesTick l.laneDead).tb = l.toNode.tb := by rw [Node.tb, hcrown, Node.tb]
  have hg (f : Fld) : (l.toNode.lanesTick l.laneDead).g f = l.toNode.g f := by
    rw [Node.g, Node.word, Node.table, hregs, hcrown, Node.g, Node.word, Node.table]
  have htick := Node.apartFromTick_timeWord.leafTick (l.on (·.lanesTick l.laneDead))
  rw [Leaf.on_boot, Leaf.on_toNode, hruns] at htick
  rw [Leaf.dieTick, htick, Node.tick_timeWord, hword, htb, hg, hg]

/-- Settles O20. -/
theorem timeWordAdvances : Obligations.TimeWordAdvances := by
  intro s hnone halive hstray
  obtain ⟨-, hstep⟩ | ⟨hstrayed, -⟩ := step_nil s hnone
  · exact ⟨_, hstep, s.leaf.dieTick_timeWord halive⟩
  · rw [hstray] at hstrayed
    exact absurd hstrayed (by decide)

end Sys2Proof.Machine
end

section
/-! ## The registers of Heartwood's window (R373) -/

namespace Sys2Proof.Machine

/-! ### Registers of Heartwood's window (R373) -/

/-- What the leaf's registers hold at an offset. -/
def Node.held (off : Nat) (n : Node) : Word := n.regs.get (resetOf leafTable) off

/-- What the leaf's registers hold at an offset, and the resets held. -/
def Leaf.part (off : Nat) (l : Leaf) : Word × Nat := (l.toNode.held off, l.boot.held)

theorem Leaf.part_eq {off : Nat} {l m : Leaf} (hn : m.toNode.held off = l.toNode.held off) (hb : m.boot = l.boot) : m.part off = l.part off := by
  rw [Leaf.part, hn, hb, Leaf.part]

theorem Leaf.held_of_part {off : Nat} {l m : Leaf} (h : m.part off = l.part off) : m.toNode.held off = l.toNode.held off := congrArg Prod.fst h

/-- A write in one table's terms is a write in the other's, read elsewhere. -/
theorem Tab.get_set_other {α : Type} [DecidableEq α] (d e : Nat → α) (t : Tab α) {n m : Nat} (v : α) (h : m ≠ n) :
    Tab.get d (Tab.set e t n v) m = Tab.get d t m := by
  unfold Tab.set
  split
  · exact Tab.get_drop_ne d t h
  · rw [Tab.get_ins_ne d _ v h, Tab.get_drop_ne d t h]

/-- A filter that passes every entry of a number leaves the reading of that number. -/
theorem Tab.get_filter {α : Type} (d : Nat → α) (t : Tab α) {q : Nat × α → Bool} {m : Nat} (h : ∀ v, q (m, v) = true) :
    Tab.get d (t.filter q) m = Tab.get d t m := by
  induction t with
  | nil => rfl
  | cons e t ih =>
    obtain ⟨k, v⟩ := e
    by_cases hk : m = k
    · subst hk
      rw [List.filter_cons_of_pos (h v), Tab.get, if_pos rfl, Tab.get, if_pos rfl]
    · rw [Tab.get, if_neg hk, ← ih]
      by_cases hq : q (k, v) = true
      · rw [List.filter_cons_of_pos hq, Tab.get, if_neg hk]
      · rw [List.filter_cons_of_neg hq]

theorem Node.s_held (n : Node) {f : Fld} {off : Nat} (v : Nat) (h : off ≠ f.off) : (n.s f v).held off = n.held off := Tab.get_set_other _ _ _ _ h

theorem Node.held_of_regs {n m : Node} (h : m.regs = n.regs) (off : Nat) : m.held off = n.held off := by rw [Node.held, h, Node.held]

/-! #### The registers that a reset clears -/

/-- No register of the descriptor lies in Heartwood's window. -/
def RegDesc.clear (d : RegDesc) : Bool := decide (0x10000 ≤ d.base) || decide (d.base + d.s1 * d.n1 + d.s2 * d.n2 < 0xC000)

theorem RegDesc.at_clear {d : RegDesc} {off : Nat} (h : d.clear = true) (hlo : 0xC000 ≤ off) (hhi : off < 0x10000) : d.at off = none := by
  simp only [RegDesc.clear, Bool.or_eq_true, decide_eq_true_eq] at h
  by_cases hbase : off < d.base
  · rw [RegDesc.at, if_pos hbase]
  have hend := h.resolve_left (by omega)
  rw [RegDesc.at, if_neg hbase]
  dsimp only
  rw [if_neg]
  rintro ⟨hz, hi, hj⟩
  have hfirst : off - d.base = d.s1 * (if d.s1 = 0 then 0 else (off - d.base) / d.s1) + (if d.s1 = 0 then off - d.base else (off - d.base) % d.s1) := by
    split
    · omega
    · rw [Nat.div_add_mod]
  generalize (if d.s1 = 0 then 0 else (off - d.base) / d.s1) = i at hfirst hi
  generalize (if d.s1 = 0 then off - d.base else (off - d.base) % d.s1) = y at hfirst hj hz
  have hsecond : y = d.s2 * (if d.s2 = 0 then 0 else y / d.s2) + (if d.s2 = 0 then y else y % d.s2) := by
    split
    · omega
    · rw [Nat.div_add_mod]
  generalize (if d.s2 = 0 then 0 else y / d.s2) = j at hsecond hj
  rw [hz] at hsecond
  have hmi := Nat.mul_le_mul_left d.s1 hi.le
  have hmj := Nat.mul_le_mul_left d.s2 hj.le
  omega

/-- No register of the table's rows of a scope lies in Heartwood's window. -/
def clearOf (sc : Scope) (t : List RegDesc) : Bool := t.all (fun d => d.scope != sc || d.clear)

theorem inScope_clear {t : List RegDesc} {sc : Scope} {off : Nat} (h : clearOf sc t = true) (hlo : 0xC000 ≤ off) (hhi : off < 0x10000) :
    inScope t sc off = false := by
  induction t with
  | nil => rfl
  | cons d t ih =>
    simp only [clearOf, List.all_cons, Bool.and_eq_true, Bool.or_eq_true, bne_iff_ne] at h
    obtain ⟨hd, ht⟩ := h
    unfold inScope findReg
    cases hat : d.at off with
    | none => exact ih ht
    | some ij =>
      dsimp only
      rw [beq_eq_false_iff_ne]
      intro hsc
      rw [RegDesc.at_clear (hd.resolve_left (not_not.2 hsc)) hlo hhi] at hat
      cases hat

set_option maxRecDepth 20000 in
theorem leafTable_clear : clearOf .lSap leafTable = true ∧ clearOf .lTime leafTable = true := by decide
set_option maxRecDepth 20000 in
theorem crownTable_clear : clearOf .lSap crownTable = true ∧ clearOf .cTime crownTable = true := by decide

/-! ### What the resets of a leaf's other units write -/

section
variable {off : Nat} (hlo : 0xC000 ≤ off)
include hlo

theorem Node.apartFromPacker_held : Node.ApartFromPacker (Node.held off) where
  setQ _ _ _ := rfl
  inc n f v hf := by
    refine n.s_held _ ?_
    rintro rfl
    obtain ⟨-, h⟩ | h := hf
    · omega
    · rw [h] at hlo
      exact absurd hlo (by decide)
  ring _ _ := rfl

theorem Leaf.s_part (l : Leaf) {f : Fld} (v : Nat) (hf : f.off < 0xC000) : (l.s f v).part off = l.part off :=
  Leaf.part_eq (l.toNode.s_held v (by omega)) (Leaf.s_boot ..)

/-- An operation of the packer, with a change to the tap. -/
theorem Leaf.log_part (l : Leaf) (typ : Nat) (body : List Byte) : (l.log typ body).part off = l.part off :=
  Leaf.part_eq ((Node.apartFromPacker_held hlo).log ..) rfl

end

theorem Leaf.onTap_part {off : Nat} (l : Leaf) (f : AuditTap → AuditTap) : (l.onTap f).part off = l.part off := Leaf.part_eq rfl rfl

theorem Leaf.onGuards_part {off : Nat} (l : Leaf) (f : Guards → Guards) : (l.onGuards f).part off = l.part off := Leaf.part_eq rfl rfl

theorem Leaf.setVf_part {off : Nat} (l : Leaf) (d : Nat) (x : VfDom) : (l.setVf d x).part off = l.part off := Leaf.part_eq rfl rfl

theorem Leaf.replayFetch_part {off : Nat} (l : Leaf) : l.replayFetch.part off = l.part off := by
  unfold Leaf.replayFetch
  split
  · split
    · exact Leaf.onTap_part ..
    · rfl
  · rfl

theorem Leaf.reliefShort_part {off : Nat} (l : Leaf) : l.reliefShort.part off = l.part off := by
  unfold Leaf.reliefShort
  refine foldl_keeps (Leaf.part off) _ (fun l w => ?_) _ _
  dsimp only
  split
  · rfl
  · exact Leaf.part_eq rfl rfl

section
variable {off : Nat} (hlo : 0xC000 ≤ off)
include hlo

/-! #### The tap (R325) -/

theorem Leaf.tapPump_part (fuel : Nat) (l : Leaf) : (l.tapPump fuel).part off = l.part off := by
  induction fuel generalizing l with
  | zero => rfl
  | succ m ih =>
    have hoffer (r : Rec) : (l.toNode.offer 3 r none).2.held off = l.toNode.held off := (Node.apartFromPacker_held hlo).offer _ (.inr (by decide)) ..
    have hnode (n : Node) (h : n.held off = l.toNode.held off) (f : AuditTap → AuditTap) : ({ l with toNode := n } |>.onTap f).part off = l.part off :=
      (Leaf.onTap_part _ f).trans (Leaf.part_eq h rfl)
    unfold Leaf.tapPump
    split
    · rfl
    · split
      · next r rest _ =>
        have hr := hoffer r
        split
        · next n heq =>
          rw [heq] at hr
          exact (ih _).trans (hnode n hr _)
        · rfl
      · next a rest _ _ =>
        have hr := hoffer (a.toRec l.toNode.src)
        split
        · next n heq =>
          rw [heq] at hr
          exact (ih _).trans ((Leaf.log_part hlo ..).trans (hnode n hr _))
        · rfl
      · rfl

theorem Leaf.tapSend_part (l : Leaf) (r : Rec) : (l.tapSend r).part off = l.part off := (Leaf.tapPump_part hlo ..).trans (Leaf.onTap_part ..)

theorem Leaf.tapStatus_part (l : Leaf) : l.tapStatus.part off = l.part off := by
  rw [Leaf.tapStatus, Leaf.s_part hlo _ _ (by decide), Leaf.s_part hlo _ _ (by decide), Leaf.s_part hlo _ _ (by decide)]

theorem Leaf.abandon_part (l : Leaf) (desc : List Byte) (st : Stamp) (seq reason : Nat) : (l.abandon desc st seq reason).part off = l.part off := by
  have hcount : (l.count TZ_AUD_ABANDON_COUNT).part off = l.part off := Leaf.s_part hlo l (f := TZ_AUD_ABANDON_COUNT) _ (by decide)
  exact (Leaf.tapPump_part hlo ..).trans ((Leaf.onTap_part ..).trans hcount)

theorem Leaf.tapNext_part (fuel : Nat) (l : Leaf) : (l.tapNext fuel).part off = l.part off := by
  induction fuel generalizing l with
  | zero => rfl
  | succ m ih =>
    have hreplay := Leaf.replayFetch_part (off := off) l
    unfold Leaf.tapNext
    split
    · exact Leaf.tapStatus_part hlo l
    · generalize l.replayFetch = k at hreplay
      dsimp only
      split
      · split
        · exact (ih _).trans ((Leaf.abandon_part hlo ..).trans ((Leaf.onTap_part ..).trans hreplay))
        · exact (Leaf.tapStatus_part hlo _).trans ((Leaf.tapSend_part hlo ..).trans ((Leaf.onTap_part ..).trans ((Leaf.onTap_part ..).trans hreplay)))
      · exact (Leaf.tapStatus_part hlo k).trans hreplay

theorem Leaf.endSample_part (l : Leaf) (reason : Nat) : (l.endSample reason).part off = l.part off := by
  unfold Leaf.endSample
  split
  · rfl
  · exact (Leaf.tapNext_part hlo ..).trans ((Leaf.abandon_part hlo ..).trans (Leaf.onTap_part ..))

theorem Leaf.hostUnits_part (l : Leaf) : l.hostUnits.part off = l.part off := (Leaf.endSample_part hlo ..).trans (Leaf.onTap_part ..)

theorem Leaf.tapSapReset_part (l : Leaf) : l.tapSapReset.part off = l.part off := by
  unfold Leaf.tapSapReset
  extract_lets l1
  have h1 : l1.part off = l.part off := by
    dsimp only [l1]
    split
    · exact Leaf.onTap_part ..
    · rfl
  exact (Leaf.tapNext_part hlo ..).trans ((Leaf.endSample_part hlo ..).trans ((Leaf.onTap_part ..).trans h1))

/-! #### The guards (R112) -/

theorem Leaf.vfPresent_part (l : Leaf) {d : Nat} (hd : d < 8) : (l.vfPresent d).part off = l.part off := by
  unfold Leaf.vfPresent
  split
  rw [Leaf.onGuards_part, Leaf.s_part hlo _ _ (show 0x1040 + 0x4 * d < 0xC000 by omega), Leaf.s_part hlo _ _ (show 0x1040 + 0x4 * d < 0xC000 by omega),
    Leaf.setVf_part]

theorem Leaf.vfUpdate_part (l : Leaf) : l.vfUpdate.part off = l.part off := by
  unfold Leaf.vfUpdate
  extract_lets l1
  have h1 : l1.part off = l.part off := by
    refine foldl_keeps_of_mem (Leaf.part off) _ _ (fun l d hd => ?_) _
    have hd := List.mem_range.1 hd
    dsimp only
    rw [Leaf.s_part hlo _ _ (show 0x1040 + 0x4 * d < 0xC000 by omega), Leaf.setVf_part]
  split
  · exact h1
  · split
    · next d hd => exact (Leaf.vfPresent_part hlo l1 (lowest_lt hd)).trans h1
    · exact h1

theorem Leaf.guardLine_part (l : Leaf) {g : Nat} (hg : g < 8) : (l.guardLine g).part off = l.part off := by
  unfold Leaf.guardLine
  have hset (l : Leaf) (hi low v : Nat) : (l.s ⟨0x1084 + 0x8 * g, hi, low⟩ v).part off = l.part off :=
    Leaf.s_part hlo l v (show 0x1084 + 0x8 * g < 0xC000 by omega)
  extract_lets l1 safe f l2 l3 l4 l5 l6
  have h1 : l1.part off = l.part off := by
    dsimp only [l1]
    split
    · exact hset ..
    · rfl
  have h2 : l2.part off = l1.part off := hset ..
  have h3 : l3.part off = l2.part off := hset ..
  have h4 : l4.part off = l3.part off := hset ..
  have h5 : l5.part off = l4.part off := hset ..
  have h6 : l6.part off = l5.part off := hset ..
  exact (hset ..).trans (h6.trans (h5.trans (h4.trans (h3.trans (h2.trans h1)))))

theorem Leaf.guardLines_part (l : Leaf) : l.guardLines.part off = l.part off := by
  rw [Leaf.guardLines_eq, Leaf.vfUpdate_part hlo,
    foldl_keeps_of_mem (Leaf.part off) _ _ (fun l g hg => Leaf.guardLine_part hlo l (List.mem_range.1 hg)), Leaf.reliefShort_part]

theorem Leaf.guardsForce_part (l : Leaf) : l.guardsForce.part off = l.part off := by
  unfold Leaf.guardsForce
  extract_lets l1
  have h1 : l1.part off = l.part off := by
    refine foldl_keeps_of_mem (Leaf.part off) _ _ (fun l d hd => ?_) _
    have hd := List.mem_range.1 hd
    split
    · split
      · rw [Leaf.s_part hlo _ _ (show 0x1040 + 0x4 * d < 0xC000 by omega), Leaf.setVf_part]
      · rfl
    · rfl
  rw [Leaf.guardLines_part hlo, Leaf.onGuards_part, h1]

end

/-! #### The resets of a leaf (R481) -/

theorem Node.s_held_lo (n : Node) {f : Fld} {off : Nat} (v : Nat) (hlo : 0xC000 ≤ off) (hf : f.off < 0xC000) : (n.s f v).held off = n.held off :=
  n.s_held v (by omega)

theorem Node.packReset_held {off : Nat} (n : Node) : n.packReset.held off = n.held off := by
  refine (foldl_keeps (Node.held off) _ (fun n k => ?_) _ _).trans ?_ <;> rfl

section
variable {off : Nat} (hlo : 0xC000 ≤ off) (hhi : off < 0x10000)
include hlo hhi

theorem Node.resetRegs_held (n : Node) {sc : Scope} (h : clearOf sc n.table = true) : (n.resetRegs sc).held off = n.held off :=
  Tab.get_filter _ _ (fun _ => by rw [inScope_clear h hlo hhi]; rfl)

theorem Leaf.sapUnits_part (l : Leaf) : l.sapUnits.part off = l.part off := by
  have hsap (n : Node) : clearOf .lSap n.table = true := by
    unfold Node.table
    split
    · exact crownTable_clear.1
    · exact leafTable_clear.1
  have hnode (l : Leaf) (f : Node → Node) (h : (f l.toNode).held off = l.toNode.held off) : (l.on f).part off = l.part off := Leaf.part_eq h rfl
  have hreset (n : Node) : (n.resetRegs .lSap).held off = n.held off := Node.resetRegs_held hlo hhi n (hsap n)
  unfold Leaf.sapUnits
  exact (Leaf.tapSapReset_part hlo _).trans ((Leaf.s_part hlo _ _ (by decide)).trans ((hnode _ _ (Node.packReset_held _)).trans
    ((hnode _ _ (hreset _)).trans (Leaf.part_eq rfl rfl))))

theorem Node.timeReset_held (n : Node) : n.timeReset.held off = n.held off := by
  refine Node.resetRegs_held hlo hhi n ?_
  unfold Node.table
  split
  · exact crownTable_clear.2
  · exact leafTable_clear.2

theorem Node.timeResetTold_held (n : Node) : n.timeResetTold.held off = n.held off := by
  have hreport (m : Node) {cls : Nat} (h : cls < 8) : (m.report cls).held off = m.held off := (Node.apartFromPacker_held hlo).report (fun _ _ => rfl) m h
  unfold Node.timeResetTold
  extract_lets was code n1 n2
  have hreset : n1.held off = n.held off := Node.timeReset_held hlo hhi n
  clear_value n1
  have h2 : n2.held off = n.held off := by
    dsimp only [n2]
    split
    · exact (hreport _ (by decide)).trans hreset
    · exact hreset
  split
  · exact h2
  · exact (hreport _ (by decide)).trans h2

theorem Node.leafParent_held (n : Node) : n.leafParent.held off = n.held off := by
  refine (Node.apartFromPacker_held hlo).reparent (fun _ _ => rfl) (fun _ _ => rfl) _ (fun m f v hc hf => m.s_held v ?_)
  obtain ⟨-, h⟩ | h := hf
  · rw [h, show BZ_TIME_SRC_LANE.off = 0x10104 from rfl]
    omega
  · rw [h, Node.tb]
    split <;> omega

theorem Leaf.timeUnits_part (l : Leaf) : l.timeUnits.part off = l.part off := by
  have hnode : ((if l.sapHeld then l.toNode.timeReset else l.toNode.timeResetTold).leafParent).held off = l.toNode.held off := by
    rw [Node.leafParent_held hlo hhi]
    split
    · exact Node.timeReset_held hlo hhi _
    · exact Node.timeResetTold_held hlo hhi _
  exact Leaf.part_eq hnode rfl

/-- A lane's reset that does not start the lane clears the lane's registers. -/
theorem Node.leafLaneReset_held (n : Node) {k : Nat} (hk : k < 2) : (n.leafLaneReset k false).held off = n.held off := by
  have hout : (decide (n.lb k ≤ off) && decide (off < n.lb k + 0x100)) = false := by
    rw [Node.lb]
    split <;> simp <;> omega
  unfold Node.leafLaneReset
  dsimp only
  rw [Bool.false_and, Bool.false_and, if_neg (by decide)]
  exact Tab.get_filter _ _ (fun _ => by rw [hout]; rfl)

omit hhi in
theorem Leaf.aonUnits_held (l : Leaf) : l.aonUnits.toNode.held off = l.toNode.held off := by
  have hkept : Tab.get (resetOf leafTable) (keptRegs l.regs) off = l.toNode.held off := Tab.get_filter _ _ (fun _ => by rw [decide_eq_true hlo, Bool.true_or])
  unfold Leaf.aonUnits
  exact (Leaf.held_of_part (Leaf.guardsForce_part hlo _)).trans hkept

end

/-- A bit that was put is set. -/
theorem bitOf_putBits_one (x r : Nat) : bitOf (putBits x r r 1) r = true := by
  have hput := congrArg (fun y => y.testBit 0) (bitsOf_putBits_self x r r 1)
  simp only [testBit_bitsOf, Nat.add_sub_cancel_left, Nat.zero_lt_one, decide_true, Bool.true_and, Nat.add_zero] at hput
  exact hput.trans (by decide)

/-- The reset is held, and Heartwood's window keeps its registers. -/
theorem Leaf.resetAssert_spec (l : Leaf) {r : Nat} (hr : r < 6) : bitOf (l.resetAssert r).boot.held r = true ∧
    ∀ off, 0xC000 ≤ off → off < 0x10000 → (l.resetAssert r).toNode.held off = l.toNode.held off := by
  have hheld (l : Leaf) : bitOf (l.onBoot (fun b => { b with held := putBits b.held r r 1 })).boot.held r = true := by
    rw [Leaf.onBoot_boot]
    exact bitOf_putBits_one _ r
  have hnode (l : Leaf) (f : LeafBoot → LeafBoot) : (l.onBoot f).toNode = l.toNode := (rfl)
  have hlane (k : Nat) (hk : k < 2) (off : Nat) (hlo : 0xC000 ≤ off) (hhi : off < 0x10000) : (l.on (·.leafLaneReset k false)).toNode.held off = l.toNode.held off := by
    rw [Leaf.on_toNode]
    exact Node.leafLaneReset_held hlo hhi _ hk
  match r, hr with
  | 0, _ => exact ⟨hheld _, fun off hlo hhi => (congrArg (Node.held off) (hnode ..)).trans (Leaf.aonUnits_held hlo l)⟩
  | 1, _ => exact ⟨hheld _, fun off hlo hhi => (congrArg (Node.held off) (hnode ..)).trans (Leaf.held_of_part (Leaf.timeUnits_part hlo hhi l))⟩
  | 2, _ =>
    have hpart (off : Nat) (hlo : 0xC000 ≤ off) (hhi : off < 0x10000) := Leaf.sapUnits_part hlo hhi (l.onBoot (fun b => { b with held := putBits b.held 2 2 1 }))
    refine ⟨?_, fun off hlo hhi => (Leaf.held_of_part (hpart off hlo hhi)).trans (congrArg (Node.held off) (hnode ..))⟩
    exact (congrArg (bitOf · 2) (congrArg Prod.snd (hpart 0xC000 (by decide) (by decide)))).trans (hheld l)
  | 3, _ =>
    have hpart (off : Nat) (hlo : 0xC000 ≤ off) := Leaf.hostUnits_part hlo (l.onBoot (fun b => { b with held := putBits b.held 3 3 1 }))
    refine ⟨?_, fun off hlo _ => (Leaf.held_of_part (hpart off hlo)).trans (congrArg (Node.held off) (hnode ..))⟩
    exact (congrArg (bitOf · 3) (congrArg Prod.snd (hpart 0xC000 (by decide)))).trans (hheld l)
  | 4, _ => exact ⟨hheld _, fun off hlo hhi => (congrArg (Node.held off) (hnode ..)).trans (hlane 0 (by decide) off hlo hhi)⟩
  | 5, _ => exact ⟨hheld _, fun off hlo hhi => (congrArg (Node.held off) (hnode ..)).trans (hlane 1 (by decide) off hlo hhi)⟩

/-- Settles O17. -/
theorem dieResetsSpareHeartwood : Obligations.DieResetsSpareHeartwood := by
  intro s r hr
  have hrun : runsOnLeaf (.resetAssert .die r) .die free (·.resetAssert r) := runsOnLeaf_of_byLeaf fun _ => rfl
  obtain ⟨hheld, hregs⟩ := s.leaf.resetAssert_spec hr
  exact ⟨_, hrun s rfl, Leaf.resetAssert_heart .., hregs, hheld, rfl, rfl⟩

end Sys2Proof.Machine
end

section
/-! ## A step on an empty queue -/

namespace Sys2Proof.Machine

/-- The running jobs of the engine go on. -/
def Crown.jobsTick (c : Crown) : Crown := (List.range 8).foldl (fun (c : Crown) k => match c.engJob k with
  | some j => if j.running then c.jobTick k j else c
  | none => c) c

/-- The scrubber goes on while HBM is ready. -/
def Crown.scrubTick (c : Crown) : Crown :=
  if c.hbmReady then { c with eng := { c.eng with scrub := (c.eng.scrub + 1) % (max 1 (c.g BZ_MC_SCRUB_HOURS) * 3600000000000) } } else c

theorem Crown.engTick_eq (c : Crown) : c.engTick = c.fenceJobs.jobsTick.scrubTick := by
  unfold Crown.engTick
  extract_lets d
  have hd : c.fenceJobs.jobsTick = d := rfl
  rw [hd]
  rfl

/-! ### What the engine, the tree unit and Grove leave alone in a nanosecond -/

namespace Crown.Apart

variable {α β : Type} {q : Node → β} {p : Crown → α} (hp : Crown.Apart q p)
include hp

/-! #### The engine (R244, R256) -/

theorem setEngJob (c : Crown) (k : Nat) (j : Option EngJob) : p (c.setEngJob k j) = p c := by
  rw [Crown.setEngJob, hp.s, hp.eng]

theorem writeCpl (c : Crown) (r : Ring) (l : List Byte) : p (c.writeCpl r l) = p c := by
  rw [Crown.writeCpl, hp.s, hp.hbmWrite]

theorem engComplete (c : Crown) (k : Nat) (recs : List (List Byte)) : p (c.engComplete k recs) = p c := by
  rw [Crown.engComplete, hp.engRescan, hp.setEngJob]
  refine foldl_keeps p _ (fun c x => ?_) _ _
  rw [hp.count, hp.writeCpl]

theorem engEnd (c : Crown) (k : Nat) (j : EngJob) (status : Nat) : p (c.engEnd k j status) = p c := hp.engComplete ..

theorem poisoned (c : Crown) : p c.poisoned = p c := (hp.inc _ _ _).trans (hp.draw c 3)

theorem hbmVoid (c : Crown) (a n : Nat) : p (c.hbmVoid a n) = p c := by
  unfold Crown.hbmVoid
  refine (foldl_keeps p _ (fun c i => ?_) _ _).trans (hp.on _ _ (hp.node_fresh ..))
  exact ite (hp.hbmPut ..) rfl

theorem voidOutputs (c : Crown) (l : List (List Byte)) : p (c.voidOutputs l) = p c :=
  foldl_keeps p _ (fun _ _ => foldl_keeps p _ (fun c _ => hp.hbmVoid c _ _) _ _) _ _

theorem noteRival (c before : Crown) (k : Nat) (l : List (List Byte)) : p (c.noteRival before k l) = p c := by
  refine foldl_keeps p _ (fun c i => ?_) _ _
  split
  · exact ite (hp.setEngJob ..) rfl
  · rfl

theorem clearCells (c : Crown) (k : Nat) (l : List (List Byte)) : p (c.clearCells k l) = p c := hp.eng ..

theorem stopChain (c : Crown) (k : Nat) (l : List (List Byte)) : p (c.stopChain k l) = p c := by
  rw [Crown.stopChain, hp.clearCells, hp.noteRival, hp.voidOutputs]

theorem engineFault (c : Crown) (k code pcell : Nat) : p (c.engineFault k code pcell) = p c := by
  unfold Crown.engineFault
  split
  · rfl
  · next j _ =>
    split
    · rfl
    · extract_lets c1 c2 c3 j'
      have h1 : p c1 = p c := by rw [hp.s, hp.s, hp.s, hp.count]
      clear_value c1
      have h2 : p c2 = p c1 := ite (hp.poisoned c1) rfl
      clear_value c2
      have h3 : p c3 = p c2 := hp.stopChain ..
      clear_value c3
      refine Eq.trans ?_ (h3.trans (h2.trans h1))
      refine ite (hp.engEnd ..) (ite (hp.engEnd ..) ?_)
      rw [hp.engRescan, hp.count, hp.setEngJob]

theorem fenceJobs (c : Crown) : p c.fenceJobs = p c := by
  refine foldl_keeps p _ (fun c k => ?_) _ _
  split
  · exact ite (hp.engineFault ..) rfl
  · rfl

theorem holdCells (c : Crown) (d : List Byte) (x : JobPlace) : p (c.holdCells d x) = p c := ite (hp.eng ..) rfl

theorem jobTick (c : Crown) (k : Nat) (j : EngJob) : p (c.jobTick k j) = p c := by
  unfold Crown.jobTick
  extract_lets hz j'
  split
  · exact hp.setEngJob ..
  · extract_lets cost
    split
    · exact hp.setEngJob ..
    · rename_i c' _
      refine (hp.setEngJob ..).trans ?_
      dsimp only [c']
      split
      · rfl
      · exact hp.holdCells ..

theorem engTick (c : Crown) : p c.engTick = p c := by
  have hjobs (c : Crown) : p c.jobsTick = p c := by
    refine foldl_keeps p _ (fun c k => ?_) _ _
    split
    · exact ite (hp.jobTick ..) rfl
    · rfl
  have hscrub (c : Crown) : p c.scrubTick = p c := ite (hp.eng ..) rfl
  rw [Crown.engTick_eq, hscrub, hjobs, hp.fenceJobs]

/-! #### The tree unit -/

theorem setTreeJob (c : Crown) (k : Nat) (j : Option EngJob) : p (c.setTreeJob k j) = p c := by
  rw [Crown.setTreeJob, hp.s, hp.tree]

theorem treeTick (c : Crown) : p c.treeTick = p c := by
  refine foldl_keeps p _ (fun c k => ?_) _ _
  split
  · exact ite (hp.setTreeJob ..) rfl
  · rfl

/-! #### Grove's claims -/

theorem idleEngines (c : Crown) (k : Nat) : p (c.idleEngines k) = p c :=
  (foldl_keeps p _ (fun c _ => hp.age c _) _ _).trans (hp.aud c (fun a => { a with engines := a.engines.filter (fun e => e.1 / 256 != k) }))

theorem graftRec (c : Crown) (typ word oldP newP group : Nat) (radio : Bool) (tfail : Nat) : p (c.graftRec typ word oldP newP group radio tfail) = p c :=
  (hp.sendUp _ (show 5 < 8 by decide)).trans (hp.nextGseq c)

theorem winGraft (c : Crown) (leaf : Nat) : p (c.winGraft leaf) = p c := by
  rw [Crown.winGraft, hp.writeDirectory]
  refine foldl_keeps p _ (fun c e => ?_) _ _
  split
  · rfl
  · rw [hp.setWin, hp.breakAll]

theorem vacate (c : Crown) (k : Claim) : p (c.vacate k) = p c := by
  rw [Crown.vacate, hp.groveRegs, hp.graftRec, hp.grove]

theorem serveClaims (hport : ∀ c k e, p (Crown.setPort c k e) = p c) (hboot : ∀ c f, p (Crown.onBoot c f) = p c) (c : Crown) : p c.serveClaims = p c := by
  have hassign (c : Crown) (k word : Nat) : p (c.sendAssign k word) = p c := (hp.bulkDown ..).trans (hboot ..)
  have hgraft (c : Crown) (sp num oldP group : Nat) (radio : Bool) (tfail : Nat) : p (c.graft sp num oldP group radio tfail) = p c := by
    rw [Crown.graft, hp.winGraft, hp.graftRec, hp.count, hassign, hp.idleEngines, hp.setDie, hport]
  have hserve (c : Crown) (k : Claim) : p (c.serveClaim k) = p c := by
    unfold Crown.serveClaim
    split
    · exact hgraft ..
    · rw [hp.vacate, hp.count]
  exact ite rfl ((foldl_keeps p _ hserve _ _).trans (hp.grove ..))

end Crown.Apart

/-! ### The nanoseconds that a node has counted -/

theorem Node.s_ns (n : Node) (f : Fld) (v : Nat) : (n.s f v).ns = n.ns := (rfl)
theorem Node.onTx_ns (n : Node) (k : Nat) (f : LaneTx → LaneTx) : (n.onTx k f).ns = n.ns := (rfl)
theorem Node.onRx_ns (n : Node) (k : Nat) (f : LaneRx → LaneRx) : (n.onRx k f).ns = n.ns := (rfl)
theorem Node.draw_ns (n : Node) (w : Nat) : (n.draw w).2.ns = n.ns := (rfl)

theorem Node.entered_ns (n : Node) (k st : Nat) (on : Bool) : (n.entered k st on).ns = n.ns := by
  unfold Node.entered
  dsimp only
  split
  · exact Node.setLane_ns ..
  · rw [Node.onRx_ns, Node.onTx_ns, Node.setLane_ns]

theorem Node.enter_ns (n : Node) (k st : Nat) : (n.enter k st).ns = n.ns := by
  rw [Node.enter_eq, Node.entered_ns, Node.stateRegs, Node.s_ns, Node.s_ns]

theorem Node.takeEngine_ns (n : Node) (k e : Nat) : (n.takeEngine k e).ns = n.ns := by
  unfold Node.takeEngine
  dsimp only
  split
  · exact (Node.s_ns ..).trans (Node.setLane_ns ..)
  · exact Node.setLane_ns ..

theorem Node.newAttempt_ns (n : Node) (k : Nat) : (n.newAttempt k).ns = n.ns := by
  unfold Node.newAttempt
  dsimp only
  rw [Node.setLane_ns, Node.count, Node.inc, Node.s_ns, Node.s_ns, Node.noEsnr, Node.s_ns, Node.onTx_ns, Node.draw_ns, Node.draw_ns, Node.draw_ns]

theorem Node.startAttempt_ns (n : Node) (k : Nat) : (n.startAttempt k).ns = n.ns := by
  unfold Node.startAttempt
  split
  · rfl
  · split
    · exact Node.enter_ns ..
    · split
      · rw [Node.probe, Node.enter_ns, Node.newAttempt_ns, Node.takeEngine_ns]
      · exact Node.enter_ns ..

/-- The nanoseconds of the crown. -/
theorem Crown.apart_ns : Crown.Apart Node.ns (fun c => c.toNode.ns) where
  pack := Node.apartFromTick_ns.toApartFromPacker
  node_s _ _ _ := rfl
  node_emit _ _ := rfl
  node_fresh _ _ := rfl
  on _ _ h := h
  grove _ _ := rfl
  win _ _ := rfl
  aud _ _ := rfl
  age _ _ := rfl
  eng _ _ := rfl
  tree _ _ := rfl
  hbmPut _ _ _ := rfl
  stray _ _ := rfl

/-! ### The resets that end in a nanosecond (R485) -/

/-- The crown `d` has accessed no further HBM, and has the engine, Grove and the nanoseconds of `c`. -/
structure Crown.SameWork (c d : Crown) : Prop where
  stray : d.stray = c.stray
  eng : d.eng = c.eng
  grove : d.grove = c.grove
  ns : d.toNode.ns = c.toNode.ns

namespace Crown.SameWork

theorem refl (c : Crown) : c.SameWork c := ⟨rfl, rfl, rfl, rfl⟩

theorem trans {c d e : Crown} (h : c.SameWork d) (k : d.SameWork e) : c.SameWork e :=
  ⟨k.stray.trans h.stray, k.eng.trans h.eng, k.grove.trans h.grove, k.ns.trans h.ns⟩

theorem foldl {α : Type} {g : Crown → α → Crown} (h : ∀ (c : Crown) (x : α), c.SameWork (g c x)) (xs : List α) (c : Crown) : c.SameWork (xs.foldl g c) := by
  induction xs generalizing c with
  | nil => exact refl c
  | cons x xs ih => exact (h c x).trans (ih _)

theorem on (c : Crown) {f : Node → Node} (h : (f c.toNode).ns = c.toNode.ns) : c.SameWork (c.on f) := ⟨rfl, rfl, rfl, h⟩

theorem s (c : Crown) (f : Fld) (v : Nat) : c.SameWork (c.s f v) := on c (Node.s_ns ..)

theorem onClk (c : Crown) (f : Clocks → Clocks) : c.SameWork (c.onClk f) := ⟨rfl, rfl, rfl, rfl⟩

theorem self (c : Crown) (l : Leaf) : c.SameWork { c with self := l } := ⟨rfl, rfl, rfl, rfl⟩

theorem lanesStart (c : Crown) (d : Nat) : c.SameWork (c.lanesStart d) := by
  unfold Crown.lanesStart
  extract_lets c1
  have h1 : c.SameWork c1 := onClk ..
  clear_value c1
  split
  · refine h1.trans (foldl (fun c k => ?_) _ _)
    split
    · exact on c (Node.startAttempt_ns ..)
    · exact refl c
  · exact h1

theorem domainStart (c : Crown) (d : Nat) : c.SameWork (c.domainStart d) := by
  unfold Crown.domainStart
  split
  · exact (self c _).trans (on _ (Node.apartFromTick_ns.toApartFromPacker.log ..))
  · exact foldl (fun c i => s c _ _) _ _
  · exact foldl (fun c i => s c _ _) _ _
  · exact lanesStart ..
  · exact lanesStart ..
  · exact lanesStart ..
  · exact refl c

theorem releaseReset (c : Crown) (d : Nat) : c.SameWork (c.releaseReset d) :=
  (s c _ _).trans ((onClk _ _).trans ((s _ _ _).trans (domainStart _ d)))

theorem resetTick (c : Crown) : c.SameWork c.resetTick := by
  unfold Crown.resetTick
  split
  · exact refl c
  · refine foldl (fun c d => ?_) _ _
    split
    · exact releaseReset c d
    · exact refl c

end Crown.SameWork

/-! ### A step on an empty queue (log entry 1) -/

theorem Crown.onBoot_ns (c : Crown) (f : CrownBoot → CrownBoot) : (c.onBoot f).toNode.ns = c.toNode.ns := (rfl)
theorem Crown.setPort_ns (c : Crown) (k : Nat) (e : PortEntry) : (c.setPort k e).toNode.ns = c.toNode.ns := (rfl)

/-- The crown of a nanosecond before its running jobs go on. -/
def Crown.clockTick (c : Crown) : Crown :=
  let c := c.on (fun n => (n.lanesTick c.laneDead).tick (c.live 4) (!c.clockFailed 0))
  ({ c with self := c.self.tick.unless c.self.guardDead Leaf.tiedInputs } : Crown).resetTick

theorem Crown.tick_eq (c : Crown) : c.tick = c.clockTick.engTick.treeTick.groveTick := rfl

theorem Node.lanesTick_tick_ns (n : Node) (dead : Nat → Bool) (runs aon : Bool) : ((n.lanesTick dead).tick runs aon).ns = n.ns + 1 :=
  congrArg (· + 1) (Node.apartFromSending_ns.lanesTick n dead)

/-- The clocks of a crown access no HBM and leave the engine and Grove as they are; a nanosecond has passed. -/
theorem Crown.clockTick_spec (c : Crown) : c.clockTick.stray = c.stray ∧ c.clockTick.eng = c.eng ∧ c.clockTick.grove = c.grove ∧
    c.clockTick.toNode.ns = c.toNode.ns + 1 := by
  have hon (f : Node → Node) (l : Leaf) : ({ c.on f with self := l } : Crown).stray = c.stray ∧ ({ c.on f with self := l } : Crown).eng = c.eng ∧
      ({ c.on f with self := l } : Crown).grove = c.grove ∧ ({ c.on f with self := l } : Crown).toNode.ns = (f c.toNode).ns := ⟨rfl, rfl, rfl, rfl⟩
  have hreset (d : Crown) := Crown.SameWork.resetTick d
  unfold Crown.clockTick
  obtain ⟨hstray, heng, hgrove, hns⟩ := hon (fun n => (n.lanesTick c.laneDead).tick (c.live 4) (!c.clockFailed 0))
    ((c.on (fun n => (n.lanesTick c.laneDead).tick (c.live 4) (!c.clockFailed 0))).self.tick.unless
      (c.on (fun n => (n.lanesTick c.laneDead).tick (c.live 4) (!c.clockFailed 0))).self.guardDead Leaf.tiedInputs)
  exact ⟨(hreset _).stray.trans hstray, (hreset _).eng.trans heng, (hreset _).grove.trans hgrove,
    (hreset _).ns.trans (hns.trans (Node.lanesTick_tick_ns ..))⟩

theorem Crown.tick_ns (c : Crown) : c.tick.toNode.ns = c.toNode.ns + 1 := by
  have hgrove (d : Crown) : d.groveTick.toNode.ns = d.toNode.ns :=
    Crown.Apart.ite (p := fun c => c.toNode.ns) (Crown.apart_ns.serveClaims Crown.setPort_ns Crown.onBoot_ns d) rfl
  obtain ⟨-, -, -, hns⟩ := c.clockTick_spec
  rw [Crown.tick_eq, hgrove]
  exact (Crown.apart_ns.treeTick _).trans ((Crown.apart_ns.engTick _).trans hns)

/-- A step of a loop that leaves the state as it is leaves it at the end. -/
theorem foldl_id_of_mem {σ α : Type} {g : σ → α → σ} {xs : List α} {s : σ} (h : ∀ x ∈ xs, g s x = s) : xs.foldl g s = s := by
  induction xs with
  | nil => rfl
  | cons x xs ih =>
    rw [List.foldl_cons, h x (List.mem_cons_self ..)]
    exact ih (fun y hy => h y (List.mem_cons_of_mem _ hy))

/-- Where no job runs, the engine's nanosecond moves its scrubber at most. -/
theorem Crown.engTick_idle {c : Crown} (h : ∀ k j, k < 8 → c.engJob k = some j → j.running = false) :
    c.engTick.stray = c.stray ∧ c.engTick.grove = c.grove := by
  have hfence : c.fenceJobs = c := by
    refine foldl_id_of_mem fun k hk => ?_
    split
    · next j hj => rw [h k j (List.mem_range.1 hk) hj, Bool.false_and, if_neg (by decide)]
    · rfl
  have hjobs : c.jobsTick = c := by
    refine foldl_id_of_mem fun k hk => ?_
    split
    · next j hj => rw [h k j (List.mem_range.1 hk) hj, if_neg (by decide)]
    · rfl
  rw [Crown.engTick_eq, hfence, hjobs, Crown.scrubTick]
  split <;> exact ⟨rfl, rfl⟩

theorem Crown.treeTick_calm (c : Crown) : c.treeTick.stray = c.stray ∧ c.treeTick.grove = c.grove := by
  have hset (c : Crown) (k : Nat) (j : Option EngJob) : (c.setTreeJob k j).stray = c.stray ∧ (c.setTreeJob k j).grove = c.grove := by
    rw [Crown.setTreeJob]
    exact ⟨Crown.s_stray .., (Crown.SameWork.s _ _ _).grove⟩
  constructor
  · refine foldl_keeps Crown.stray _ (fun c k => ?_) _ _
    split
    · split
      · exact (hset ..).1
      · rfl
    · rfl
  · refine foldl_keeps Crown.grove _ (fun c k => ?_) _ _
    split
    · split
      · exact (hset ..).2
      · rfl
    · rfl

theorem Crown.groveTick_idle {c : Crown} (h : c.grove.claims = []) : c.groveTick = c := by
  have hserve : c.serveClaims = c := if_pos (by rw [h]; rfl)
  unfold Crown.groveTick
  split
  · exact hserve
  · rfl

/-- With no claim waiting and no job running, a nanosecond of the crown accesses no HBM. -/
theorem Crown.tick_stray {c : Crown} (hclaims : c.grove.claims = []) (hjobs : ∀ k j, k < 8 → c.engJob k = some j → j.running = false) :
    c.tick.stray = c.stray := by
  obtain ⟨hstray, heng, hgrove, -⟩ := c.clockTick_spec
  have hjobs' : ∀ k j, k < 8 → c.clockTick.engJob k = some j → j.running = false := by
    intro k j hk hj
    rw [Crown.engJob, heng, ← Crown.engJob] at hj
    exact hjobs k j hk hj
  obtain ⟨hengStray, hengGrove⟩ := Crown.engTick_idle hjobs'
  obtain ⟨htreeStray, htreeGrove⟩ := c.clockTick.engTick.treeTick_calm
  have hnone : c.clockTick.engTick.treeTick.grove.claims = [] := by rw [htreeGrove, hengGrove, hgrove, hclaims]
  rw [Crown.tick_eq, Crown.groveTick_idle hnone, htreeStray, hengStray, hstray]

theorem Leaf.dieTick_ns (l : Leaf) : l.dieTick.toNode.ns = l.toNode.ns + 1 := by
  have htick := Node.apartFromTick_ns.leafTick (l.on (·.lanesTick l.laneDead))
  rw [Leaf.on_toNode] at htick
  exact htick.trans (Node.lanesTick_tick_ns ..)

/-- Settles O2. -/
theorem emptyQueueTicks : Obligations.EmptyQueueTicks := by
  intro s hnone
  refine ⟨fun hstray => ?_, fun hstrayed => ?_, fun hclaims hjobs hstray => (Crown.tick_stray hclaims hjobs).trans hstray⟩
  · obtain ⟨-, hstep⟩ | ⟨hstrayed, -⟩ := step_nil s hnone
    · exact ⟨_, hstep, rfl, hnone, s.leaf.dieTick_ns, s.crown.tick_ns⟩
    · rw [hstray] at hstrayed
      exact absurd hstrayed (by decide)
  · obtain ⟨hstray, -⟩ | ⟨-, hstep⟩ := step_nil s hnone
    · rw [hstrayed] at hstray
      exact absurd hstray (by decide)
    · exact hstep

end Sys2Proof.Machine
end
